-- ==== Sys2Proof/Word.lean ====
section
/-! DEFINITION. The word types of the V9 (00 R3, R4): bytes, 16-bit parcels, 32-bit words and 64-bit dwords, and
the 256-bit tile descriptor. -/

namespace Sys2Proof

/-- A byte of memory. -/
abbrev Byte := BitVec 8
/-- A 16-bit parcel or half word. -/
abbrev W16 := BitVec 16
/-- A 32-bit word: one thread's value of a vector register. -/
abbrev W32 := BitVec 32
/-- A 64-bit dword: a scalar register. -/
abbrev W64 := BitVec 64
/-- A tile descriptor register (05 R87). -/
abbrev Desc := BitVec 256

end Sys2Proof
end

