-- ==== Sys2Proof/Syntax.lean ====
section
/-! DEFINITION. The instructions of the V9 (02 R30) and the steps of its other agents (95): ONE inductive,
one constructor per row of spec/opcode_table.json.

The first group has encodings. A constructor's arguments are the fields of the row, the lowest field of the
word first (destination, then sources, then the rest). The second group has none: its members are the
indivisible steps that spec/95_what_each_step_holds.md lists for the engines, the Orrery, the scheduler,
the firmware Ablas, the host and the memory system; their arguments say which agent or item the step is about. -/

namespace Sys2Proof

/-- What PART_CREATE and BOOT_CONTINUE say of one partition (17 R368, R369): its first quarter, its number of
quarters (1, 2 or 4), its SRAM split (scratchpad KiB, R114), its service cores per die (R293) and its
pre-emption delay in ns (R316). -/
structure PartSpec where
  quarter : Nat
  count   : Nat
  split   : Nat
  service : Option Nat
  delay   : Nat
  deriving DecidableEq, Repr

/-- What CTX_CREATE or QUEUE_BIND says of a chain (05 R77, R78): its engine, the addresses of its segments, its annex
and completion word, PRIV. -/
structure ChainSpec where
  engine  : Nat
  segs    : List Nat
  annex   : Nat
  cwAddr  : Nat
  priv    : Bool := false
  deriving DecidableEq, Repr

/-- What CTX_CREATE says of one context (17 R368): partition (its first quarter), tenant, ASID, page-table root (R36),
chain table, default chain (R77), handle table (R257), group directory (R278), save pool (R360), KTVEC (R343), granted
Meridian groups (R327), and the EBUD RATE it starts with (R212). -/
structure CtxSpec where
  part    : Nat
  tenant  : Nat
  asid    : Nat
  root    : Nat
  table   : Nat
  chain   : ChainSpec
  htBase  : Nat
  htSize  : Nat
  gdBase  : Nat
  savePool : List Nat
  ktvec   : W64
  groups  : List Nat
  rate    : Nat
  deriving DecidableEq, Repr

/-- A host write to a BAR0 register or through BAR2 (17 R364): its value; with ADMTAIL, dword 0 of each record that the host has written into
the admin ring since (R367). -/
structure BarWrite where
  val  : W64
  recs : List W64 := []
  deriving DecidableEq, Repr

/-- The STATUS command (17 R368): its TAG, the entry of the error log from which it answers. -/
structure StatusCmd where
  tag   : Nat
  first : Nat := 0
  deriving DecidableEq, Repr

/-- What the limiter of a die has measured (17 R378): the package power in mW, the die's hottest junction in 1/64 °C. -/
structure Reading where
  die      : Nat
  power    : Nat
  junction : Nat
  deriving DecidableEq, Repr

/-- A packet that another chip replicates to this one (13 R299): the originating chip, and the packet's sequence number in its
launch queue there; the context and mode, the packet's dwords, the chips of the launch. -/
structure Replica where
  chip  : Nat
  seq   : Nat
  asid  : Nat
  priv  : Bool
  dws   : List Nat
  chips : List Nat
  deriving DecidableEq, Repr

/-- Where a launch packet comes from (14 R312; 13 R299): the launch queue that takes it, and the packet itself where another
chip replicates it. -/
structure PacketSource where
  queue : Nat
  from_ : Option Replica := none
  deriving DecidableEq, Repr

/-- What one chip tells another of a replicated launch (13 R299): to the originator, that it has accepted or rejected the
packet; from the originator, that the launch is off, or its generation G and start time T. -/
inductive Answer where
  | accepted
  | rejected
  | start (gen time : Nat)
  deriving DecidableEq, Repr

/-- What an Invasive debug session changes (16 R355, 17 R372): a dword of a stopped warp's save record, by warp and offset; a
dword of its context's memory. -/
inductive Edit where
  | record (warp off : Nat) (x : W64)
  | memory (va : Nat) (x : W64)
  deriving DecidableEq, Repr

/-- What MAP says of a page (03 R38, R39; 12 R261): tier, size code, lease class, permissions L W X U from bit 0 on,
PR; or that a frame joins the KV pool instead. -/
structure MapSpec where
  tier    : Nat
  size    : Nat
  lc      : Nat
  perm    : BitVec 4
  pr      : Bool := false
  pool    : Bool := false
  deriving DecidableEq, Repr

/-- What QUEUE_BIND says (17 R365, R366; 14 R312): a chain slot of a context, or a launch queue of a partition whose
ring and completion word stand in the context's memory; the host queue, HCW and vector where it is a host queue. -/
structure QueueSpec where
  asid    : Nat
  part    : Nat
  launch  : Bool
  num     : Nat
  chain   : ChainSpec
  ring    : Nat
  size    : Nat
  host    : Option Nat
  hcw     : Nat
  vec     : Nat
  deriving DecidableEq, Repr

inductive Instr where
  /-- SADD (R154). Adds two 64-bit scalars modulo 2^64. -/
  | sadd (d : BitVec 6) (a : BitVec 6) (b : BitVec 6)
  /-- SSUB (R154). Subtracts two 64-bit scalars modulo 2^64. -/
  | ssub (d : BitVec 6) (a : BitVec 6) (b : BitVec 6)
  /-- SMUL (R154). Multiplies two scalars and keeps the low 64 bits. -/
  | smul (d : BitVec 6) (a : BitVec 6) (b : BitVec 6)
  /-- SMULH (R154). Gives the high 64 bits of the signed 128-bit product. -/
  | smulh (d : BitVec 6) (a : BitVec 6) (b : BitVec 6)
  /-- SMULHN (R154). Gives the high 64 bits of the unsigned 128-bit product. -/
  | smulhn (d : BitVec 6) (a : BitVec 6) (b : BitVec 6)
  /-- SDIV (R155). Signed scalar division truncating toward zero, never trapping. -/
  | sdiv (d : BitVec 6) (a : BitVec 6) (b : BitVec 6)
  /-- SDIVN (R155). Unsigned scalar division, never trapping. -/
  | sdivn (d : BitVec 6) (a : BitVec 6) (b : BitVec 6)
  /-- SREM (R155). Signed scalar remainder with the sign of the dividend. -/
  | srem (d : BitVec 6) (a : BitVec 6) (b : BitVec 6)
  /-- SREMN (R155). Unsigned scalar remainder. -/
  | sremn (d : BitVec 6) (a : BitVec 6) (b : BitVec 6)
  /-- SAND (R154). Bitwise AND of two scalars. -/
  | sand (d : BitVec 6) (a : BitVec 6) (b : BitVec 6)
  /-- SOR (R154). Bitwise OR of two scalars. -/
  | sor (d : BitVec 6) (a : BitVec 6) (b : BitVec 6)
  /-- SXOR (R154). Bitwise XOR of two scalars. -/
  | sxor (d : BitVec 6) (a : BitVec 6) (b : BitVec 6)
  /-- SANDN (R154). Scalar a AND NOT b. -/
  | sandn (d : BitVec 6) (a : BitVec 6) (b : BitVec 6)
  /-- SSHL (R154). Scalar left shift, zero for counts of 64 or more. -/
  | sshl (d : BitVec 6) (a : BitVec 6) (b : BitVec 6)
  /-- SSHR (R154). Scalar logical right shift, zero for counts of 64 or more. -/
  | sshr (d : BitVec 6) (a : BitVec 6) (b : BitVec 6)
  /-- SSRA (R154). Scalar arithmetic right shift with the count capped at 63. -/
  | ssra (d : BitVec 6) (a : BitVec 6) (b : BitVec 6)
  /-- SMIN (R154). Signed scalar minimum. -/
  | smin (d : BitVec 6) (a : BitVec 6) (b : BitVec 6)
  /-- SMAX (R154). Signed scalar maximum. -/
  | smax (d : BitVec 6) (a : BitVec 6) (b : BitVec 6)
  /-- SMINN (R154). Unsigned scalar minimum. -/
  | sminn (d : BitVec 6) (a : BitVec 6) (b : BitVec 6)
  /-- SMAXN (R154). Unsigned scalar maximum. -/
  | smaxn (d : BitVec 6) (a : BitVec 6) (b : BitVec 6)
  /-- SCMP (R156). Compares two scalars and sets Z, N, C and V. -/
  | scmp (a : BitVec 6) (b : BitVec 6)
  /-- SCLZ (R154). Counts the leading zero bits of a scalar. -/
  | sclz (d : BitVec 6) (a : BitVec 6)
  /-- SPOPC (R154). Counts the set bits of a scalar. -/
  | spopc (d : BitVec 6) (a : BitVec 6)
  /-- SMOV (R154). Copies one scalar to another. -/
  | smov (d : BitVec 6) (a : BitVec 6)
  /-- SADDI (R157). Adds a signed 9-bit immediate to a scalar. -/
  | saddi (d : BitVec 6) (a : BitVec 6) (i : BitVec 9)
  /-- SANDI (R157). ANDs a scalar with a sign-extended immediate. -/
  | sandi (d : BitVec 6) (a : BitVec 6) (i : BitVec 9)
  /-- SORI (R157). ORs a scalar with a sign-extended immediate. -/
  | sori (d : BitVec 6) (a : BitVec 6) (i : BitVec 9)
  /-- SXORI (R157). XORs a scalar with a sign-extended immediate. -/
  | sxori (d : BitVec 6) (a : BitVec 6) (i : BitVec 9)
  /-- SSHLI (R157). Shifts a scalar left by an immediate from 0 to 63. -/
  | sshli (d : BitVec 6) (a : BitVec 6) (i : BitVec 9)
  /-- SSHRI (R157). Shifts a scalar right logically by an immediate. -/
  | sshri (d : BitVec 6) (a : BitVec 6) (i : BitVec 9)
  /-- SSRAI (R157). Shifts a scalar right arithmetically by an immediate. -/
  | ssrai (d : BitVec 6) (a : BitVec 6) (i : BitVec 9)
  /-- SCMPI (R157). Compares a scalar with an immediate and sets the flags. -/
  | scmpi (a : BitVec 6) (i : BitVec 9)
  /-- SMULI (R157). Multiplies a scalar by a sign-extended immediate. -/
  | smuli (d : BitVec 6) (a : BitVec 6) (i : BitVec 9)
  /-- SLI (R158). Loads a sign-extended 15-bit immediate into a scalar. -/
  | sli (d : BitVec 6) (i : BitVec 15)
  /-- SLIS (R158). Shifts a scalar left by 15 and ORs in a 15-bit immediate. -/
  | slis (d : BitVec 6) (i : BitVec 15)
  /-- MFS (R150). Reads a special register into a scalar. -/
  | mfs (d : BitVec 6) (n : BitVec 9)
  /-- MTS (R150). Writes a scalar to a special register, with access and limit checks. -/
  | mts (a : BitVec 6) (n : BitVec 9)
  /-- SLDW (R126). Loads a zero-extended word into a scalar for the whole warp. -/
  | sldw (d : BitVec 6) (a : BitVec 6) (i : BitVec 9)
  /-- SLDD (R126). Loads a dword into a scalar for the whole warp. -/
  | sldd (d : BitVec 6) (a : BitVec 6) (i : BitVec 9)
  /-- SSTW (R126). Stores the low word of a scalar. -/
  | sstw (d : BitVec 6) (a : BitVec 6) (i : BitVec 9)
  /-- SSTD (R126). Stores a scalar as a dword. -/
  | sstd (d : BitVec 6) (a : BitVec 6) (i : BitVec 9)
  /-- SLDDA (R126). Acquire load of a dword into a scalar, read at home. -/
  | sldda (d : BitVec 6) (a : BitVec 6) (i : BitVec 9)
  /-- SSTDL (R126). Release store of a scalar dword after a device-scope fence. -/
  | sstdl (d : BitVec 6) (a : BitVec 6) (i : BitVec 9)
  /-- BRA (R305). Branches by a parcel offset when its condition holds on the flags. -/
  | bra (c : BitVec 4) (o : BitVec 21)
  /-- CALL (R9). Writes the return address to s63 and branches by a 25-bit offset. -/
  | call (o : BitVec 25)
  /-- JMP (R305). Jumps to the address in a scalar. -/
  | jmp (a : BitVec 6)
  /-- CALLR (R305). Calls the address in a scalar, linking in s63. -/
  | callr (a : BitVec 6)
  /-- RET (R305). Returns to the address in s63. -/
  | ret
  /-- EXIT (R307). Ends the split's active threads, pops emptied stack entries and releases deferred threads. -/
  | exit
  /-- YIELD (R306). Gives up the split's next issue opportunity if another split is ready. -/
  | yield
  /-- NOP (R306). Changes only the program counter. -/
  | nop
  /-- RCV (R310). Parks the split at the reconvergence point and merges the entry's splits when all arrive. -/
  | rcv
  /-- BKPT (R349). Raises BKPT at its own address. -/
  | bkpt (n : BitVec 9)
  /-- TRAP (R349). Completes and raises TRAP with TSUB set to its immediate. -/
  | trap (n : BitVec 9)
  /-- ERET (R347). Ends the active handler and returns to TPC, restoring mode and nested trap registers. -/
  | eret
  /-- MON (R134). Arms the warp's monitor on a global 128-byte line. -/
  | mon (a : BitVec 6)
  /-- MWAIT (R135). Parks until a write to the monitored line or a timeout. -/
  | mwait (a : BitVec 6)
  /-- TCOMMIT (R139). Waits for ST to drain, then applies the team's speculative lines at home atomically. -/
  | tcommit
  /-- TDISCARD (R139). Waits for ST to drain, then drops the team's speculative lines. -/
  | tdiscard
  /-- TLBI_PAGE (R356). Shoots down the page holding an address in the context's ASID. -/
  | tlbiPage (a : BitVec 6)
  /-- TLBI_ASID (R356). Shoots down the whole ASID of the context. -/
  | tlbiAsid
  /-- MSPILL (R357). Writes every bound vector register of the warp to its save record and unbinds them. -/
  | mspill
  /-- BRD (R308). Divergent branch on a mask, pushing a reconvergence entry and dividing or serialising the split. -/
  | brd (k : BitVec 3) (n : BitVec 1) (o : BitVec 21)
  /-- VADD (R159). Per-thread 32-bit integer add. -/
  | vadd (d : BitVec 7) (a : BitVec 7) (b : BitVec 7)
  /-- VSUB (R159). Per-thread 32-bit integer subtract. -/
  | vsub (d : BitVec 7) (a : BitVec 7) (b : BitVec 7)
  /-- VMUL (R159). Per-thread low 32 bits of the product. -/
  | vmul (d : BitVec 7) (a : BitVec 7) (b : BitVec 7)
  /-- VMULH (R159). Per-thread high 32 bits of the signed product. -/
  | vmulh (d : BitVec 7) (a : BitVec 7) (b : BitVec 7)
  /-- VMULHN (R159). Per-thread high 32 bits of the unsigned product. -/
  | vmulhn (d : BitVec 7) (a : BitVec 7) (b : BitVec 7)
  /-- VMAD (R159). Per-thread multiply-add with a third source. -/
  | vmad (d : BitVec 7) (a : BitVec 7) (b : BitVec 7)
  /-- VMIN (R159). Per-thread signed minimum. -/
  | vmin (d : BitVec 7) (a : BitVec 7) (b : BitVec 7)
  /-- VMAX (R159). Per-thread signed maximum. -/
  | vmax (d : BitVec 7) (a : BitVec 7) (b : BitVec 7)
  /-- VMINN (R159). Per-thread unsigned minimum. -/
  | vminn (d : BitVec 7) (a : BitVec 7) (b : BitVec 7)
  /-- VMAXN (R159). Per-thread unsigned maximum. -/
  | vmaxn (d : BitVec 7) (a : BitVec 7) (b : BitVec 7)
  /-- VAND (R159). Per-thread bitwise AND. -/
  | vand (d : BitVec 7) (a : BitVec 7) (b : BitVec 7)
  /-- VOR (R159). Per-thread bitwise OR. -/
  | vor (d : BitVec 7) (a : BitVec 7) (b : BitVec 7)
  /-- VXOR (R159). Per-thread bitwise XOR. -/
  | vxor (d : BitVec 7) (a : BitVec 7) (b : BitVec 7)
  /-- VANDN (R159). Per-thread a AND NOT b. -/
  | vandn (d : BitVec 7) (a : BitVec 7) (b : BitVec 7)
  /-- VSHL (R159). Per-thread left shift, zero for counts of 32 or more. -/
  | vshl (d : BitVec 7) (a : BitVec 7) (b : BitVec 7)
  /-- VSHR (R159). Per-thread logical right shift. -/
  | vshr (d : BitVec 7) (a : BitVec 7) (b : BitVec 7)
  /-- VSRA (R161). Per-thread arithmetic right shift. -/
  | vsra (d : BitVec 7) (a : BitVec 7) (b : BitVec 7)
  /-- VROT (R161). Per-thread rotate left. -/
  | vrot (d : BitVec 7) (a : BitVec 7) (b : BitVec 7)
  /-- VABSD (R161). Per-thread absolute signed difference. -/
  | vabsd (d : BitVec 7) (a : BitVec 7) (b : BitVec 7)
  /-- VADDS (R161). Per-thread saturating signed add. -/
  | vadds (d : BitVec 7) (a : BitVec 7) (b : BitVec 7)
  /-- VSUBS (R161). Per-thread saturating signed subtract. -/
  | vsubs (d : BitVec 7) (a : BitVec 7) (b : BitVec 7)
  /-- VAVG (R161). Per-thread floored signed average. -/
  | vavg (d : BitVec 7) (a : BitVec 7) (b : BitVec 7)
  /-- VBFX (R162). Per-thread bit-field extract. -/
  | vbfx (d : BitVec 7) (a : BitVec 7) (b : BitVec 7)
  /-- VBFI (R162). Per-thread bit-field insert into a third source. -/
  | vbfi (d : BitVec 7) (a : BitVec 7) (b : BitVec 7)
  /-- VPACK (R161). Packs the low halves of two registers. -/
  | vpack (d : BitVec 7) (a : BitVec 7) (b : BitVec 7)
  /-- VPERMB (R163). Per-thread byte permute by selector nibbles. -/
  | vpermb (d : BitVec 7) (a : BitVec 7) (b : BitVec 7)
  /-- VCLZ (R161). Per-thread count of leading zeros. -/
  | vclz (d : BitVec 7) (a : BitVec 7)
  /-- VPOPC (R161). Per-thread count of set bits. -/
  | vpopc (d : BitVec 7) (a : BitVec 7)
  /-- VBREV (R161). Per-thread bit reversal. -/
  | vbrev (d : BitVec 7) (a : BitVec 7)
  /-- VNOT (R161). Per-thread bitwise NOT. -/
  | vnot (d : BitVec 7) (a : BitVec 7)
  /-- VABS (R161). Per-thread absolute value modulo 2^32. -/
  | vabs (d : BitVec 7) (a : BitVec 7)
  /-- VNEG (R161). Per-thread negation modulo 2^32. -/
  | vneg (d : BitVec 7) (a : BitVec 7)
  /-- VCMP (R165). Compares per thread as integers or f32 and writes mask bits. -/
  | vcmp (c : BitVec 4) (k : BitVec 3) (a : BitVec 7) (b : BitVec 7)
  /-- FADD (R166). f32 add rounded once. -/
  | fadd (d : BitVec 7) (a : BitVec 7) (b : BitVec 7)
  /-- FSUB (R166). f32 subtract rounded once. -/
  | fsub (d : BitVec 7) (a : BitVec 7) (b : BitVec 7)
  /-- FMUL (R166). f32 multiply rounded once. -/
  | fmul (d : BitVec 7) (a : BitVec 7) (b : BitVec 7)
  /-- FFMA (R166). f32 fused multiply-add with one rounding. -/
  | ffma (d : BitVec 7) (a : BitVec 7) (b : BitVec 7)
  /-- FMIN (R167). f32 minimum with NaN handling. -/
  | fmin (d : BitVec 7) (a : BitVec 7) (b : BitVec 7)
  /-- FMAX (R167). f32 maximum with NaN handling. -/
  | fmax (d : BitVec 7) (a : BitVec 7) (b : BitVec 7)
  /-- FABS (R166). Clears the f32 sign bit. -/
  | fabs (d : BitVec 7) (a : BitVec 7)
  /-- FNEG (R166). Inverts the f32 sign bit. -/
  | fneg (d : BitVec 7) (a : BitVec 7)
  /-- FSCALE (R166). Multiplies an f32 by 2^n with one rounding. -/
  | fscale (d : BitVec 7) (a : BitVec 7) (b : BitVec 7)
  /-- FRND (R166). Rounds an f32 to an integral value. -/
  | frnd (d : BitVec 7) (a : BitVec 7)
  /-- FCLASS (R168). Writes the class mask of an f32. -/
  | fclass (d : BitVec 7) (a : BitVec 7)
  /-- FCOPYS (R166). Magnitude of a with the sign of b, f32. -/
  | fcopys (d : BitVec 7) (a : BitVec 7) (b : BitVec 7)
  /-- FADD_BF16X2 (R166). Packed bf16 add per half. -/
  | faddBf16x2 (d : BitVec 7) (a : BitVec 7) (b : BitVec 7)
  /-- FSUB_BF16X2 (R166). Packed bf16 subtract. -/
  | fsubBf16x2 (d : BitVec 7) (a : BitVec 7) (b : BitVec 7)
  /-- FMUL_BF16X2 (R166). Packed bf16 multiply. -/
  | fmulBf16x2 (d : BitVec 7) (a : BitVec 7) (b : BitVec 7)
  /-- FFMA_BF16X2 (R166). Packed bf16 fused multiply-add. -/
  | ffmaBf16x2 (d : BitVec 7) (a : BitVec 7) (b : BitVec 7)
  /-- FMIN_BF16X2 (R167). Packed bf16 minimum. -/
  | fminBf16x2 (d : BitVec 7) (a : BitVec 7) (b : BitVec 7)
  /-- FMAX_BF16X2 (R167). Packed bf16 maximum. -/
  | fmaxBf16x2 (d : BitVec 7) (a : BitVec 7) (b : BitVec 7)
  /-- FABS_BF16X2 (R166). Clears both bf16 sign bits. -/
  | fabsBf16x2 (d : BitVec 7) (a : BitVec 7)
  /-- FNEG_BF16X2 (R166). Inverts both bf16 sign bits. -/
  | fnegBf16x2 (d : BitVec 7) (a : BitVec 7)
  /-- FSCALE_BF16X2 (R166). Packed bf16 scale by 2^n. -/
  | fscaleBf16x2 (d : BitVec 7) (a : BitVec 7) (b : BitVec 7)
  /-- FRND_BF16X2 (R166). Packed bf16 round to integral. -/
  | frndBf16x2 (d : BitVec 7) (a : BitVec 7)
  /-- FCLASS_BF16X2 (R168). Class masks of both bf16 halves. -/
  | fclassBf16x2 (d : BitVec 7) (a : BitVec 7)
  /-- FCOPYS_BF16X2 (R166). Packed bf16 copy sign. -/
  | fcopysBf16x2 (d : BitVec 7) (a : BitVec 7) (b : BitVec 7)
  /-- FDOT2_BF16X2 (R169). Two-term bf16 dot product added to an f32 third source. -/
  | fdot2Bf16x2 (d : BitVec 7) (a : BitVec 7) (b : BitVec 7)
  /-- FADD_F16X2 (R166). Packed f16 add. -/
  | faddF16x2 (d : BitVec 7) (a : BitVec 7) (b : BitVec 7)
  /-- FSUB_F16X2 (R166). Packed f16 subtract. -/
  | fsubF16x2 (d : BitVec 7) (a : BitVec 7) (b : BitVec 7)
  /-- FMUL_F16X2 (R166). Packed f16 multiply. -/
  | fmulF16x2 (d : BitVec 7) (a : BitVec 7) (b : BitVec 7)
  /-- FFMA_F16X2 (R166). Packed f16 fused multiply-add. -/
  | ffmaF16x2 (d : BitVec 7) (a : BitVec 7) (b : BitVec 7)
  /-- FMIN_F16X2 (R167). Packed f16 minimum. -/
  | fminF16x2 (d : BitVec 7) (a : BitVec 7) (b : BitVec 7)
  /-- FMAX_F16X2 (R167). Packed f16 maximum. -/
  | fmaxF16x2 (d : BitVec 7) (a : BitVec 7) (b : BitVec 7)
  /-- FABS_F16X2 (R166). Clears both f16 sign bits. -/
  | fabsF16x2 (d : BitVec 7) (a : BitVec 7)
  /-- FNEG_F16X2 (R166). Inverts both f16 sign bits. -/
  | fnegF16x2 (d : BitVec 7) (a : BitVec 7)
  /-- FSCALE_F16X2 (R166). Packed f16 scale by 2^n. -/
  | fscaleF16x2 (d : BitVec 7) (a : BitVec 7) (b : BitVec 7)
  /-- FRND_F16X2 (R166). Packed f16 round to integral. -/
  | frndF16x2 (d : BitVec 7) (a : BitVec 7)
  /-- FCLASS_F16X2 (R168). Class masks of both f16 halves. -/
  | fclassF16x2 (d : BitVec 7) (a : BitVec 7)
  /-- FCOPYS_F16X2 (R166). Packed f16 copy sign. -/
  | fcopysF16x2 (d : BitVec 7) (a : BitVec 7) (b : BitVec 7)
  /-- FDOT2_F16X2 (R169). Two-term f16 dot product added to an f32 third source. -/
  | fdot2F16x2 (d : BitVec 7) (a : BitVec 7) (b : BitVec 7)
  /-- FCVT (R176). Converts one element per thread between type codes, by part. -/
  | fcvt (t : BitVec 4) (d : BitVec 7) (a : BitVec 7) (s : BitVec 4) (p : BitVec 2)
  /-- FEXP2 (R180). Evaluates 2^x. -/
  | fexp2 (d : BitVec 7) (a : BitVec 7) (y : BitVec 2)
  /-- FLOG2 (R180). Evaluates log2 x. -/
  | flog2 (d : BitVec 7) (a : BitVec 7) (y : BitVec 2)
  /-- FRCP (R180). Evaluates 1/x. -/
  | frcp (d : BitVec 7) (a : BitVec 7) (y : BitVec 2)
  /-- FRSQ (R180). Evaluates 1/sqrt x. -/
  | frsq (d : BitVec 7) (a : BitVec 7) (y : BitVec 2)
  /-- FSQRT (R180). Evaluates sqrt x. -/
  | fsqrt (d : BitVec 7) (a : BitVec 7) (y : BitVec 2)
  /-- FSINPI (R180). Evaluates sin(pi x). -/
  | fsinpi (d : BitVec 7) (a : BitVec 7) (y : BitVec 2)
  /-- FCOSPI (R180). Evaluates cos(pi x). -/
  | fcospi (d : BitVec 7) (a : BitVec 7) (y : BitVec 2)
  /-- FTANH (R180). Evaluates tanh x. -/
  | ftanh (d : BitVec 7) (a : BitVec 7) (y : BitVec 2)
  /-- FSIGM (R180). Evaluates the logistic sigmoid. -/
  | fsigm (d : BitVec 7) (a : BitVec 7) (y : BitVec 2)
  /-- FGELU (R180). Evaluates GELU. -/
  | fgelu (d : BitVec 7) (a : BitVec 7) (y : BitVec 2)
  /-- FERF (R180). Evaluates erf x. -/
  | ferf (d : BitVec 7) (a : BitVec 7) (y : BitVec 2)
  /-- SHFLI (R173). Shuffle by source index within the tile. -/
  | shfli (d : BitVec 7) (a : BitVec 7) (b : BitVec 7)
  /-- SHFLU (R173). Shuffle up by a delta within the tile. -/
  | shflu (d : BitVec 7) (a : BitVec 7) (b : BitVec 7)
  /-- SHFLD (R173). Shuffle down by a delta within the tile. -/
  | shfld (d : BitVec 7) (a : BitVec 7) (b : BitVec 7)
  /-- SHFLX (R173). Shuffle by XOR of the lane index. -/
  | shflx (d : BitVec 7) (a : BitVec 7) (b : BitVec 7)
  /-- VOTEANY (R173). 1 if any active thread of the tile holds nonzero. -/
  | voteany (d : BitVec 7) (a : BitVec 7)
  /-- VOTEALL (R173). 1 if every active thread of the tile holds nonzero. -/
  | voteall (d : BitVec 7) (a : BitVec 7)
  /-- BALLOT (R173). Gathers a chosen bit of each active thread of the tile. -/
  | ballot (d : BitVec 7) (a : BitVec 7) (b : BitVec 7)
  /-- REDADD (R174). Integer sum over the tile. -/
  | redadd (d : BitVec 7) (a : BitVec 7)
  /-- REDMIN (R174). Signed minimum over the tile. -/
  | redmin (d : BitVec 7) (a : BitVec 7)
  /-- REDMAX (R174). Signed maximum over the tile. -/
  | redmax (d : BitVec 7) (a : BitVec 7)
  /-- REDAND (R174). AND over the tile. -/
  | redand (d : BitVec 7) (a : BitVec 7)
  /-- REDOR (R174). OR over the tile. -/
  | redor (d : BitVec 7) (a : BitVec 7)
  /-- REDXOR (R174). XOR over the tile. -/
  | redxor (d : BitVec 7) (a : BitVec 7)
  /-- SCANADD (R174). Inclusive integer prefix sum within the tile. -/
  | scanadd (d : BitVec 7) (a : BitVec 7)
  /-- BCAST (R173). Broadcasts one lane's value within the tile. -/
  | bcast (d : BitVec 7) (a : BitVec 7) (l : BitVec 5)
  /-- MATCH (R173). Marks the active threads of the tile holding an equal value. -/
  | matchLanes (d : BitVec 7) (a : BitVec 7)
  /-- REDFADD (R74). f32 sum over the tile by the fixed tree. -/
  | redfadd (d : BitVec 7) (a : BitVec 7)
  /-- REDFMAX (R174). f32 maximum over the tile by the fixed tree. -/
  | redfmax (d : BitVec 7) (a : BitVec 7)
  /-- REDFMIN (R174). f32 minimum over the tile by the fixed tree. -/
  | redfmin (d : BitVec 7) (a : BitVec 7)
  /-- SCANFADD (R75). f32 prefix sum within the tile from tree nodes. -/
  | scanfadd (d : BitVec 7) (a : BitVec 7)
  /-- VLANE (R175). Writes each thread's lane index within its tile. -/
  | vlane (d : BitVec 7)
  /-- VTHR (R175). Writes each thread's index within its team. -/
  | vthr (d : BitVec 7)
  /-- VSEL (R175). Selects per thread between two registers by a mask. -/
  | vsel (d : BitVec 7) (a : BitVec 7) (b : BitVec 7)
  /-- VMOVS (R175). Copies a half of a scalar into every active thread. -/
  | vmovs (d : BitVec 7) (s : BitVec 6) (h : BitVec 1)
  /-- VADD_SCALAR (R159). Integer add with a scalar half as second operand. -/
  | vaddScalar (d : BitVec 7) (a : BitVec 7) (s : BitVec 6) (h : BitVec 1)
  /-- VSUB_SCALAR (R159). Integer subtract with a scalar operand. -/
  | vsubScalar (d : BitVec 7) (a : BitVec 7) (s : BitVec 6) (h : BitVec 1)
  /-- VMUL_SCALAR (R159). Integer multiply with a scalar operand. -/
  | vmulScalar (d : BitVec 7) (a : BitVec 7) (s : BitVec 6) (h : BitVec 1)
  /-- VMULH_SCALAR (R159). Signed high multiply with a scalar operand. -/
  | vmulhScalar (d : BitVec 7) (a : BitVec 7) (s : BitVec 6) (h : BitVec 1)
  /-- VMULHN_SCALAR (R159). Unsigned high multiply with a scalar operand. -/
  | vmulhnScalar (d : BitVec 7) (a : BitVec 7) (s : BitVec 6) (h : BitVec 1)
  /-- VMAD_SCALAR (R159). Multiply-add with a scalar operand. -/
  | vmadScalar (d : BitVec 7) (a : BitVec 7) (s : BitVec 6) (h : BitVec 1)
  /-- VMIN_SCALAR (R159). Signed minimum with a scalar operand. -/
  | vminScalar (d : BitVec 7) (a : BitVec 7) (s : BitVec 6) (h : BitVec 1)
  /-- VMAX_SCALAR (R159). Signed maximum with a scalar operand. -/
  | vmaxScalar (d : BitVec 7) (a : BitVec 7) (s : BitVec 6) (h : BitVec 1)
  /-- VMINN_SCALAR (R159). Unsigned minimum with a scalar operand. -/
  | vminnScalar (d : BitVec 7) (a : BitVec 7) (s : BitVec 6) (h : BitVec 1)
  /-- VMAXN_SCALAR (R159). Unsigned maximum with a scalar operand. -/
  | vmaxnScalar (d : BitVec 7) (a : BitVec 7) (s : BitVec 6) (h : BitVec 1)
  /-- VAND_SCALAR (R159). AND with a scalar operand. -/
  | vandScalar (d : BitVec 7) (a : BitVec 7) (s : BitVec 6) (h : BitVec 1)
  /-- VOR_SCALAR (R159). OR with a scalar operand. -/
  | vorScalar (d : BitVec 7) (a : BitVec 7) (s : BitVec 6) (h : BitVec 1)
  /-- VXOR_SCALAR (R159). XOR with a scalar operand. -/
  | vxorScalar (d : BitVec 7) (a : BitVec 7) (s : BitVec 6) (h : BitVec 1)
  /-- VANDN_SCALAR (R159). AND NOT with a scalar operand. -/
  | vandnScalar (d : BitVec 7) (a : BitVec 7) (s : BitVec 6) (h : BitVec 1)
  /-- VSHL_SCALAR (R159). Left shift by a scalar operand. -/
  | vshlScalar (d : BitVec 7) (a : BitVec 7) (s : BitVec 6) (h : BitVec 1)
  /-- VSHR_SCALAR (R159). Logical right shift by a scalar operand. -/
  | vshrScalar (d : BitVec 7) (a : BitVec 7) (s : BitVec 6) (h : BitVec 1)
  /-- FADD_SCALAR (R170). f32 add with a scalar half as second operand. -/
  | faddScalar (d : BitVec 7) (a : BitVec 7) (s : BitVec 6) (h : BitVec 1)
  /-- FSUB_SCALAR (R170). f32 subtract with a scalar operand. -/
  | fsubScalar (d : BitVec 7) (a : BitVec 7) (s : BitVec 6) (h : BitVec 1)
  /-- FMUL_SCALAR (R170). f32 multiply with a scalar operand. -/
  | fmulScalar (d : BitVec 7) (a : BitVec 7) (s : BitVec 6) (h : BitVec 1)
  /-- FFMA_SCALAR (R170). f32 fused multiply-add with a scalar operand. -/
  | ffmaScalar (d : BitVec 7) (a : BitVec 7) (s : BitVec 6) (h : BitVec 1)
  /-- FMIN_SCALAR (R170). f32 minimum with a scalar operand. -/
  | fminScalar (d : BitVec 7) (a : BitVec 7) (s : BitVec 6) (h : BitVec 1)
  /-- FMAX_SCALAR (R170). f32 maximum with a scalar operand. -/
  | fmaxScalar (d : BitVec 7) (a : BitVec 7) (s : BitVec 6) (h : BitVec 1)
  /-- FSCALE_SCALAR (R170). f32 scale by a scalar integer exponent. -/
  | fscaleScalar (d : BitVec 7) (a : BitVec 7) (s : BitVec 6) (h : BitVec 1)
  /-- FCOPYS_SCALAR (R170). f32 copy sign from a scalar operand. -/
  | fcopysScalar (d : BitVec 7) (a : BitVec 7) (s : BitVec 6) (h : BitVec 1)
  /-- VADDI (R160). Adds a signed 7-bit immediate per thread. -/
  | vaddi (d : BitVec 7) (a : BitVec 7) (i : BitVec 7)
  /-- VANDI (R160). ANDs a signed immediate per thread. -/
  | vandi (d : BitVec 7) (a : BitVec 7) (i : BitVec 7)
  /-- VORI (R160). ORs a signed immediate per thread. -/
  | vori (d : BitVec 7) (a : BitVec 7) (i : BitVec 7)
  /-- VXORI (R160). XORs a signed immediate per thread. -/
  | vxori (d : BitVec 7) (a : BitVec 7) (i : BitVec 7)
  /-- VSHLI (R160). Shifts left by an immediate 0-31. -/
  | vshli (d : BitVec 7) (a : BitVec 7) (i : BitVec 7)
  /-- VSHRI (R160). Shifts right logically by an immediate. -/
  | vshri (d : BitVec 7) (a : BitVec 7) (i : BitVec 7)
  /-- VSRAI (R160). Shifts right arithmetically by an immediate. -/
  | vsrai (d : BitVec 7) (a : BitVec 7) (i : BitVec 7)
  /-- VMULI (R160). Multiplies by a signed immediate per thread. -/
  | vmuli (d : BitVec 7) (a : BitVec 7) (i : BitVec 7)
  /-- VLI (R164). Loads a sign-extended 14-bit immediate into every active thread. -/
  | vli (d : BitVec 7) (i : BitVec 14)
  /-- VLIS (R164). Shifts left by 14 and ORs in a 14-bit immediate per thread. -/
  | vlis (d : BitVec 7) (i : BitVec 14)
  /-- BDEC_Z (R182). Decodes a zero-extended packed field per thread from scratchpad. -/
  | bdecZ (d : BitVec 7) (a : BitVec 7) (s : BitVec 6)
  /-- BDEC_S (R182). Decodes a sign-extended packed field per thread from scratchpad. -/
  | bdecS (d : BitVec 7) (a : BitVec 7) (s : BitVec 6)
  /-- LUTX_B32 (R183). Looks up a 32-bit table entry in scratchpad per thread. -/
  | lutxB32 (d : BitVec 7) (a : BitVec 7) (s : BitVec 6)
  /-- LUTX_B16 (R183). Looks up a zero-extended 16-bit table entry per thread. -/
  | lutxB16 (d : BitVec 7) (a : BitVec 7) (s : BitVec 6)
  /-- QPOP (R189). Parks until a dawn queue has an entry, then removes and writes it. -/
  | qpop (d : BitVec 7) (q : BitVec 2)
  /-- QPEEK (R189). As QPOP without removing the entry. -/
  | qpeek (d : BitVec 7) (q : BitVec 2)
  /-- QPUSH (R189). Dawn warp appends a whole vector to a queue, parking while full. -/
  | qpush (q : BitVec 2) (a : BitVec 7)
  /-- VKILL (R146). Frees a range of vector registers or zeroes them in a divergent warp. -/
  | vkill (d : BitVec 7) (a : BitVec 7)
  /-- VMOV (R146). Copies a vector register with poison per active thread. -/
  | vmov (d : BitVec 7) (a : BitVec 7)
  /-- VMOV_COMPACT (R16). 16-bit VMOV among v0-v31. -/
  | vmovCompact (d : BitVec 5) (a : BitVec 5)
  /-- VADD_COMPACT (R16). 16-bit vd <- vd + va. -/
  | vaddCompact (d : BitVec 5) (a : BitVec 5)
  /-- VSUB_COMPACT (R16). 16-bit vd <- vd - va. -/
  | vsubCompact (d : BitVec 5) (a : BitVec 5)
  /-- VAND_COMPACT (R16). 16-bit vd <- vd AND va. -/
  | vandCompact (d : BitVec 5) (a : BitVec 5)
  /-- VOR_COMPACT (R16). 16-bit vd <- vd OR va. -/
  | vorCompact (d : BitVec 5) (a : BitVec 5)
  /-- VXOR_COMPACT (R16). 16-bit vd <- vd XOR va. -/
  | vxorCompact (d : BitVec 5) (a : BitVec 5)
  /-- VSHL_COMPACT (R16). 16-bit vd <- vd << va. -/
  | vshlCompact (d : BitVec 5) (a : BitVec 5)
  /-- VSHR_COMPACT (R16). 16-bit vd <- vd >> va. -/
  | vshrCompact (d : BitVec 5) (a : BitVec 5)
  /-- VMIN_COMPACT (R16). 16-bit signed minimum into vd. -/
  | vminCompact (d : BitVec 5) (a : BitVec 5)
  /-- VMAX_COMPACT (R16). 16-bit signed maximum into vd. -/
  | vmaxCompact (d : BitVec 5) (a : BitVec 5)
  /-- FADD_COMPACT (R16). 16-bit f32 add into vd. -/
  | faddCompact (d : BitVec 5) (a : BitVec 5)
  /-- FSUB_COMPACT (R16). 16-bit f32 subtract into vd. -/
  | fsubCompact (d : BitVec 5) (a : BitVec 5)
  /-- FMUL_COMPACT (R16). 16-bit f32 multiply into vd. -/
  | fmulCompact (d : BitVec 5) (a : BitVec 5)
  /-- FMIN_COMPACT (R16). 16-bit f32 minimum into vd. -/
  | fminCompact (d : BitVec 5) (a : BitVec 5)
  /-- FMAX_COMPACT (R16). 16-bit f32 maximum into vd. -/
  | fmaxCompact (d : BitVec 5) (a : BitVec 5)
  /-- VMUL_COMPACT (R16). 16-bit integer multiply into vd. -/
  | vmulCompact (d : BitVec 5) (a : BitVec 5)
  /-- DICT (R18). Executes a dictionary entry as if it stood at the DICT's address. -/
  | dict (i : BitVec 10)
  /-- NOP16 (R17). 16-bit no-operation. -/
  | nop16
  /-- PFX (R27). Prefix supplying mask, zeroing, rounding, third source, saturation and energy class to its successor. -/
  | pfx (k : BitVec 3) (r : BitVec 3) (z : BitVec 1) (c : BitVec 7) (e : BitVec 2) (s : BitVec 1)
  /-- LDB (R120). Loads a zero-extended byte per thread. -/
  | ldb (d : BitVec 7) (s : BitVec 6) (a : BitVec 7) (y : BitVec 1)
  /-- LDBS (R120). Loads a sign-extended byte per thread. -/
  | ldbs (d : BitVec 7) (s : BitVec 6) (a : BitVec 7) (y : BitVec 1)
  /-- LDH (R120). Loads a zero-extended half per thread. -/
  | ldh (d : BitVec 7) (s : BitVec 6) (a : BitVec 7) (y : BitVec 1)
  /-- LDHS (R120). Loads a sign-extended half per thread. -/
  | ldhs (d : BitVec 7) (s : BitVec 6) (a : BitVec 7) (y : BitVec 1)
  /-- LDW (R120). Loads a word per thread. -/
  | ldw (d : BitVec 7) (s : BitVec 6) (a : BitVec 7) (y : BitVec 1)
  /-- LDD (R120). Loads a dword into a register pair per thread. -/
  | ldd (d : BitVec 7) (s : BitVec 6) (a : BitVec 7) (y : BitVec 1)
  /-- LDQ (R120). Loads 16 bytes into four registers per thread. -/
  | ldq (d : BitVec 7) (s : BitVec 6) (a : BitVec 7) (y : BitVec 1)
  /-- LDWA (R121). Acquire load of a word, read at home. -/
  | ldwa (d : BitVec 7) (s : BitVec 6) (a : BitVec 7)
  /-- LDDA (R121). Acquire load of a dword, read at home. -/
  | ldda (d : BitVec 7) (s : BitVec 6) (a : BitVec 7)
  /-- STB (R120). Stores a byte per thread. -/
  | stb (d : BitVec 7) (s : BitVec 6) (a : BitVec 7)
  /-- STH (R120). Stores a half per thread. -/
  | sth (d : BitVec 7) (s : BitVec 6) (a : BitVec 7)
  /-- STW (R120). Stores a word per thread. -/
  | stw (d : BitVec 7) (s : BitVec 6) (a : BitVec 7)
  /-- STD (R120). Stores a dword per thread. -/
  | std (d : BitVec 7) (s : BitVec 6) (a : BitVec 7)
  /-- STQ (R120). Stores 16 bytes per thread. -/
  | stq (d : BitVec 7) (s : BitVec 6) (a : BitVec 7)
  /-- STWL (R121). Release store of a word after FENCE 4. -/
  | stwl (d : BitVec 7) (s : BitVec 6) (a : BitVec 7)
  /-- STDL (R121). Release store of a dword after FENCE 4. -/
  | stdl (d : BitVec 7) (s : BitVec 6) (a : BitVec 7)
  /-- LDSB (R120). Scratchpad load of a zero-extended byte. -/
  | ldsb (d : BitVec 7) (s : BitVec 6) (a : BitVec 7)
  /-- LDSBS (R120). Scratchpad load of a sign-extended byte. -/
  | ldsbs (d : BitVec 7) (s : BitVec 6) (a : BitVec 7)
  /-- LDSH (R120). Scratchpad load of a zero-extended half. -/
  | ldsh (d : BitVec 7) (s : BitVec 6) (a : BitVec 7)
  /-- LDSHS (R120). Scratchpad load of a sign-extended half. -/
  | ldshs (d : BitVec 7) (s : BitVec 6) (a : BitVec 7)
  /-- LDSW (R120). Scratchpad load of a word. -/
  | ldsw (d : BitVec 7) (s : BitVec 6) (a : BitVec 7)
  /-- LDSD (R120). Scratchpad load of a dword. -/
  | ldsd (d : BitVec 7) (s : BitVec 6) (a : BitVec 7)
  /-- LDSQ (R120). Scratchpad load of 16 bytes. -/
  | ldsq (d : BitVec 7) (s : BitVec 6) (a : BitVec 7)
  /-- STSB (R120). Scratchpad store of a byte. -/
  | stsb (d : BitVec 7) (s : BitVec 6) (a : BitVec 7)
  /-- STSH (R120). Scratchpad store of a half. -/
  | stsh (d : BitVec 7) (s : BitVec 6) (a : BitVec 7)
  /-- STSW (R120). Scratchpad store of a word. -/
  | stsw (d : BitVec 7) (s : BitVec 6) (a : BitVec 7)
  /-- STSD (R120). Scratchpad store of a dword. -/
  | stsd (d : BitVec 7) (s : BitVec 6) (a : BitVec 7)
  /-- STSQ (R120). Scratchpad store of 16 bytes. -/
  | stsq (d : BitVec 7) (s : BitVec 6) (a : BitVec 7)
  /-- AADD (R122). Global atomic add returning the old value. -/
  | aadd (d : BitVec 7) (s : BitVec 6) (a : BitVec 7)
  /-- AMIN (R122). Global atomic signed minimum. -/
  | amin (d : BitVec 7) (s : BitVec 6) (a : BitVec 7)
  /-- AMAX (R122). Global atomic signed maximum. -/
  | amax (d : BitVec 7) (s : BitVec 6) (a : BitVec 7)
  /-- AMINN (R122). Global atomic unsigned minimum. -/
  | aminn (d : BitVec 7) (s : BitVec 6) (a : BitVec 7)
  /-- AMAXN (R122). Global atomic unsigned maximum. -/
  | amaxn (d : BitVec 7) (s : BitVec 6) (a : BitVec 7)
  /-- AAND (R122). Global atomic AND. -/
  | aand (d : BitVec 7) (s : BitVec 6) (a : BitVec 7)
  /-- AOR (R122). Global atomic OR. -/
  | aor (d : BitVec 7) (s : BitVec 6) (a : BitVec 7)
  /-- AXOR (R122). Global atomic XOR. -/
  | axor (d : BitVec 7) (s : BitVec 6) (a : BitVec 7)
  /-- AXCH (R122). Global atomic exchange. -/
  | axch (d : BitVec 7) (s : BitVec 6) (a : BitVec 7)
  /-- ACAS (R122). Global atomic compare-and-swap. -/
  | acas (d : BitVec 7) (s : BitVec 6) (a : BitVec 7)
  /-- AFADD (R123). Global atomic f32 add rounded RNE. -/
  | afadd (d : BitVec 7) (s : BitVec 6) (a : BitVec 7)
  /-- AFADDP (R123). Global atomic packed bf16 add. -/
  | afaddp (d : BitVec 7) (s : BitVec 6) (a : BitVec 7)
  /-- AINC (R122). Global atomic wrapping increment. -/
  | ainc (d : BitVec 7) (s : BitVec 6) (a : BitVec 7)
  /-- ADEC (R122). Global atomic wrapping decrement. -/
  | adec (d : BitVec 7) (s : BitVec 6) (a : BitVec 7)
  /-- GADD (R124). Global reduction add without return. -/
  | gadd (d : BitVec 7) (s : BitVec 6) (a : BitVec 7)
  /-- GMIN (R124). Global reduction signed minimum. -/
  | gmin (d : BitVec 7) (s : BitVec 6) (a : BitVec 7)
  /-- GMAX (R124). Global reduction signed maximum. -/
  | gmax (d : BitVec 7) (s : BitVec 6) (a : BitVec 7)
  /-- GMINN (R124). Global reduction unsigned minimum. -/
  | gminn (d : BitVec 7) (s : BitVec 6) (a : BitVec 7)
  /-- GMAXN (R124). Global reduction unsigned maximum. -/
  | gmaxn (d : BitVec 7) (s : BitVec 6) (a : BitVec 7)
  /-- GAND (R124). Global reduction AND. -/
  | gand (d : BitVec 7) (s : BitVec 6) (a : BitVec 7)
  /-- GOR (R124). Global reduction OR. -/
  | gor (d : BitVec 7) (s : BitVec 6) (a : BitVec 7)
  /-- GXOR (R124). Global reduction XOR. -/
  | gxor (d : BitVec 7) (s : BitVec 6) (a : BitVec 7)
  /-- GFADD (R124). Global reduction f32 add. -/
  | gfadd (d : BitVec 7) (s : BitVec 6) (a : BitVec 7)
  /-- GFADDP (R124). Global reduction packed bf16 add. -/
  | gfaddp (d : BitVec 7) (s : BitVec 6) (a : BitVec 7)
  /-- AADD_S (R122). Scratchpad atomic add. -/
  | aaddS (d : BitVec 7) (s : BitVec 6) (a : BitVec 7)
  /-- AMIN_S (R122). Scratchpad atomic signed minimum. -/
  | aminS (d : BitVec 7) (s : BitVec 6) (a : BitVec 7)
  /-- AMAX_S (R122). Scratchpad atomic signed maximum. -/
  | amaxS (d : BitVec 7) (s : BitVec 6) (a : BitVec 7)
  /-- AMINN_S (R122). Scratchpad atomic unsigned minimum. -/
  | aminnS (d : BitVec 7) (s : BitVec 6) (a : BitVec 7)
  /-- AMAXN_S (R122). Scratchpad atomic unsigned maximum. -/
  | amaxnS (d : BitVec 7) (s : BitVec 6) (a : BitVec 7)
  /-- AAND_S (R122). Scratchpad atomic AND. -/
  | aandS (d : BitVec 7) (s : BitVec 6) (a : BitVec 7)
  /-- AOR_S (R122). Scratchpad atomic OR. -/
  | aorS (d : BitVec 7) (s : BitVec 6) (a : BitVec 7)
  /-- AXOR_S (R122). Scratchpad atomic XOR. -/
  | axorS (d : BitVec 7) (s : BitVec 6) (a : BitVec 7)
  /-- AXCH_S (R122). Scratchpad atomic exchange. -/
  | axchS (d : BitVec 7) (s : BitVec 6) (a : BitVec 7)
  /-- ACAS_S (R122). Scratchpad atomic compare-and-swap. -/
  | acasS (d : BitVec 7) (s : BitVec 6) (a : BitVec 7)
  /-- AFADD_S (R123). Scratchpad atomic f32 add. -/
  | afaddS (d : BitVec 7) (s : BitVec 6) (a : BitVec 7)
  /-- AFADDP_S (R123). Scratchpad atomic packed bf16 add. -/
  | afaddpS (d : BitVec 7) (s : BitVec 6) (a : BitVec 7)
  /-- AINC_S (R122). Scratchpad atomic wrapping increment. -/
  | aincS (d : BitVec 7) (s : BitVec 6) (a : BitVec 7)
  /-- ADEC_S (R122). Scratchpad atomic wrapping decrement. -/
  | adecS (d : BitVec 7) (s : BitVec 6) (a : BitVec 7)
  /-- LDPW (R125). Loads a word from a peer core's scratchpad. -/
  | ldpw (d : BitVec 7) (s : BitVec 6) (a : BitVec 7)
  /-- STPW (R125). Stores a word to a peer core's scratchpad. -/
  | stpw (d : BitVec 7) (s : BitVec 6) (a : BitVec 7)
  /-- APADD (R125). Atomic add at a peer core's scratchpad. -/
  | apadd (d : BitVec 7) (s : BitVec 6) (a : BitVec 7)
  /-- LDXW (R125). Loads a word from remote memory at home. -/
  | ldxw (d : BitVec 7) (s : BitVec 6) (a : BitVec 7)
  /-- STXW (R125). Stores a word to remote memory. -/
  | stxw (d : BitVec 7) (s : BitVec 6) (a : BitVec 7)
  /-- NXADD (R125). Integer reduction at a remote home. -/
  | nxadd (d : BitVec 7) (s : BitVec 6) (a : BitVec 7)
  /-- NXFADD (R125). f32 reduction at a remote home. -/
  | nxfadd (d : BitVec 7) (s : BitVec 6) (a : BitVec 7)
  /-- LDXD (R125). Loads a dword from remote memory. -/
  | ldxd (d : BitVec 7) (s : BitVec 6) (a : BitVec 7)
  /-- STXD (R125). Stores a dword to remote memory. -/
  | stxd (d : BitVec 7) (s : BitVec 6) (a : BitVec 7)
  /-- FENCE (R131). Waits for earlier accesses by scope and for device time to exceed WMAX. -/
  | fence (c : BitVec 3)
  /-- PREF (R132). Requests a line into the L1 or L2 without faulting. -/
  | pref (a : BitVec 6) (i : BitVec 9)
  /-- INVL1 (R133). Invalidates one line or all lines of the core's L1. -/
  | invl1 (a : BitVec 6)
  /-- WAITC (R129). Parks until the class counts fall to the limits and reports failures of operations it requires. -/
  | waitc (l : BitVec 5) (s : BitVec 5) (p : BitVec 5) (t : BitVec 5) (c : BitVec 5)
  /-- WAITR (R130). Parks until a chain's completion word reaches a sequence number, then acquires it. -/
  | waitr (d : BitVec 6) (a : BitVec 6) (c : BitVec 6)
  /-- BARA (R328). Arrives at a barrier, advancing its generation on the last arrival. -/
  | bara (d : BitVec 6) (b : BitVec 9)
  /-- BARW (R328). Parks until a barrier's generation passes a given value. -/
  | barw (d : BitVec 6) (a : BitVec 6) (b : BitVec 9)
  /-- BART (R328). Reads a barrier's generation as an acquire. -/
  | bart (d : BitVec 6) (b : BitVec 9)
  /-- BJOIN (R328). Adds one to the barrier's deferred membership change. -/
  | bjoin (d : BitVec 6) (b : BitVec 9)
  /-- BLEAVE (R328). Subtracts one from the barrier's deferred membership change. -/
  | bleave (d : BitVec 6) (b : BitVec 9)
  /-- BINIT (R328). Initialises a barrier's members, arrivals and generation. -/
  | binit (d : BitVec 6) (a : BitVec 6) (b : BitVec 9)
  /-- XACQ (R141). Parks until the core grants extended register blocks in issue order. -/
  | xacq (n : BitVec 9)
  /-- XTRY (R141). Takes extended blocks only if the grant is immediate. -/
  | xtry (d : BitVec 6) (n : BitVec 9)
  /-- XREL (R141). Releases the highest extended blocks. -/
  | xrel (n : BitVec 9)
  /-- CPUSH (R85). Appends a 64-byte command record to a chain and counts it. -/
  | cpush (d : BitVec 6) (a : BitVec 6) (c : BitVec 6) (e : BitVec 2) (w : BitVec 1)
  /-- OPOST (R195). Judges a problem record and binds the walk to a walk slot. -/
  | opost (d : BitVec 6) (a : BitVec 6) (c : BitVec 6) (e : BitVec 2) (w : BitVec 1)
  /-- CSEQ (R86). Reads a chain's completion word with an acquire at home. -/
  | cseq (d : BitVec 6) (c : BitVec 6)
  /-- ATTN (R272). Posts an attention request to the base-die units. -/
  | attn (d : BitVec 6) (a : BitVec 6) (e : BitVec 2) (w : BitVec 1)
  /-- TDLD (R89). Loads a 256-bit tile descriptor from memory. -/
  | tdld (d : BitVec 4) (h : BitVec 6)
  /-- TDST (R89). Stores a tile descriptor to memory. -/
  | tdst (a : BitVec 4) (h : BitVec 6)
  /-- TDSET (R89). Replaces one field of a descriptor from a scalar. -/
  | tdset (d : BitVec 4) (a : BitVec 4) (b : BitVec 4) (h : BitVec 6)
  /-- TCPY (R90). Appends a tile copy or expansion record to the default chain. -/
  | tcpy (d : BitVec 4) (a : BitVec 4) (e : BitVec 2)
  /-- TCPYQ (R90). Appends a quantise record to the default chain. -/
  | tcpyq (d : BitVec 4) (a : BitVec 4) (b : BitVec 4) (e : BitVec 2)
  /-- TCPYX (R90). Appends a decompress or expand record to the default chain. -/
  | tcpyx (d : BitVec 4) (a : BitVec 4) (e : BitVec 2)
  /-- TDOFF (R89). Moves a descriptor to a sub-tile. -/
  | tdoff (d : BitVec 4) (a : BitVec 4) (h : BitVec 6)
  /-- HREG (R220). Registers a handler table and returns its id. -/
  | hreg (d : BitVec 6) (a : BitVec 6)
  /-- HREG_FREE (R220). Frees a live handler table by id. -/
  | hregFree (d : BitVec 6) (a : BitVec 6)
  /-- HWAIT (R221). Parks the warp in a cohort for upcalls, or until a named walk ends. -/
  | hwait (d : BitVec 6) (a : BitVec 6) (c : BitVec 9)
  /-- HRET (R230). Ends the active upcall with success or failure, parking again or leaving. -/
  | hret (n : BitVec 9)
  /-- HSEAL (R228). Checks and hands over a produced stage to the Orrery. -/
  | hseal (a : BitVec 6)
  /-- OSTAT (R233). Reads the state of a walk. -/
  | ostat (d : BitVec 6) (a : BitVec 6)
  /-- OCANCEL (R234). Stops a walk of the core context. -/
  | ocancel (d : BitVec 6) (a : BitVec 6)
  /-- RTREG (R241). Registers a copy of a routine image and returns its handle. -/
  | rtreg (d : BitVec 6) (a : BitVec 6)
  /-- RTFREE (R241). Frees a registered routine. -/
  | rtfree (d : BitVec 6) (a : BitVec 6)
  /-- HSTAGE (R227). Writes the next brick of the produce upcall's stage from 32 registers. -/
  | hstage (a : BitVec 7)
  /-- HDRAIN (R229). Moves the next brick of the delivered tile into 32 registers. -/
  | hdrain (d : BitVec 7)
  /-- FOLD (R247). Folds rows or columns with a routine on a routine unit. -/
  | fold (d : BitVec 4) (a : BitVec 4) (b : BitVec 4) (h : BitVec 6) (e : BitVec 2)
  /-- SCAN (R247). Prefix-combines each row with a routine, optionally checkpointing. -/
  | scan (d : BitVec 4) (a : BitVec 4) (b : BitVec 4) (h : BitVec 6) (e : BitVec 2)
  /-- ZIP (R247). Combines two tiles elementwise with a routine. -/
  | zip (d : BitVec 4) (a : BitVec 4) (b : BitVec 4) (h : BitVec 6) (e : BitVec 2)
  /-- OUTER (R247). Combines every pair of two vectors with a routine. -/
  | outer (d : BitVec 4) (a : BitVec 4) (b : BitVec 4) (h : BitVec 6) (e : BitVec 2)
  /-- EPSNAP (R266). Takes a keyed snapshot of a recurrent state. -/
  | epsnap (d : BitVec 6) (a : BitVec 6) (p : BitVec 1)
  /-- EPREST (R268). Restores the newest snapshot not above a position and drops newer ones. -/
  | eprest (d : BitVec 6) (a : BitVec 6)
  /-- EPCOMMIT (R269). Drops snapshots older than the newest at or below a position. -/
  | epcommit (d : BitVec 6) (a : BitVec 6)
  /-- EPMAP (R265). Returns the address of a state. -/
  | epmap (d : BitVec 6) (a : BitVec 6)
  /-- KVSLOT (R260). Returns the address of a KV slot, privatising a shared page with write intent. -/
  | kvslot (d : BitVec 6) (a : BitVec 6) (w : BitVec 1)
  /-- KVTENT (R261). Raises the tentative length, mapping or privatising pages. -/
  | kvtent (d : BitVec 6) (a : BitVec 6)
  /-- KVCOMMIT (R262). Raises the committed length. -/
  | kvcommit (d : BitVec 6) (a : BitVec 6)
  /-- KVROLL (R262). Lowers the tentative length. -/
  | kvroll (d : BitVec 6) (a : BitVec 6)
  /-- KVFORK (R263). Shares a prefix of a KV cache with a destination handle. -/
  | kvfork (d : BitVec 6) (a : BitVec 6)
  /-- KVLEN (R262). Reads the committed and tentative lengths at one instant. -/
  | kvlen (d : BitVec 6) (a : BitVec 6)
  /-- COLL (R283). Records a warp's arrival at the team's next collective and hands it to the service when all arrive. -/
  | coll (d : BitVec 4) (a : BitVec 4) (h : BitVec 6) (e : BitVec 2)
  /-- ABINIT (R291). Initialises a barrier object. -/
  | abinit (d : BitVec 6) (a : BitVec 6) (n : BitVec 9)
  /-- ABARR (R291). Arrives at a barrier object. -/
  | abarr (d : BitVec 6) (a : BitVec 6)
  /-- ABWAIT (R291). Parks until a barrier object's generation passes a value. -/
  | abwait (d : BitVec 6) (a : BitVec 6)
  /-- ABTEST (R291). Tests whether a barrier object's generation passes a value. -/
  | abtest (d : BitVec 6) (a : BitVec 6)
  /-- ABSIG (R291). Reads a barrier object's tree signature. -/
  | absig (d : BitVec 6) (a : BitVec 6)
  /-- DAWNLD (R188). Loads a dawn program into the core's dawn slot. -/
  | dawnld (d : BitVec 6) (a : BitVec 6)
  /-- DAWNGO (R188). Fences, then starts the dawn warp. -/
  | dawngo (d : BitVec 6) (a : BitVec 6)
  /-- DAWNSTOP (R188). Stops the running dawn warp. -/
  | dawnstop (d : BitVec 6)
  /-- JCDEAL (R325). Deals a chunk of job-card record indices to the warp. -/
  | jcdeal (d : BitVec 6)
  /-- WATCH_EVENT_DELIVERY (R354). Delivers an asynchronous WATCH event to the issuing warp at its next instruction boundary. -/
  | watchEventDelivery (core slot : Nat)
  /-- REGISTER_WRITE (R364). Host write to a BAR0 register with no behaviour of its own. -/
  | registerWrite (off : Nat) (w : BarWrite)
  /-- HOST_DOORBELL (R365). Host writes a new tail to a host queue's doorbell, releasing its earlier writes. -/
  | hostDoorbell (q tail : Nat) (recs : List (List W64))
  /-- IDENT (R368). Returns identity, key digest and ROM digest. -/
  | ident (tag : Nat)
  /-- STATUS (R368). Returns device state, partitions and the error log, from an entry on. -/
  | status (c : StatusCmd)
  /-- BOOT_CONTINUE (R369). Leaves Hold, creates initial partitions and optionally provisions or locks. -/
  | bootContinue (tag : Nat) (parts : List PartSpec) (key sig : List Byte) (lock : Bool)
  /-- PART_CREATE (R368). Creates a partition of free quarters. -/
  | partCreate (tag : Nat) (p : PartSpec)
  /-- PART_MERGE (R371). Quiesces two partitions and begins draining them for a merge. -/
  | partMerge (tag p1 p2 timeout : Nat)
  /-- PART_MERGE_DRAINED (R371). When drained, re-lays frames, rewrites registers, shoots down and reports. -/
  | partMergeDrained
  /-- PART_MERGE_TIMEOUT (R371). Drain not finished by the timeout: quiesce lifted, BUSY answered. -/
  | partMergeTimeout
  /-- PART_SPLIT (R368). Splits a half or the whole package. -/
  | partSplit (tag p : Nat)
  /-- CTX_CREATE (R368). Creates a context with its tables, chains and vectors. -/
  | ctxCreate (tag : Nat) (c : CtxSpec)
  /-- CTX_DESTROY (R368). Terminates a context's teams, cancels its records and frees its pages. -/
  | ctxDestroy (tag asid : Nat)
  /-- MAP (R45). Ablas maps pages; widenings take effect without shoot-down. -/
  | map (tag asid va : Nat) (m : MapSpec)
  /-- UNMAP (R46). Ablas removes mappings and shoots them down. -/
  | unmap (tag asid va : Nat)
  /-- QUEUE_BIND (R365). Binds a chain slot or launch queue to a host queue with HCW and vector. -/
  | queueBind (tag : Nat) (q : QueueSpec)
  /-- RESET_CORE (R368). Terminates the core's resident teams and resets its Orrery. -/
  | resetCore (tag core : Nat) (failed : BitVec 4)
  /-- RESET_ORRERY (R234). Stops every walk of the core and re-tests fenced sub-arrays. -/
  | resetOrrery (tag core : Nat) (failed : BitVec 4)
  /-- ATTEST (R375). Returns a signed attestation report. -/
  | attest (tag : Nat) (nonce : W64) (asid hostBuf : Nat)
  /-- TELEM (R377). Returns power, heat, temperature and error counts. -/
  | telem (tag hostAddr : Nat)
  /-- POWER_SET (R373). Sets the power state, cap and heat capacity. -/
  | powerSet (tag st cap heatCap : Nat)
  /-- DEBUG_UNLOCK (R374). Raises or lowers the debug state after token checks. -/
  | debugUnlock (tag target : Nat) (nonce : W64) (tenants : List Nat) (sig : List Byte)
  /-- DEDUP_SCAN (R50). Merges equal read-only pages by digest and comparison. -/
  | dedupScan (tag part : Nat)
  /-- SCRUB (R368). Recounts share counts, rewrites correctable granules and reports poison. -/
  | scrub (tag part : Nat)
  /-- SHOOT_DOWN_COMPLETE (R46). No stale entry, outstanding access or WCT remains; the command may complete. -/
  | shootDownComplete (k : Nat)
  /-- RESET (R369). Device reset starts Ablas self-verification and bring-up. -/
  | reset
  /-- BOOT_CHECK_DONE (R369). Bring-up ends, entering Hold or Failed. -/
  | bootCheckDone (ok : Bool)
  /-- LIMITER_RAISE (R378). Power above cap for 100 us or junction over 105 C raises the limiter level: the least package power
  of the last 100 us in mW, the die's hottest junction in 1/64 C. -/
  | limiterRaise (r : Reading)
  /-- LIMITER_LOWER (R378). Each 1 ms below both limits lowers the level: the highest power and junction of the last 1 ms. -/
  | limiterLower (r : Reading)
  /-- THERMAL_TRIP (R378). A junction at 110 C stops the die's clocks, sets TRIP and parks the device. -/
  | thermalTrip (die : Nat)
  /-- TRIP_OFF_TIMEOUT (R378). Die not below 100 C within 10 s sends the device to Off. -/
  | tripOffTimeout
  /-- SUPPLY_TRIM (R376). Every 1 ms each cluster supply is trimmed to the least holding voltage. -/
  | supplyTrim (cluster : Nat)
  /-- BUDGET_DIVISION (R378). Every 100 us Ablas divides energy units among contexts. -/
  | budgetDivision (part : Nat)
  /-- EBUD_REFILL (R212). Every 1 us LEVEL rises by 4 x RATE and paused debits may proceed. -/
  | ebudRefill (asid : Nat)
  /-- UNCORRECTABLE_ERROR (R34). A memory error poisons its 64-byte granule. -/
  | uncorrectableError (pa : Nat)
  /-- CORRECTED_ERROR (R34). A corrected memory error is logged and counted. -/
  | correctedError (pa : Nat)
  /-- PAGE_WALK (R44). A walker takes a queued miss and reads table entries. -/
  | pageWalk (die : Nat)
  /-- PAGE_WALK_DONE (R40). A walk ends with a leaf or an XLATE or PROT judgement. -/
  | pageWalkDone (die k : Nat)
  /-- LOAD_DATA_RETURN (R128). A load's data reaches its registers and the load retires in order. -/
  | loadDataReturn (op : Nat) (m : BitVec 32)
  /-- WRITE_APPLIED_AT_HOME (R104). A home slice applies a write, atomic or reduction in location order and gives its WCT. -/
  | writeAppliedAtHome (k : Nat)
  /-- WRITE_ACK (R110). A write's acknowledgement returns its WCT to WMAX and retires it. -/
  | writeAck (k : Nat)
  /-- MWAIT_TIMEOUT (R135). A parked MWAIT reaches its timeout and raises MWAIT_TIMEOUT. -/
  | mwaitTimeout (core slot split : Nat)
  /-- REMOTE_ACCESS (R117). A remote access arrives on the remote chip and is translated and performed at home. -/
  | remoteAccess (k : Nat)
  /-- REMOTE_TRANSLATION_DONE (R117). Remote translation of every thread ends, letting the split issue or trap. -/
  | remoteTranslationDone (core slot split : Nat)
  /-- LINK_FAILURE (R296). A link fails and Ablas reroutes, rewriting POS and SIG. -/
  | linkFailure (groups : List (Nat × Nat × List Nat)) (cut : List Nat)
  /-- COPY (R91). Engine starts a copy record moving bits between layouts 0-2. -/
  | copy (asid chain seq : Nat)
  /-- EXPAND (R92). Engine expands a tile into canonical bricks, dequantising a layout 3 source. -/
  | expand (asid chain seq : Nat)
  /-- QUANTISE (R93). Engine quantises a tile into layout 3 with scales and trailer. -/
  | quantise (asid chain seq : Nat)
  /-- DECOMPRESS (R96). Engine checks and then releases a zero-run-packed tile. -/
  | decompress (asid chain seq : Nat)
  /-- TIER_MIGRATION (R99). Engine migrates a 256 KiB page between tiers under R48. -/
  | tierMigration (asid chain seq : Nat)
  /-- FILL (R97). Engine fills a destination with a pattern. -/
  | fill (asid chain seq : Nat)
  /-- GATHER (R98). Engine gathers indexed elements. -/
  | gather (asid chain seq : Nat)
  /-- SCATTER (R98). Engine scatters elements to indexed places. -/
  | scatter (asid chain seq : Nat)
  /-- OPERATOR_RUN (R250). Engine routine unit runs a tile operator record. -/
  | operatorRun (asid chain seq : Nat)
  /-- LAUNCH (R83). Engine hands a launch packet to the scheduler. -/
  | launch (asid chain seq : Nat)
  /-- RECORD_COMPLETION (R80). Engine writes a chain's completion word in sequence order and the record retires. -/
  | recordCompletion (asid chain : Nat)
  /-- OUTPUT_UNIT_OPERATION (R250). The Orrery's output routine unit starts the next queued FOLD or OUTER. -/
  | outputUnitOperation (core : Nat)
  /-- OPERATION_RETIRE (R251). A tile operator's writes return their WCTs and it retires, flags joining FPX. -/
  | operationRetire (op : Nat)
  /-- WALK_START (R202). A posted walk issues its first stage requests. -/
  | walkStart (core slot : Nat)
  /-- UPCALL_DELIVERY (R222). Pairs the oldest pending upcall with the longest-parked warp and starts its handler. -/
  | upcallDelivery (core team cohort : Nat)
  /-- UPCALL_TIMEOUT (R232). An upcall's deadline passes, revoking or re-raising it or ending the walk. -/
  | upcallTimeout (core slot seq : Nat)
  /-- DIRECT_FILL_COMPLETE (R209). A copy engine finishes filling a direct stage, sealing it or failing the walk. -/
  | directFillComplete (core slot unit opnd eng : Nat)
  /-- STEP_START (R203). A ready step takes its debit and starts on its sub-arrays. -/
  | stepStart (core slot unit : Nat)
  /-- STEP_COMPLETE (R215). A step ends, its checksums are compared and the shadow committed or rerun. -/
  | stepComplete (core slot unit badRuns : Nat)
  /-- DELIVERY_CONVERSION_DONE (R204). A tile is converted into its delivery slot and goes to a consume upcall or a sink. -/
  | deliveryConversionDone (core slot unit : Nat)
  /-- WALK_COMPLETION (R198). A walk writes its completion word once and retires from TL. -/
  | walkCompletion (core slot : Nat)
  /-- SELF_TEST (R216). After the step count reaches the interval, the sequencer holds all sub-arrays for a self-test. -/
  | selfTest (core : Nat)
  /-- SELF_TEST_RESULT (R217). A self-test ends; failing sub-arrays are fenced. -/
  | selfTestResult (core : Nat) (failed : BitVec 4)
  /-- ATTN_PAGE_GROUP_DONE (R273). An attention unit writes the triples of one page group. -/
  | attnPageGroupDone (req group unit : Nat)
  /-- ATTN_ABSENT_PAGE_READ (R275). After present groups, units read skipped pages once migrated or from the second tier. -/
  | attnAbsentPageRead (req group unit : Nat)
  /-- ATTN_MERGE (R274). A copy engine merges the group triples with LSE. -/
  | attnMerge (req eng : Nat)
  /-- ATTN_COMPLETION (R276). An attention request writes its completion word and retires. -/
  | attnCompletion (req : Nat)
  /-- COLLECTIVE_START (R284). The collective service judges a handed-over collective before moving data. -/
  | collectiveStart (coll : Nat)
  /-- COLLECTIVE_TREE_NODE (R294). A tree node is computed once both inputs arrive and forwarded. -/
  | collectiveTreeNode (coll pos height : Nat)
  /-- COLLECTIVE_COMPLETION (R288). A collective's destination writes complete and it arrives at its barrier object and retires. -/
  | collectiveCompletion (coll : Nat)
  /-- COLLECTIVE_TIMEOUT (R289). A rank's collective timeout expires, failing it and sending aborts. -/
  | collectiveTimeout (coll : Nat)
  /-- COLLECTIVE_ABORT (R289). An abort message fails an incomplete collective at a rank. -/
  | collectiveAbort (coll sub detail : Nat)
  /-- SWITCH_REDUCTION_FAILURE (R295). A switch fails mid-collective and the service recomputes at the endpoints. -/
  | switchReductionFailure (coll : Nat)
  /-- LAUNCH_PACKET_ACCEPT (R312). A launch queue accepts or rejects a packet and assigns its sequence number. -/
  | launchPacketAccept (part : Nat) (queue : PacketSource)
  /-- TEAM_PLACEMENT (R319). The scheduler places a team or constellation on cores and starts its warps. -/
  | teamPlacement (launch : Nat)
  /-- TEAM_RETIRE (R303). A team whose warps and operations are done retires and frees its resources. -/
  | teamRetire (team : Nat)
  /-- PREEMPTION_DELAY_EXPIRY (R316). A waiting head's delay expires and a lower-priority core context is switched out. -/
  | preemptionDelayExpiry (part : Nat)
  /-- CONTEXT_RESUME (R316). A switched-out core context resumes on a free core, walks restarting. -/
  | contextResume (saved core : Nat)
  /-- BALANCER_INTERVAL (R326). Every 8 us the balancer moves records to cores with parked deals. -/
  | balancerInterval (part : Nat)
  /-- REPLICATED_ACCEPTANCE (R299). A chip reports acceptance or rejection of a replicated packet. -/
  | replicatedAcceptance (launch chip : Nat) (answer : Answer)
  /-- REPLICATED_ACCEPT_TIMEOUT (R299). Without all acceptances within 1 ms, the launch is aborted. -/
  | replicatedAcceptTimeout (launch : Nat)
  /-- REPLICATED_START (R299). At start time T every chip releases its teams. -/
  | replicatedStart (launch : Nat)
  /-- SWITCH_REQUEST (R358). A dusk switch is requested and lanes stop at their next boundary. -/
  | switchRequest (core : Nat)
  /-- BANK_EXCHANGE (R358). The last lane reaches a boundary and the active and dusk banks exchange. -/
  | bankExchange (core : Nat)
  /-- BANK_EXCHANGE_DONE (R358). The exchange ends and the incoming context issues. -/
  | bankExchangeDone (core : Nat)
  /-- SPILL_COMPLETE (R359). The outgoing context's spill finishes and RES is set. -/
  | spillComplete (saved : Nat)
  /-- DEMAND_RESTORE (R361). A line needed after resume is restored ahead of background order. -/
  | demandRestore (core line : Nat)
  /-- ENGINE_RESET (R101). A copy engine or its chain is reset while a record is in flight, ending that record with sub-code 6 (and, for a quantise, a trailer with MAGIC 0). -/
  | engineReset (eng : Nat)
  /-- ATTENTION_UNIT_RESET (R276). Ablas resets an attention unit, failing its outstanding requests with sub-code 6. -/
  | attentionUnitReset (unit : Nat)
  /-- DEBUGGER_RESUME (R355). An Invasive debug session resumes warps stopped by BKPT, WATCH or STEP through Ablas. -/
  | debuggerResume (asid : Nat) (edits : List Edit)
  deriving DecidableEq, Repr

end Sys2Proof
end

