-- ==== Sys2Proof/WellFormed.lean ====
section
/-! DEFINITION. Which instructions are well formed: every field within the range its own description states
(02 R22, WHY 3). A field outside its range is refused where the instruction is performed. -/

namespace Sys2Proof

/-- Whether a type code names a 32-bit type (00 R4): f32, i32, n32, b32. -/
def typeIs32 (t : Nat) : Bool := t == 0 || t == 7 || t == 8 || t == 13

/-- The special-register numbers of 07 R150. -/
def specialNumbers : List Nat :=
  [0x000, 0x001, 0x002, 0x003, 0x004, 0x005, 0x006, 0x007, 0x008, 0x009, 0x00A,
   0x010, 0x011, 0x012, 0x013, 0x014, 0x015, 0x016, 0x017, 0x018,
   0x020, 0x021, 0x022, 0x023, 0x024, 0x025, 0x026, 0x030, 0x031, 0x032, 0x033]

/-- FCVT's fields (08 R176, R179): both type codes at most 13; part 0 when both types are 32 bits wide; b32 only
with a 32-bit type. -/
def fcvtFieldsOk (dst src part : Nat) : Bool :=
  decide (dst ≤ 13) && decide (src ≤ 13) &&
  (!(typeIs32 dst && typeIs32 src) || part == 0) &&
  (!(dst == 13 || src == 13) || (typeIs32 dst && typeIs32 src))

/-- A two-register group starts at an even register (06 R118). -/
def evenReg {n : Nat} (d : BitVec n) : Bool := d.toNat % 2 == 0
/-- A four-register group starts at a multiple of 4 (06 R118). -/
def quadReg {n : Nat} (d : BitVec n) : Bool := d.toNat % 4 == 0
/-- An eight-scalar record starts at a multiple of 8 (05 R85, 09 R195, 12 R271). -/
def octReg {n : Nat} (a : BitVec n) : Bool := a.toNat % 8 == 0
/-- A barrier id (14 R327). -/
def barrierId {n : Nat} (b : BitVec n) : Bool := decide (b.toNat ≤ 271)

/-- Every field lies in the range its instruction states. -/
def Instr.wf : Instr → Bool
  | .sshli _ _ i | .sshri _ _ i | .ssrai _ _ i => decide (i.toNat ≤ 63)
  | .vshli _ _ i | .vshri _ _ i | .vsrai _ _ i => decide (i.toNat ≤ 31)
  | .mfs _ n => specialNumbers.contains n.toNat
  | .mts _ n => specialNumbers.contains n.toNat
  | .fcvt t _ _ s p => fcvtFieldsOk t.toNat s.toNat p.toNat
  | .fexp2 _ _ y | .flog2 _ _ y | .frcp _ _ y | .frsq _ _ y | .fsqrt _ _ y | .fsinpi _ _ y | .fcospi _ _ y
  | .ftanh _ _ y | .fsigm _ _ y | .fgelu _ _ y | .ferf _ _ y => decide (y.toNat ≤ 2)
  | .fence c => decide (c.toNat ≤ 6)
  | .vkill d a => decide (d.toNat ≤ a.toNat)
  | .ldd d _ _ _ => evenReg d
  | .ldda d _ _ | .std d _ _ | .stdl d _ _ | .ldsd d _ _ | .stsd d _ _ | .acas d _ _ | .acasS d _ _
  | .ldxd d _ _ | .stxd d _ _ => evenReg d
  | .ldq d _ _ _ => quadReg d
  | .stq d _ _ | .ldsq d _ _ | .stsq d _ _ => quadReg d
  | .pfx _ r _ _ _ _ => decide (r.toNat ≤ 5)
  | .cpush _ a _ _ _ => octReg a
  | .opost _ a c _ _ => octReg a && decide (c.toNat ≤ 4)
  | .attn _ a _ _ => octReg a
  | .tdset _ _ b _ => decide (b.toNat ≤ 8)
  | .hwait _ _ c => decide (c.toNat ≤ 255)
  | .hret n => decide (n.toNat ≤ 3)
  | .hstage a => decide (a.toNat ≤ 96)
  | .hdrain d => decide (d.toNat ≤ 96)
  | .fold _ _ _ h _ | .scan _ _ _ h _ | .zip _ _ _ h _ | .outer _ _ _ h _ => decide (h.toNat ≤ 61)
  | .coll _ _ h _ => decide (h.toNat ≤ 62)
  | .bara _ b | .bart _ b | .bjoin _ b | .bleave _ b => barrierId b
  | .barw _ _ b | .binit _ _ b => barrierId b
  | .xacq n | .xrel n => decide (1 ≤ n.toNat) && decide (n.toNat ≤ 6)
  | .xtry _ n => decide (1 ≤ n.toNat) && decide (n.toNat ≤ 6)
  | .abinit _ _ n => decide (1 ≤ n.toNat) && decide (n.toNat ≤ 256)
  | .abwait _ a | .abtest _ a => decide (a.toNat ≠ 63)
  | .epsnap _ a _ => decide (a.toNat ≤ 62)
  | .kvslot _ a _ => decide (a.toNat ≤ 62)
  | .eprest _ a | .epcommit _ a | .kvtent _ a | .kvcommit _ a | .kvroll _ a => decide (a.toNat ≤ 62)
  | .kvfork _ a => decide (a.toNat ≤ 61)
  | .kvlen d _ => decide (d.toNat ≤ 62)
  | .jcdeal d => decide (d.toNat ≤ 62)
  | _ => true

end Sys2Proof
end

