-- ==== Sys2Proof/Decode.lean ====
section
/-! DEFINITION. Decoding and encoding of the V9's instruction words (02 R11-R30).

`decode` is total on any list of bytes: it answers an instruction with the bytes after it, or the reason the
word is refused (R22: the WHY code of ILLEGAL), or that the bytes ran out. The encoder after it is written from
the same tables of the spec. The checks of a field's range (WHY 3) and of what the machine holds (WHY 4, 7, 8,
10) are made where an instruction is performed. -/

namespace Sys2Proof

/-- Why bytes are not an instruction: the ILLEGAL reason code of R20, or too few bytes. -/
inductive DecodeError where
  | illegal (why : Nat)
  | short
  deriving DecidableEq, Repr

/-- Bits [lo + n - 1 : lo] of a word held as a number. -/
def fld (w lo n : Nat) : Nat := w / 2 ^ lo % 2 ^ n

/-- The instruction when every field in the list is zero, else ILLEGAL with WHY 2 (R22). -/
def zeroed (zs : List Nat) (i : Instr) : Except DecodeError Instr :=
  if zs.all (· == 0) then .ok i else .error (.illegal 2)

/-- Major 0x01 (R30). -/
noncomputable def decodeMaj01 (w : Nat) : Except DecodeError Instr :=
  match 16 * fld w 29 3 + fld w 7 4 with
  | 0 => .ok (.sadd (.ofNat 6 (fld w 11 6)) (.ofNat 6 (fld w 17 6)) (.ofNat 6 (fld w 23 6)))
  | 1 => .ok (.ssub (.ofNat 6 (fld w 11 6)) (.ofNat 6 (fld w 17 6)) (.ofNat 6 (fld w 23 6)))
  | 2 => .ok (.smul (.ofNat 6 (fld w 11 6)) (.ofNat 6 (fld w 17 6)) (.ofNat 6 (fld w 23 6)))
  | 3 => .ok (.smulh (.ofNat 6 (fld w 11 6)) (.ofNat 6 (fld w 17 6)) (.ofNat 6 (fld w 23 6)))
  | 4 => .ok (.smulhn (.ofNat 6 (fld w 11 6)) (.ofNat 6 (fld w 17 6)) (.ofNat 6 (fld w 23 6)))
  | 5 => .ok (.sdiv (.ofNat 6 (fld w 11 6)) (.ofNat 6 (fld w 17 6)) (.ofNat 6 (fld w 23 6)))
  | 6 => .ok (.sdivn (.ofNat 6 (fld w 11 6)) (.ofNat 6 (fld w 17 6)) (.ofNat 6 (fld w 23 6)))
  | 7 => .ok (.srem (.ofNat 6 (fld w 11 6)) (.ofNat 6 (fld w 17 6)) (.ofNat 6 (fld w 23 6)))
  | 8 => .ok (.sremn (.ofNat 6 (fld w 11 6)) (.ofNat 6 (fld w 17 6)) (.ofNat 6 (fld w 23 6)))
  | 9 => .ok (.sand (.ofNat 6 (fld w 11 6)) (.ofNat 6 (fld w 17 6)) (.ofNat 6 (fld w 23 6)))
  | 10 => .ok (.sor (.ofNat 6 (fld w 11 6)) (.ofNat 6 (fld w 17 6)) (.ofNat 6 (fld w 23 6)))
  | 11 => .ok (.sxor (.ofNat 6 (fld w 11 6)) (.ofNat 6 (fld w 17 6)) (.ofNat 6 (fld w 23 6)))
  | 12 => .ok (.sandn (.ofNat 6 (fld w 11 6)) (.ofNat 6 (fld w 17 6)) (.ofNat 6 (fld w 23 6)))
  | 13 => .ok (.sshl (.ofNat 6 (fld w 11 6)) (.ofNat 6 (fld w 17 6)) (.ofNat 6 (fld w 23 6)))
  | 14 => .ok (.sshr (.ofNat 6 (fld w 11 6)) (.ofNat 6 (fld w 17 6)) (.ofNat 6 (fld w 23 6)))
  | 15 => .ok (.ssra (.ofNat 6 (fld w 11 6)) (.ofNat 6 (fld w 17 6)) (.ofNat 6 (fld w 23 6)))
  | 16 => .ok (.smin (.ofNat 6 (fld w 11 6)) (.ofNat 6 (fld w 17 6)) (.ofNat 6 (fld w 23 6)))
  | 17 => .ok (.smax (.ofNat 6 (fld w 11 6)) (.ofNat 6 (fld w 17 6)) (.ofNat 6 (fld w 23 6)))
  | 18 => .ok (.sminn (.ofNat 6 (fld w 11 6)) (.ofNat 6 (fld w 17 6)) (.ofNat 6 (fld w 23 6)))
  | 19 => .ok (.smaxn (.ofNat 6 (fld w 11 6)) (.ofNat 6 (fld w 17 6)) (.ofNat 6 (fld w 23 6)))
  | 20 => zeroed [fld w 11 6] (.scmp (.ofNat 6 (fld w 17 6)) (.ofNat 6 (fld w 23 6)))
  | 21 => zeroed [fld w 23 6] (.sclz (.ofNat 6 (fld w 11 6)) (.ofNat 6 (fld w 17 6)))
  | 22 => zeroed [fld w 23 6] (.spopc (.ofNat 6 (fld w 11 6)) (.ofNat 6 (fld w 17 6)))
  | 23 => zeroed [fld w 23 6] (.smov (.ofNat 6 (fld w 11 6)) (.ofNat 6 (fld w 17 6)))
  | _ => .error (.illegal 1)

/-- Major 0x02 (R30). -/
noncomputable def decodeMaj02 (w : Nat) : Except DecodeError Instr :=
  match fld w 7 4 with
  | 0 => .ok (.saddi (.ofNat 6 (fld w 11 6)) (.ofNat 6 (fld w 17 6)) (.ofNat 9 (fld w 23 9)))
  | 1 => .ok (.sandi (.ofNat 6 (fld w 11 6)) (.ofNat 6 (fld w 17 6)) (.ofNat 9 (fld w 23 9)))
  | 2 => .ok (.sori (.ofNat 6 (fld w 11 6)) (.ofNat 6 (fld w 17 6)) (.ofNat 9 (fld w 23 9)))
  | 3 => .ok (.sxori (.ofNat 6 (fld w 11 6)) (.ofNat 6 (fld w 17 6)) (.ofNat 9 (fld w 23 9)))
  | 4 => .ok (.sshli (.ofNat 6 (fld w 11 6)) (.ofNat 6 (fld w 17 6)) (.ofNat 9 (fld w 23 9)))
  | 5 => .ok (.sshri (.ofNat 6 (fld w 11 6)) (.ofNat 6 (fld w 17 6)) (.ofNat 9 (fld w 23 9)))
  | 6 => .ok (.ssrai (.ofNat 6 (fld w 11 6)) (.ofNat 6 (fld w 17 6)) (.ofNat 9 (fld w 23 9)))
  | 7 => zeroed [fld w 11 6] (.scmpi (.ofNat 6 (fld w 17 6)) (.ofNat 9 (fld w 23 9)))
  | 8 => .ok (.smuli (.ofNat 6 (fld w 11 6)) (.ofNat 6 (fld w 17 6)) (.ofNat 9 (fld w 23 9)))
  | _ => .error (.illegal 1)

/-- Major 0x03 (R30). -/
noncomputable def decodeMaj03 (w : Nat) : Except DecodeError Instr :=
  match fld w 7 4 with
  | 0 => .ok (.sli (.ofNat 6 (fld w 11 6)) (.ofNat 15 (fld w 17 15)))
  | 1 => .ok (.slis (.ofNat 6 (fld w 11 6)) (.ofNat 15 (fld w 17 15)))
  | _ => .error (.illegal 1)

/-- Major 0x04 (R30). -/
noncomputable def decodeMaj04 (w : Nat) : Except DecodeError Instr :=
  match fld w 7 4 with
  | 0 => zeroed [fld w 17 6] (.mfs (.ofNat 6 (fld w 11 6)) (.ofNat 9 (fld w 23 9)))
  | 1 => zeroed [fld w 11 6] (.mts (.ofNat 6 (fld w 17 6)) (.ofNat 9 (fld w 23 9)))
  | _ => .error (.illegal 1)

/-- Major 0x05 (R30). -/
noncomputable def decodeMaj05 (w : Nat) : Except DecodeError Instr :=
  match fld w 7 4 with
  | 0 => .ok (.sldw (.ofNat 6 (fld w 11 6)) (.ofNat 6 (fld w 17 6)) (.ofNat 9 (fld w 23 9)))
  | 1 => .ok (.sldd (.ofNat 6 (fld w 11 6)) (.ofNat 6 (fld w 17 6)) (.ofNat 9 (fld w 23 9)))
  | 2 => .ok (.sstw (.ofNat 6 (fld w 11 6)) (.ofNat 6 (fld w 17 6)) (.ofNat 9 (fld w 23 9)))
  | 3 => .ok (.sstd (.ofNat 6 (fld w 11 6)) (.ofNat 6 (fld w 17 6)) (.ofNat 9 (fld w 23 9)))
  | 4 => .ok (.sldda (.ofNat 6 (fld w 11 6)) (.ofNat 6 (fld w 17 6)) (.ofNat 9 (fld w 23 9)))
  | 5 => .ok (.sstdl (.ofNat 6 (fld w 11 6)) (.ofNat 6 (fld w 17 6)) (.ofNat 9 (fld w 23 9)))
  | _ => .error (.illegal 1)

/-- Major 0x08 (R30). -/
noncomputable def decodeMaj08 (w : Nat) : Except DecodeError Instr :=
  .ok (.bra (.ofNat 4 (fld w 7 4)) (.ofNat 21 (fld w 11 21)))

/-- Major 0x09 (R30). -/
noncomputable def decodeMaj09 (w : Nat) : Except DecodeError Instr :=
  .ok (.call (.ofNat 25 (fld w 7 25)))

/-- Major 0x0A (R30). -/
noncomputable def decodeMaj0A (w : Nat) : Except DecodeError Instr :=
  match fld w 7 4 with
  | 0 => zeroed [fld w 11 6, fld w 23 9] (.jmp (.ofNat 6 (fld w 17 6)))
  | 1 => zeroed [fld w 11 6, fld w 23 9] (.callr (.ofNat 6 (fld w 17 6)))
  | 2 => zeroed [fld w 11 21] .ret
  | 3 => zeroed [fld w 11 21] .exit
  | 4 => zeroed [fld w 11 21] .yield
  | 5 => zeroed [fld w 11 21] .nop
  | 6 => zeroed [fld w 11 21] .rcv
  | 7 => zeroed [fld w 11 12] (.bkpt (.ofNat 9 (fld w 23 9)))
  | 8 => zeroed [fld w 11 12] (.trap (.ofNat 9 (fld w 23 9)))
  | 9 => zeroed [fld w 11 21] .eret
  | 10 => zeroed [fld w 11 6, fld w 23 9] (.mon (.ofNat 6 (fld w 17 6)))
  | 11 => zeroed [fld w 11 6, fld w 23 9] (.mwait (.ofNat 6 (fld w 17 6)))
  | 12 => zeroed [fld w 11 21] .tcommit
  | 13 => zeroed [fld w 11 21] .tdiscard
  | 14 =>
    if fld w 11 6 ≠ 0 then .error (.illegal 2)
    else match fld w 23 9 with
      | 0 => .ok (.tlbiPage (.ofNat 6 (fld w 17 6)))
      | 1 => zeroed [fld w 17 6] .tlbiAsid
      | _ => .error (.illegal 3)
  | 15 => zeroed [fld w 11 21] .mspill
  | _ => .error (.illegal 1)

/-- Major 0x0B (R30). -/
noncomputable def decodeMaj0B (w : Nat) : Except DecodeError Instr :=
  .ok (.brd (.ofNat 3 (fld w 7 3)) (.ofNat 1 (fld w 10 1)) (.ofNat 21 (fld w 11 21)))

/-- Major 0x10 (R30). -/
noncomputable def decodeMaj10 (w : Nat) : Except DecodeError Instr :=
  match fld w 7 4 with
  | 0 => .ok (.vadd (.ofNat 7 (fld w 11 7)) (.ofNat 7 (fld w 18 7)) (.ofNat 7 (fld w 25 7)))
  | 1 => .ok (.vsub (.ofNat 7 (fld w 11 7)) (.ofNat 7 (fld w 18 7)) (.ofNat 7 (fld w 25 7)))
  | 2 => .ok (.vmul (.ofNat 7 (fld w 11 7)) (.ofNat 7 (fld w 18 7)) (.ofNat 7 (fld w 25 7)))
  | 3 => .ok (.vmulh (.ofNat 7 (fld w 11 7)) (.ofNat 7 (fld w 18 7)) (.ofNat 7 (fld w 25 7)))
  | 4 => .ok (.vmulhn (.ofNat 7 (fld w 11 7)) (.ofNat 7 (fld w 18 7)) (.ofNat 7 (fld w 25 7)))
  | 5 => .ok (.vmad (.ofNat 7 (fld w 11 7)) (.ofNat 7 (fld w 18 7)) (.ofNat 7 (fld w 25 7)))
  | 6 => .ok (.vmin (.ofNat 7 (fld w 11 7)) (.ofNat 7 (fld w 18 7)) (.ofNat 7 (fld w 25 7)))
  | 7 => .ok (.vmax (.ofNat 7 (fld w 11 7)) (.ofNat 7 (fld w 18 7)) (.ofNat 7 (fld w 25 7)))
  | 8 => .ok (.vminn (.ofNat 7 (fld w 11 7)) (.ofNat 7 (fld w 18 7)) (.ofNat 7 (fld w 25 7)))
  | 9 => .ok (.vmaxn (.ofNat 7 (fld w 11 7)) (.ofNat 7 (fld w 18 7)) (.ofNat 7 (fld w 25 7)))
  | 10 => .ok (.vand (.ofNat 7 (fld w 11 7)) (.ofNat 7 (fld w 18 7)) (.ofNat 7 (fld w 25 7)))
  | 11 => .ok (.vor (.ofNat 7 (fld w 11 7)) (.ofNat 7 (fld w 18 7)) (.ofNat 7 (fld w 25 7)))
  | 12 => .ok (.vxor (.ofNat 7 (fld w 11 7)) (.ofNat 7 (fld w 18 7)) (.ofNat 7 (fld w 25 7)))
  | 13 => .ok (.vandn (.ofNat 7 (fld w 11 7)) (.ofNat 7 (fld w 18 7)) (.ofNat 7 (fld w 25 7)))
  | 14 => .ok (.vshl (.ofNat 7 (fld w 11 7)) (.ofNat 7 (fld w 18 7)) (.ofNat 7 (fld w 25 7)))
  | 15 => .ok (.vshr (.ofNat 7 (fld w 11 7)) (.ofNat 7 (fld w 18 7)) (.ofNat 7 (fld w 25 7)))
  | _ => .error (.illegal 1)

/-- Major 0x11 (R30). -/
noncomputable def decodeMaj11 (w : Nat) : Except DecodeError Instr :=
  match fld w 7 4 with
  | 0 => .ok (.vsra (.ofNat 7 (fld w 11 7)) (.ofNat 7 (fld w 18 7)) (.ofNat 7 (fld w 25 7)))
  | 1 => .ok (.vrot (.ofNat 7 (fld w 11 7)) (.ofNat 7 (fld w 18 7)) (.ofNat 7 (fld w 25 7)))
  | 2 => .ok (.vabsd (.ofNat 7 (fld w 11 7)) (.ofNat 7 (fld w 18 7)) (.ofNat 7 (fld w 25 7)))
  | 3 => .ok (.vadds (.ofNat 7 (fld w 11 7)) (.ofNat 7 (fld w 18 7)) (.ofNat 7 (fld w 25 7)))
  | 4 => .ok (.vsubs (.ofNat 7 (fld w 11 7)) (.ofNat 7 (fld w 18 7)) (.ofNat 7 (fld w 25 7)))
  | 5 => .ok (.vavg (.ofNat 7 (fld w 11 7)) (.ofNat 7 (fld w 18 7)) (.ofNat 7 (fld w 25 7)))
  | 6 => .ok (.vbfx (.ofNat 7 (fld w 11 7)) (.ofNat 7 (fld w 18 7)) (.ofNat 7 (fld w 25 7)))
  | 7 => .ok (.vbfi (.ofNat 7 (fld w 11 7)) (.ofNat 7 (fld w 18 7)) (.ofNat 7 (fld w 25 7)))
  | 8 => .ok (.vpack (.ofNat 7 (fld w 11 7)) (.ofNat 7 (fld w 18 7)) (.ofNat 7 (fld w 25 7)))
  | 9 => .ok (.vpermb (.ofNat 7 (fld w 11 7)) (.ofNat 7 (fld w 18 7)) (.ofNat 7 (fld w 25 7)))
  | 10 => zeroed [fld w 25 7] (.vclz (.ofNat 7 (fld w 11 7)) (.ofNat 7 (fld w 18 7)))
  | 11 => zeroed [fld w 25 7] (.vpopc (.ofNat 7 (fld w 11 7)) (.ofNat 7 (fld w 18 7)))
  | 12 => zeroed [fld w 25 7] (.vbrev (.ofNat 7 (fld w 11 7)) (.ofNat 7 (fld w 18 7)))
  | 13 => zeroed [fld w 25 7] (.vnot (.ofNat 7 (fld w 11 7)) (.ofNat 7 (fld w 18 7)))
  | 14 => zeroed [fld w 25 7] (.vabs (.ofNat 7 (fld w 11 7)) (.ofNat 7 (fld w 18 7)))
  | 15 => zeroed [fld w 25 7] (.vneg (.ofNat 7 (fld w 11 7)) (.ofNat 7 (fld w 18 7)))
  | _ => .error (.illegal 1)

/-- Major 0x12 (R30). -/
noncomputable def decodeMaj12 (w : Nat) : Except DecodeError Instr :=
  zeroed [fld w 14 4] (.vcmp (.ofNat 4 (fld w 7 4)) (.ofNat 3 (fld w 11 3)) (.ofNat 7 (fld w 18 7)) (.ofNat 7 (fld w 25 7)))

/-- Major 0x13 (R30). -/
noncomputable def decodeMaj13 (w : Nat) : Except DecodeError Instr :=
  match fld w 7 4 with
  | 0 => .ok (.fadd (.ofNat 7 (fld w 11 7)) (.ofNat 7 (fld w 18 7)) (.ofNat 7 (fld w 25 7)))
  | 1 => .ok (.fsub (.ofNat 7 (fld w 11 7)) (.ofNat 7 (fld w 18 7)) (.ofNat 7 (fld w 25 7)))
  | 2 => .ok (.fmul (.ofNat 7 (fld w 11 7)) (.ofNat 7 (fld w 18 7)) (.ofNat 7 (fld w 25 7)))
  | 3 => .ok (.ffma (.ofNat 7 (fld w 11 7)) (.ofNat 7 (fld w 18 7)) (.ofNat 7 (fld w 25 7)))
  | 4 => .ok (.fmin (.ofNat 7 (fld w 11 7)) (.ofNat 7 (fld w 18 7)) (.ofNat 7 (fld w 25 7)))
  | 5 => .ok (.fmax (.ofNat 7 (fld w 11 7)) (.ofNat 7 (fld w 18 7)) (.ofNat 7 (fld w 25 7)))
  | 6 => zeroed [fld w 25 7] (.fabs (.ofNat 7 (fld w 11 7)) (.ofNat 7 (fld w 18 7)))
  | 7 => zeroed [fld w 25 7] (.fneg (.ofNat 7 (fld w 11 7)) (.ofNat 7 (fld w 18 7)))
  | 8 => .ok (.fscale (.ofNat 7 (fld w 11 7)) (.ofNat 7 (fld w 18 7)) (.ofNat 7 (fld w 25 7)))
  | 9 => zeroed [fld w 25 7] (.frnd (.ofNat 7 (fld w 11 7)) (.ofNat 7 (fld w 18 7)))
  | 10 => zeroed [fld w 25 7] (.fclass (.ofNat 7 (fld w 11 7)) (.ofNat 7 (fld w 18 7)))
  | 11 => .ok (.fcopys (.ofNat 7 (fld w 11 7)) (.ofNat 7 (fld w 18 7)) (.ofNat 7 (fld w 25 7)))
  | _ => .error (.illegal 1)

/-- Major 0x14 (R30). -/
noncomputable def decodeMaj14 (w : Nat) : Except DecodeError Instr :=
  match fld w 7 4 with
  | 0 => .ok (.faddBf16x2 (.ofNat 7 (fld w 11 7)) (.ofNat 7 (fld w 18 7)) (.ofNat 7 (fld w 25 7)))
  | 1 => .ok (.fsubBf16x2 (.ofNat 7 (fld w 11 7)) (.ofNat 7 (fld w 18 7)) (.ofNat 7 (fld w 25 7)))
  | 2 => .ok (.fmulBf16x2 (.ofNat 7 (fld w 11 7)) (.ofNat 7 (fld w 18 7)) (.ofNat 7 (fld w 25 7)))
  | 3 => .ok (.ffmaBf16x2 (.ofNat 7 (fld w 11 7)) (.ofNat 7 (fld w 18 7)) (.ofNat 7 (fld w 25 7)))
  | 4 => .ok (.fminBf16x2 (.ofNat 7 (fld w 11 7)) (.ofNat 7 (fld w 18 7)) (.ofNat 7 (fld w 25 7)))
  | 5 => .ok (.fmaxBf16x2 (.ofNat 7 (fld w 11 7)) (.ofNat 7 (fld w 18 7)) (.ofNat 7 (fld w 25 7)))
  | 6 => zeroed [fld w 25 7] (.fabsBf16x2 (.ofNat 7 (fld w 11 7)) (.ofNat 7 (fld w 18 7)))
  | 7 => zeroed [fld w 25 7] (.fnegBf16x2 (.ofNat 7 (fld w 11 7)) (.ofNat 7 (fld w 18 7)))
  | 8 => .ok (.fscaleBf16x2 (.ofNat 7 (fld w 11 7)) (.ofNat 7 (fld w 18 7)) (.ofNat 7 (fld w 25 7)))
  | 9 => zeroed [fld w 25 7] (.frndBf16x2 (.ofNat 7 (fld w 11 7)) (.ofNat 7 (fld w 18 7)))
  | 10 => zeroed [fld w 25 7] (.fclassBf16x2 (.ofNat 7 (fld w 11 7)) (.ofNat 7 (fld w 18 7)))
  | 11 => .ok (.fcopysBf16x2 (.ofNat 7 (fld w 11 7)) (.ofNat 7 (fld w 18 7)) (.ofNat 7 (fld w 25 7)))
  | 12 => .ok (.fdot2Bf16x2 (.ofNat 7 (fld w 11 7)) (.ofNat 7 (fld w 18 7)) (.ofNat 7 (fld w 25 7)))
  | _ => .error (.illegal 1)

/-- Major 0x15 (R30). -/
noncomputable def decodeMaj15 (w : Nat) : Except DecodeError Instr :=
  match fld w 7 4 with
  | 0 => .ok (.faddF16x2 (.ofNat 7 (fld w 11 7)) (.ofNat 7 (fld w 18 7)) (.ofNat 7 (fld w 25 7)))
  | 1 => .ok (.fsubF16x2 (.ofNat 7 (fld w 11 7)) (.ofNat 7 (fld w 18 7)) (.ofNat 7 (fld w 25 7)))
  | 2 => .ok (.fmulF16x2 (.ofNat 7 (fld w 11 7)) (.ofNat 7 (fld w 18 7)) (.ofNat 7 (fld w 25 7)))
  | 3 => .ok (.ffmaF16x2 (.ofNat 7 (fld w 11 7)) (.ofNat 7 (fld w 18 7)) (.ofNat 7 (fld w 25 7)))
  | 4 => .ok (.fminF16x2 (.ofNat 7 (fld w 11 7)) (.ofNat 7 (fld w 18 7)) (.ofNat 7 (fld w 25 7)))
  | 5 => .ok (.fmaxF16x2 (.ofNat 7 (fld w 11 7)) (.ofNat 7 (fld w 18 7)) (.ofNat 7 (fld w 25 7)))
  | 6 => zeroed [fld w 25 7] (.fabsF16x2 (.ofNat 7 (fld w 11 7)) (.ofNat 7 (fld w 18 7)))
  | 7 => zeroed [fld w 25 7] (.fnegF16x2 (.ofNat 7 (fld w 11 7)) (.ofNat 7 (fld w 18 7)))
  | 8 => .ok (.fscaleF16x2 (.ofNat 7 (fld w 11 7)) (.ofNat 7 (fld w 18 7)) (.ofNat 7 (fld w 25 7)))
  | 9 => zeroed [fld w 25 7] (.frndF16x2 (.ofNat 7 (fld w 11 7)) (.ofNat 7 (fld w 18 7)))
  | 10 => zeroed [fld w 25 7] (.fclassF16x2 (.ofNat 7 (fld w 11 7)) (.ofNat 7 (fld w 18 7)))
  | 11 => .ok (.fcopysF16x2 (.ofNat 7 (fld w 11 7)) (.ofNat 7 (fld w 18 7)) (.ofNat 7 (fld w 25 7)))
  | 12 => .ok (.fdot2F16x2 (.ofNat 7 (fld w 11 7)) (.ofNat 7 (fld w 18 7)) (.ofNat 7 (fld w 25 7)))
  | _ => .error (.illegal 1)

/-- Major 0x16 (R30). -/
noncomputable def decodeMaj16 (w : Nat) : Except DecodeError Instr :=
  zeroed [fld w 31 1] (.fcvt (.ofNat 4 (fld w 7 4)) (.ofNat 7 (fld w 11 7)) (.ofNat 7 (fld w 18 7)) (.ofNat 4 (fld w 25 4)) (.ofNat 2 (fld w 29 2)))

/-- Major 0x17 (R30). -/
noncomputable def decodeMaj17 (w : Nat) : Except DecodeError Instr :=
  match fld w 7 4 with
  | 0 => zeroed [fld w 27 5] (.fexp2 (.ofNat 7 (fld w 11 7)) (.ofNat 7 (fld w 18 7)) (.ofNat 2 (fld w 25 2)))
  | 1 => zeroed [fld w 27 5] (.flog2 (.ofNat 7 (fld w 11 7)) (.ofNat 7 (fld w 18 7)) (.ofNat 2 (fld w 25 2)))
  | 2 => zeroed [fld w 27 5] (.frcp (.ofNat 7 (fld w 11 7)) (.ofNat 7 (fld w 18 7)) (.ofNat 2 (fld w 25 2)))
  | 3 => zeroed [fld w 27 5] (.frsq (.ofNat 7 (fld w 11 7)) (.ofNat 7 (fld w 18 7)) (.ofNat 2 (fld w 25 2)))
  | 4 => zeroed [fld w 27 5] (.fsqrt (.ofNat 7 (fld w 11 7)) (.ofNat 7 (fld w 18 7)) (.ofNat 2 (fld w 25 2)))
  | 5 => zeroed [fld w 27 5] (.fsinpi (.ofNat 7 (fld w 11 7)) (.ofNat 7 (fld w 18 7)) (.ofNat 2 (fld w 25 2)))
  | 6 => zeroed [fld w 27 5] (.fcospi (.ofNat 7 (fld w 11 7)) (.ofNat 7 (fld w 18 7)) (.ofNat 2 (fld w 25 2)))
  | 7 => zeroed [fld w 27 5] (.ftanh (.ofNat 7 (fld w 11 7)) (.ofNat 7 (fld w 18 7)) (.ofNat 2 (fld w 25 2)))
  | 8 => zeroed [fld w 27 5] (.fsigm (.ofNat 7 (fld w 11 7)) (.ofNat 7 (fld w 18 7)) (.ofNat 2 (fld w 25 2)))
  | 9 => zeroed [fld w 27 5] (.fgelu (.ofNat 7 (fld w 11 7)) (.ofNat 7 (fld w 18 7)) (.ofNat 2 (fld w 25 2)))
  | 10 => zeroed [fld w 27 5] (.ferf (.ofNat 7 (fld w 11 7)) (.ofNat 7 (fld w 18 7)) (.ofNat 2 (fld w 25 2)))
  | _ => .error (.illegal 1)

/-- Major 0x18 (R30). -/
noncomputable def decodeMaj18 (w : Nat) : Except DecodeError Instr :=
  match fld w 7 4 with
  | 0 => .ok (.shfli (.ofNat 7 (fld w 11 7)) (.ofNat 7 (fld w 18 7)) (.ofNat 7 (fld w 25 7)))
  | 1 => .ok (.shflu (.ofNat 7 (fld w 11 7)) (.ofNat 7 (fld w 18 7)) (.ofNat 7 (fld w 25 7)))
  | 2 => .ok (.shfld (.ofNat 7 (fld w 11 7)) (.ofNat 7 (fld w 18 7)) (.ofNat 7 (fld w 25 7)))
  | 3 => .ok (.shflx (.ofNat 7 (fld w 11 7)) (.ofNat 7 (fld w 18 7)) (.ofNat 7 (fld w 25 7)))
  | 4 => zeroed [fld w 25 7] (.voteany (.ofNat 7 (fld w 11 7)) (.ofNat 7 (fld w 18 7)))
  | 5 => zeroed [fld w 25 7] (.voteall (.ofNat 7 (fld w 11 7)) (.ofNat 7 (fld w 18 7)))
  | 6 => .ok (.ballot (.ofNat 7 (fld w 11 7)) (.ofNat 7 (fld w 18 7)) (.ofNat 7 (fld w 25 7)))
  | 7 => zeroed [fld w 25 7] (.redadd (.ofNat 7 (fld w 11 7)) (.ofNat 7 (fld w 18 7)))
  | 8 => zeroed [fld w 25 7] (.redmin (.ofNat 7 (fld w 11 7)) (.ofNat 7 (fld w 18 7)))
  | 9 => zeroed [fld w 25 7] (.redmax (.ofNat 7 (fld w 11 7)) (.ofNat 7 (fld w 18 7)))
  | 10 => zeroed [fld w 25 7] (.redand (.ofNat 7 (fld w 11 7)) (.ofNat 7 (fld w 18 7)))
  | 11 => zeroed [fld w 25 7] (.redor (.ofNat 7 (fld w 11 7)) (.ofNat 7 (fld w 18 7)))
  | 12 => zeroed [fld w 25 7] (.redxor (.ofNat 7 (fld w 11 7)) (.ofNat 7 (fld w 18 7)))
  | 13 => zeroed [fld w 25 7] (.scanadd (.ofNat 7 (fld w 11 7)) (.ofNat 7 (fld w 18 7)))
  | 14 => zeroed [fld w 30 2] (.bcast (.ofNat 7 (fld w 11 7)) (.ofNat 7 (fld w 18 7)) (.ofNat 5 (fld w 25 5)))
  | 15 => zeroed [fld w 25 7] (.matchLanes (.ofNat 7 (fld w 11 7)) (.ofNat 7 (fld w 18 7)))
  | _ => .error (.illegal 1)

/-- Major 0x19 (R30). -/
noncomputable def decodeMaj19 (w : Nat) : Except DecodeError Instr :=
  match fld w 7 4 with
  | 0 => zeroed [fld w 25 7] (.redfadd (.ofNat 7 (fld w 11 7)) (.ofNat 7 (fld w 18 7)))
  | 1 => zeroed [fld w 25 7] (.redfmax (.ofNat 7 (fld w 11 7)) (.ofNat 7 (fld w 18 7)))
  | 2 => zeroed [fld w 25 7] (.redfmin (.ofNat 7 (fld w 11 7)) (.ofNat 7 (fld w 18 7)))
  | 3 => zeroed [fld w 25 7] (.scanfadd (.ofNat 7 (fld w 11 7)) (.ofNat 7 (fld w 18 7)))
  | 4 => zeroed [fld w 18 14] (.vlane (.ofNat 7 (fld w 11 7)))
  | 5 => zeroed [fld w 18 14] (.vthr (.ofNat 7 (fld w 11 7)))
  | 6 => .ok (.vsel (.ofNat 7 (fld w 11 7)) (.ofNat 7 (fld w 18 7)) (.ofNat 7 (fld w 25 7)))
  | 7 => zeroed [fld w 18 7] (.vmovs (.ofNat 7 (fld w 11 7)) (.ofNat 6 (fld w 25 6)) (.ofNat 1 (fld w 31 1)))
  | _ => .error (.illegal 1)

/-- Major 0x1A (R30). -/
noncomputable def decodeMaj1A (w : Nat) : Except DecodeError Instr :=
  match fld w 7 4 with
  | 0 => .ok (.vaddScalar (.ofNat 7 (fld w 11 7)) (.ofNat 7 (fld w 18 7)) (.ofNat 6 (fld w 25 6)) (.ofNat 1 (fld w 31 1)))
  | 1 => .ok (.vsubScalar (.ofNat 7 (fld w 11 7)) (.ofNat 7 (fld w 18 7)) (.ofNat 6 (fld w 25 6)) (.ofNat 1 (fld w 31 1)))
  | 2 => .ok (.vmulScalar (.ofNat 7 (fld w 11 7)) (.ofNat 7 (fld w 18 7)) (.ofNat 6 (fld w 25 6)) (.ofNat 1 (fld w 31 1)))
  | 3 => .ok (.vmulhScalar (.ofNat 7 (fld w 11 7)) (.ofNat 7 (fld w 18 7)) (.ofNat 6 (fld w 25 6)) (.ofNat 1 (fld w 31 1)))
  | 4 => .ok (.vmulhnScalar (.ofNat 7 (fld w 11 7)) (.ofNat 7 (fld w 18 7)) (.ofNat 6 (fld w 25 6)) (.ofNat 1 (fld w 31 1)))
  | 5 => .ok (.vmadScalar (.ofNat 7 (fld w 11 7)) (.ofNat 7 (fld w 18 7)) (.ofNat 6 (fld w 25 6)) (.ofNat 1 (fld w 31 1)))
  | 6 => .ok (.vminScalar (.ofNat 7 (fld w 11 7)) (.ofNat 7 (fld w 18 7)) (.ofNat 6 (fld w 25 6)) (.ofNat 1 (fld w 31 1)))
  | 7 => .ok (.vmaxScalar (.ofNat 7 (fld w 11 7)) (.ofNat 7 (fld w 18 7)) (.ofNat 6 (fld w 25 6)) (.ofNat 1 (fld w 31 1)))
  | 8 => .ok (.vminnScalar (.ofNat 7 (fld w 11 7)) (.ofNat 7 (fld w 18 7)) (.ofNat 6 (fld w 25 6)) (.ofNat 1 (fld w 31 1)))
  | 9 => .ok (.vmaxnScalar (.ofNat 7 (fld w 11 7)) (.ofNat 7 (fld w 18 7)) (.ofNat 6 (fld w 25 6)) (.ofNat 1 (fld w 31 1)))
  | 10 => .ok (.vandScalar (.ofNat 7 (fld w 11 7)) (.ofNat 7 (fld w 18 7)) (.ofNat 6 (fld w 25 6)) (.ofNat 1 (fld w 31 1)))
  | 11 => .ok (.vorScalar (.ofNat 7 (fld w 11 7)) (.ofNat 7 (fld w 18 7)) (.ofNat 6 (fld w 25 6)) (.ofNat 1 (fld w 31 1)))
  | 12 => .ok (.vxorScalar (.ofNat 7 (fld w 11 7)) (.ofNat 7 (fld w 18 7)) (.ofNat 6 (fld w 25 6)) (.ofNat 1 (fld w 31 1)))
  | 13 => .ok (.vandnScalar (.ofNat 7 (fld w 11 7)) (.ofNat 7 (fld w 18 7)) (.ofNat 6 (fld w 25 6)) (.ofNat 1 (fld w 31 1)))
  | 14 => .ok (.vshlScalar (.ofNat 7 (fld w 11 7)) (.ofNat 7 (fld w 18 7)) (.ofNat 6 (fld w 25 6)) (.ofNat 1 (fld w 31 1)))
  | 15 => .ok (.vshrScalar (.ofNat 7 (fld w 11 7)) (.ofNat 7 (fld w 18 7)) (.ofNat 6 (fld w 25 6)) (.ofNat 1 (fld w 31 1)))
  | _ => .error (.illegal 1)

/-- Major 0x1B (R30). -/
noncomputable def decodeMaj1B (w : Nat) : Except DecodeError Instr :=
  match fld w 7 4 with
  | 0 => .ok (.faddScalar (.ofNat 7 (fld w 11 7)) (.ofNat 7 (fld w 18 7)) (.ofNat 6 (fld w 25 6)) (.ofNat 1 (fld w 31 1)))
  | 1 => .ok (.fsubScalar (.ofNat 7 (fld w 11 7)) (.ofNat 7 (fld w 18 7)) (.ofNat 6 (fld w 25 6)) (.ofNat 1 (fld w 31 1)))
  | 2 => .ok (.fmulScalar (.ofNat 7 (fld w 11 7)) (.ofNat 7 (fld w 18 7)) (.ofNat 6 (fld w 25 6)) (.ofNat 1 (fld w 31 1)))
  | 3 => .ok (.ffmaScalar (.ofNat 7 (fld w 11 7)) (.ofNat 7 (fld w 18 7)) (.ofNat 6 (fld w 25 6)) (.ofNat 1 (fld w 31 1)))
  | 4 => .ok (.fminScalar (.ofNat 7 (fld w 11 7)) (.ofNat 7 (fld w 18 7)) (.ofNat 6 (fld w 25 6)) (.ofNat 1 (fld w 31 1)))
  | 5 => .ok (.fmaxScalar (.ofNat 7 (fld w 11 7)) (.ofNat 7 (fld w 18 7)) (.ofNat 6 (fld w 25 6)) (.ofNat 1 (fld w 31 1)))
  | 8 => .ok (.fscaleScalar (.ofNat 7 (fld w 11 7)) (.ofNat 7 (fld w 18 7)) (.ofNat 6 (fld w 25 6)) (.ofNat 1 (fld w 31 1)))
  | 11 => .ok (.fcopysScalar (.ofNat 7 (fld w 11 7)) (.ofNat 7 (fld w 18 7)) (.ofNat 6 (fld w 25 6)) (.ofNat 1 (fld w 31 1)))
  | _ => .error (.illegal 1)

/-- Major 0x1C (R30). -/
noncomputable def decodeMaj1C (w : Nat) : Except DecodeError Instr :=
  match fld w 7 4 with
  | 0 => .ok (.vaddi (.ofNat 7 (fld w 11 7)) (.ofNat 7 (fld w 18 7)) (.ofNat 7 (fld w 25 7)))
  | 1 => .ok (.vandi (.ofNat 7 (fld w 11 7)) (.ofNat 7 (fld w 18 7)) (.ofNat 7 (fld w 25 7)))
  | 2 => .ok (.vori (.ofNat 7 (fld w 11 7)) (.ofNat 7 (fld w 18 7)) (.ofNat 7 (fld w 25 7)))
  | 3 => .ok (.vxori (.ofNat 7 (fld w 11 7)) (.ofNat 7 (fld w 18 7)) (.ofNat 7 (fld w 25 7)))
  | 4 => .ok (.vshli (.ofNat 7 (fld w 11 7)) (.ofNat 7 (fld w 18 7)) (.ofNat 7 (fld w 25 7)))
  | 5 => .ok (.vshri (.ofNat 7 (fld w 11 7)) (.ofNat 7 (fld w 18 7)) (.ofNat 7 (fld w 25 7)))
  | 6 => .ok (.vsrai (.ofNat 7 (fld w 11 7)) (.ofNat 7 (fld w 18 7)) (.ofNat 7 (fld w 25 7)))
  | 7 => .ok (.vmuli (.ofNat 7 (fld w 11 7)) (.ofNat 7 (fld w 18 7)) (.ofNat 7 (fld w 25 7)))
  | _ => .error (.illegal 1)

/-- Major 0x1D (R30). -/
noncomputable def decodeMaj1D (w : Nat) : Except DecodeError Instr :=
  match fld w 7 4 with
  | 0 => .ok (.vli (.ofNat 7 (fld w 11 7)) (.ofNat 14 (fld w 18 14)))
  | 1 => .ok (.vlis (.ofNat 7 (fld w 11 7)) (.ofNat 14 (fld w 18 14)))
  | _ => .error (.illegal 1)

/-- Major 0x1E (R30). -/
noncomputable def decodeMaj1E (w : Nat) : Except DecodeError Instr :=
  match fld w 7 4 with
  | 0 => zeroed [fld w 31 1] (.bdecZ (.ofNat 7 (fld w 11 7)) (.ofNat 7 (fld w 18 7)) (.ofNat 6 (fld w 25 6)))
  | 1 => zeroed [fld w 31 1] (.bdecS (.ofNat 7 (fld w 11 7)) (.ofNat 7 (fld w 18 7)) (.ofNat 6 (fld w 25 6)))
  | 2 => zeroed [fld w 31 1] (.lutxB32 (.ofNat 7 (fld w 11 7)) (.ofNat 7 (fld w 18 7)) (.ofNat 6 (fld w 25 6)))
  | 3 => zeroed [fld w 31 1] (.lutxB16 (.ofNat 7 (fld w 11 7)) (.ofNat 7 (fld w 18 7)) (.ofNat 6 (fld w 25 6)))
  | _ => .error (.illegal 1)

/-- Major 0x1F (R30). -/
noncomputable def decodeMaj1F (w : Nat) : Except DecodeError Instr :=
  match fld w 7 4 with
  | 0 => zeroed [fld w 20 12] (.qpop (.ofNat 7 (fld w 11 7)) (.ofNat 2 (fld w 18 2)))
  | 1 => zeroed [fld w 20 12] (.qpeek (.ofNat 7 (fld w 11 7)) (.ofNat 2 (fld w 18 2)))
  | 2 => zeroed [fld w 13 5, fld w 25 7] (.qpush (.ofNat 2 (fld w 11 2)) (.ofNat 7 (fld w 18 7)))
  | 3 => zeroed [fld w 25 7] (.vkill (.ofNat 7 (fld w 11 7)) (.ofNat 7 (fld w 18 7)))
  | 4 => zeroed [fld w 25 7] (.vmov (.ofNat 7 (fld w 11 7)) (.ofNat 7 (fld w 18 7)))
  | _ => .error (.illegal 1)

/-- Major 0x20 (R30). -/
noncomputable def decodeMaj20 (w : Nat) : Except DecodeError Instr :=
  match fld w 7 4 with
  | 0 => .ok (.ldb (.ofNat 7 (fld w 11 7)) (.ofNat 6 (fld w 18 6)) (.ofNat 7 (fld w 24 7)) (.ofNat 1 (fld w 31 1)))
  | 1 => .ok (.ldbs (.ofNat 7 (fld w 11 7)) (.ofNat 6 (fld w 18 6)) (.ofNat 7 (fld w 24 7)) (.ofNat 1 (fld w 31 1)))
  | 2 => .ok (.ldh (.ofNat 7 (fld w 11 7)) (.ofNat 6 (fld w 18 6)) (.ofNat 7 (fld w 24 7)) (.ofNat 1 (fld w 31 1)))
  | 3 => .ok (.ldhs (.ofNat 7 (fld w 11 7)) (.ofNat 6 (fld w 18 6)) (.ofNat 7 (fld w 24 7)) (.ofNat 1 (fld w 31 1)))
  | 4 => .ok (.ldw (.ofNat 7 (fld w 11 7)) (.ofNat 6 (fld w 18 6)) (.ofNat 7 (fld w 24 7)) (.ofNat 1 (fld w 31 1)))
  | 5 => .ok (.ldd (.ofNat 7 (fld w 11 7)) (.ofNat 6 (fld w 18 6)) (.ofNat 7 (fld w 24 7)) (.ofNat 1 (fld w 31 1)))
  | 6 => .ok (.ldq (.ofNat 7 (fld w 11 7)) (.ofNat 6 (fld w 18 6)) (.ofNat 7 (fld w 24 7)) (.ofNat 1 (fld w 31 1)))
  | 7 => zeroed [fld w 31 1] (.ldwa (.ofNat 7 (fld w 11 7)) (.ofNat 6 (fld w 18 6)) (.ofNat 7 (fld w 24 7)))
  | 8 => zeroed [fld w 31 1] (.ldda (.ofNat 7 (fld w 11 7)) (.ofNat 6 (fld w 18 6)) (.ofNat 7 (fld w 24 7)))
  | _ => .error (.illegal 1)

/-- Major 0x21 (R30). -/
noncomputable def decodeMaj21 (w : Nat) : Except DecodeError Instr :=
  match fld w 7 4 with
  | 0 => zeroed [fld w 31 1] (.stb (.ofNat 7 (fld w 11 7)) (.ofNat 6 (fld w 18 6)) (.ofNat 7 (fld w 24 7)))
  | 1 => zeroed [fld w 31 1] (.sth (.ofNat 7 (fld w 11 7)) (.ofNat 6 (fld w 18 6)) (.ofNat 7 (fld w 24 7)))
  | 2 => zeroed [fld w 31 1] (.stw (.ofNat 7 (fld w 11 7)) (.ofNat 6 (fld w 18 6)) (.ofNat 7 (fld w 24 7)))
  | 3 => zeroed [fld w 31 1] (.std (.ofNat 7 (fld w 11 7)) (.ofNat 6 (fld w 18 6)) (.ofNat 7 (fld w 24 7)))
  | 4 => zeroed [fld w 31 1] (.stq (.ofNat 7 (fld w 11 7)) (.ofNat 6 (fld w 18 6)) (.ofNat 7 (fld w 24 7)))
  | 5 => zeroed [fld w 31 1] (.stwl (.ofNat 7 (fld w 11 7)) (.ofNat 6 (fld w 18 6)) (.ofNat 7 (fld w 24 7)))
  | 6 => zeroed [fld w 31 1] (.stdl (.ofNat 7 (fld w 11 7)) (.ofNat 6 (fld w 18 6)) (.ofNat 7 (fld w 24 7)))
  | _ => .error (.illegal 1)

/-- Major 0x22 (R30). -/
noncomputable def decodeMaj22 (w : Nat) : Except DecodeError Instr :=
  match fld w 7 4 with
  | 0 => zeroed [fld w 31 1] (.ldsb (.ofNat 7 (fld w 11 7)) (.ofNat 6 (fld w 18 6)) (.ofNat 7 (fld w 24 7)))
  | 1 => zeroed [fld w 31 1] (.ldsbs (.ofNat 7 (fld w 11 7)) (.ofNat 6 (fld w 18 6)) (.ofNat 7 (fld w 24 7)))
  | 2 => zeroed [fld w 31 1] (.ldsh (.ofNat 7 (fld w 11 7)) (.ofNat 6 (fld w 18 6)) (.ofNat 7 (fld w 24 7)))
  | 3 => zeroed [fld w 31 1] (.ldshs (.ofNat 7 (fld w 11 7)) (.ofNat 6 (fld w 18 6)) (.ofNat 7 (fld w 24 7)))
  | 4 => zeroed [fld w 31 1] (.ldsw (.ofNat 7 (fld w 11 7)) (.ofNat 6 (fld w 18 6)) (.ofNat 7 (fld w 24 7)))
  | 5 => zeroed [fld w 31 1] (.ldsd (.ofNat 7 (fld w 11 7)) (.ofNat 6 (fld w 18 6)) (.ofNat 7 (fld w 24 7)))
  | 6 => zeroed [fld w 31 1] (.ldsq (.ofNat 7 (fld w 11 7)) (.ofNat 6 (fld w 18 6)) (.ofNat 7 (fld w 24 7)))
  | 7 => zeroed [fld w 31 1] (.stsb (.ofNat 7 (fld w 11 7)) (.ofNat 6 (fld w 18 6)) (.ofNat 7 (fld w 24 7)))
  | 8 => zeroed [fld w 31 1] (.stsh (.ofNat 7 (fld w 11 7)) (.ofNat 6 (fld w 18 6)) (.ofNat 7 (fld w 24 7)))
  | 9 => zeroed [fld w 31 1] (.stsw (.ofNat 7 (fld w 11 7)) (.ofNat 6 (fld w 18 6)) (.ofNat 7 (fld w 24 7)))
  | 10 => zeroed [fld w 31 1] (.stsd (.ofNat 7 (fld w 11 7)) (.ofNat 6 (fld w 18 6)) (.ofNat 7 (fld w 24 7)))
  | 11 => zeroed [fld w 31 1] (.stsq (.ofNat 7 (fld w 11 7)) (.ofNat 6 (fld w 18 6)) (.ofNat 7 (fld w 24 7)))
  | _ => .error (.illegal 1)

/-- Major 0x23 (R30). -/
noncomputable def decodeMaj23 (w : Nat) : Except DecodeError Instr :=
  match fld w 7 4 with
  | 0 => zeroed [fld w 31 1] (.aadd (.ofNat 7 (fld w 11 7)) (.ofNat 6 (fld w 18 6)) (.ofNat 7 (fld w 24 7)))
  | 1 => zeroed [fld w 31 1] (.amin (.ofNat 7 (fld w 11 7)) (.ofNat 6 (fld w 18 6)) (.ofNat 7 (fld w 24 7)))
  | 2 => zeroed [fld w 31 1] (.amax (.ofNat 7 (fld w 11 7)) (.ofNat 6 (fld w 18 6)) (.ofNat 7 (fld w 24 7)))
  | 3 => zeroed [fld w 31 1] (.aminn (.ofNat 7 (fld w 11 7)) (.ofNat 6 (fld w 18 6)) (.ofNat 7 (fld w 24 7)))
  | 4 => zeroed [fld w 31 1] (.amaxn (.ofNat 7 (fld w 11 7)) (.ofNat 6 (fld w 18 6)) (.ofNat 7 (fld w 24 7)))
  | 5 => zeroed [fld w 31 1] (.aand (.ofNat 7 (fld w 11 7)) (.ofNat 6 (fld w 18 6)) (.ofNat 7 (fld w 24 7)))
  | 6 => zeroed [fld w 31 1] (.aor (.ofNat 7 (fld w 11 7)) (.ofNat 6 (fld w 18 6)) (.ofNat 7 (fld w 24 7)))
  | 7 => zeroed [fld w 31 1] (.axor (.ofNat 7 (fld w 11 7)) (.ofNat 6 (fld w 18 6)) (.ofNat 7 (fld w 24 7)))
  | 8 => zeroed [fld w 31 1] (.axch (.ofNat 7 (fld w 11 7)) (.ofNat 6 (fld w 18 6)) (.ofNat 7 (fld w 24 7)))
  | 9 => zeroed [fld w 31 1] (.acas (.ofNat 7 (fld w 11 7)) (.ofNat 6 (fld w 18 6)) (.ofNat 7 (fld w 24 7)))
  | 10 => zeroed [fld w 31 1] (.afadd (.ofNat 7 (fld w 11 7)) (.ofNat 6 (fld w 18 6)) (.ofNat 7 (fld w 24 7)))
  | 11 => zeroed [fld w 31 1] (.afaddp (.ofNat 7 (fld w 11 7)) (.ofNat 6 (fld w 18 6)) (.ofNat 7 (fld w 24 7)))
  | 12 => zeroed [fld w 31 1] (.ainc (.ofNat 7 (fld w 11 7)) (.ofNat 6 (fld w 18 6)) (.ofNat 7 (fld w 24 7)))
  | 13 => zeroed [fld w 31 1] (.adec (.ofNat 7 (fld w 11 7)) (.ofNat 6 (fld w 18 6)) (.ofNat 7 (fld w 24 7)))
  | _ => .error (.illegal 1)

/-- Major 0x24 (R30). -/
noncomputable def decodeMaj24 (w : Nat) : Except DecodeError Instr :=
  match fld w 7 4 with
  | 0 => zeroed [fld w 31 1] (.gadd (.ofNat 7 (fld w 11 7)) (.ofNat 6 (fld w 18 6)) (.ofNat 7 (fld w 24 7)))
  | 1 => zeroed [fld w 31 1] (.gmin (.ofNat 7 (fld w 11 7)) (.ofNat 6 (fld w 18 6)) (.ofNat 7 (fld w 24 7)))
  | 2 => zeroed [fld w 31 1] (.gmax (.ofNat 7 (fld w 11 7)) (.ofNat 6 (fld w 18 6)) (.ofNat 7 (fld w 24 7)))
  | 3 => zeroed [fld w 31 1] (.gminn (.ofNat 7 (fld w 11 7)) (.ofNat 6 (fld w 18 6)) (.ofNat 7 (fld w 24 7)))
  | 4 => zeroed [fld w 31 1] (.gmaxn (.ofNat 7 (fld w 11 7)) (.ofNat 6 (fld w 18 6)) (.ofNat 7 (fld w 24 7)))
  | 5 => zeroed [fld w 31 1] (.gand (.ofNat 7 (fld w 11 7)) (.ofNat 6 (fld w 18 6)) (.ofNat 7 (fld w 24 7)))
  | 6 => zeroed [fld w 31 1] (.gor (.ofNat 7 (fld w 11 7)) (.ofNat 6 (fld w 18 6)) (.ofNat 7 (fld w 24 7)))
  | 7 => zeroed [fld w 31 1] (.gxor (.ofNat 7 (fld w 11 7)) (.ofNat 6 (fld w 18 6)) (.ofNat 7 (fld w 24 7)))
  | 8 => zeroed [fld w 31 1] (.gfadd (.ofNat 7 (fld w 11 7)) (.ofNat 6 (fld w 18 6)) (.ofNat 7 (fld w 24 7)))
  | 9 => zeroed [fld w 31 1] (.gfaddp (.ofNat 7 (fld w 11 7)) (.ofNat 6 (fld w 18 6)) (.ofNat 7 (fld w 24 7)))
  | _ => .error (.illegal 1)

/-- Major 0x25 (R30). -/
noncomputable def decodeMaj25 (w : Nat) : Except DecodeError Instr :=
  match fld w 7 4 with
  | 0 => zeroed [fld w 31 1] (.aaddS (.ofNat 7 (fld w 11 7)) (.ofNat 6 (fld w 18 6)) (.ofNat 7 (fld w 24 7)))
  | 1 => zeroed [fld w 31 1] (.aminS (.ofNat 7 (fld w 11 7)) (.ofNat 6 (fld w 18 6)) (.ofNat 7 (fld w 24 7)))
  | 2 => zeroed [fld w 31 1] (.amaxS (.ofNat 7 (fld w 11 7)) (.ofNat 6 (fld w 18 6)) (.ofNat 7 (fld w 24 7)))
  | 3 => zeroed [fld w 31 1] (.aminnS (.ofNat 7 (fld w 11 7)) (.ofNat 6 (fld w 18 6)) (.ofNat 7 (fld w 24 7)))
  | 4 => zeroed [fld w 31 1] (.amaxnS (.ofNat 7 (fld w 11 7)) (.ofNat 6 (fld w 18 6)) (.ofNat 7 (fld w 24 7)))
  | 5 => zeroed [fld w 31 1] (.aandS (.ofNat 7 (fld w 11 7)) (.ofNat 6 (fld w 18 6)) (.ofNat 7 (fld w 24 7)))
  | 6 => zeroed [fld w 31 1] (.aorS (.ofNat 7 (fld w 11 7)) (.ofNat 6 (fld w 18 6)) (.ofNat 7 (fld w 24 7)))
  | 7 => zeroed [fld w 31 1] (.axorS (.ofNat 7 (fld w 11 7)) (.ofNat 6 (fld w 18 6)) (.ofNat 7 (fld w 24 7)))
  | 8 => zeroed [fld w 31 1] (.axchS (.ofNat 7 (fld w 11 7)) (.ofNat 6 (fld w 18 6)) (.ofNat 7 (fld w 24 7)))
  | 9 => zeroed [fld w 31 1] (.acasS (.ofNat 7 (fld w 11 7)) (.ofNat 6 (fld w 18 6)) (.ofNat 7 (fld w 24 7)))
  | 10 => zeroed [fld w 31 1] (.afaddS (.ofNat 7 (fld w 11 7)) (.ofNat 6 (fld w 18 6)) (.ofNat 7 (fld w 24 7)))
  | 11 => zeroed [fld w 31 1] (.afaddpS (.ofNat 7 (fld w 11 7)) (.ofNat 6 (fld w 18 6)) (.ofNat 7 (fld w 24 7)))
  | 12 => zeroed [fld w 31 1] (.aincS (.ofNat 7 (fld w 11 7)) (.ofNat 6 (fld w 18 6)) (.ofNat 7 (fld w 24 7)))
  | 13 => zeroed [fld w 31 1] (.adecS (.ofNat 7 (fld w 11 7)) (.ofNat 6 (fld w 18 6)) (.ofNat 7 (fld w 24 7)))
  | _ => .error (.illegal 1)

/-- Major 0x26 (R30). -/
noncomputable def decodeMaj26 (w : Nat) : Except DecodeError Instr :=
  match fld w 7 4 with
  | 0 => zeroed [fld w 31 1] (.ldpw (.ofNat 7 (fld w 11 7)) (.ofNat 6 (fld w 18 6)) (.ofNat 7 (fld w 24 7)))
  | 1 => zeroed [fld w 31 1] (.stpw (.ofNat 7 (fld w 11 7)) (.ofNat 6 (fld w 18 6)) (.ofNat 7 (fld w 24 7)))
  | 2 => zeroed [fld w 31 1] (.apadd (.ofNat 7 (fld w 11 7)) (.ofNat 6 (fld w 18 6)) (.ofNat 7 (fld w 24 7)))
  | 3 => zeroed [fld w 31 1] (.ldxw (.ofNat 7 (fld w 11 7)) (.ofNat 6 (fld w 18 6)) (.ofNat 7 (fld w 24 7)))
  | 4 => zeroed [fld w 31 1] (.stxw (.ofNat 7 (fld w 11 7)) (.ofNat 6 (fld w 18 6)) (.ofNat 7 (fld w 24 7)))
  | 5 => zeroed [fld w 31 1] (.nxadd (.ofNat 7 (fld w 11 7)) (.ofNat 6 (fld w 18 6)) (.ofNat 7 (fld w 24 7)))
  | 6 => zeroed [fld w 31 1] (.nxfadd (.ofNat 7 (fld w 11 7)) (.ofNat 6 (fld w 18 6)) (.ofNat 7 (fld w 24 7)))
  | 7 => zeroed [fld w 31 1] (.ldxd (.ofNat 7 (fld w 11 7)) (.ofNat 6 (fld w 18 6)) (.ofNat 7 (fld w 24 7)))
  | 8 => zeroed [fld w 31 1] (.stxd (.ofNat 7 (fld w 11 7)) (.ofNat 6 (fld w 18 6)) (.ofNat 7 (fld w 24 7)))
  | _ => .error (.illegal 1)

/-- Major 0x27 (R30). -/
noncomputable def decodeMaj27 (w : Nat) : Except DecodeError Instr :=
  match fld w 7 4 with
  | 0 => zeroed [fld w 11 12, fld w 26 6] (.fence (.ofNat 3 (fld w 23 3)))
  | 1 => zeroed [fld w 11 6] (.pref (.ofNat 6 (fld w 17 6)) (.ofNat 9 (fld w 23 9)))
  | 2 => zeroed [fld w 11 6, fld w 23 9] (.invl1 (.ofNat 6 (fld w 17 6)))
  | _ => .error (.illegal 1)

/-- Major 0x28 (R30). -/
noncomputable def decodeMaj28 (w : Nat) : Except DecodeError Instr :=
  .ok (.waitc (.ofNat 5 (fld w 7 5)) (.ofNat 5 (fld w 12 5)) (.ofNat 5 (fld w 17 5)) (.ofNat 5 (fld w 22 5)) (.ofNat 5 (fld w 27 5)))

/-- Major 0x29 (R30). -/
noncomputable def decodeMaj29 (w : Nat) : Except DecodeError Instr :=
  match fld w 7 4 with
  | 0 => zeroed [fld w 29 3] (.waitr (.ofNat 6 (fld w 11 6)) (.ofNat 6 (fld w 17 6)) (.ofNat 6 (fld w 23 6)))
  | 1 => zeroed [fld w 17 6] (.bara (.ofNat 6 (fld w 11 6)) (.ofNat 9 (fld w 23 9)))
  | 2 => .ok (.barw (.ofNat 6 (fld w 11 6)) (.ofNat 6 (fld w 17 6)) (.ofNat 9 (fld w 23 9)))
  | 3 => zeroed [fld w 17 6] (.bart (.ofNat 6 (fld w 11 6)) (.ofNat 9 (fld w 23 9)))
  | 4 => zeroed [fld w 17 6] (.bjoin (.ofNat 6 (fld w 11 6)) (.ofNat 9 (fld w 23 9)))
  | 5 => zeroed [fld w 17 6] (.bleave (.ofNat 6 (fld w 11 6)) (.ofNat 9 (fld w 23 9)))
  | 6 => .ok (.binit (.ofNat 6 (fld w 11 6)) (.ofNat 6 (fld w 17 6)) (.ofNat 9 (fld w 23 9)))
  | 7 => zeroed [fld w 11 12] (.xacq (.ofNat 9 (fld w 23 9)))
  | 8 => zeroed [fld w 17 6] (.xtry (.ofNat 6 (fld w 11 6)) (.ofNat 9 (fld w 23 9)))
  | 9 => zeroed [fld w 11 12] (.xrel (.ofNat 9 (fld w 23 9)))
  | _ => .error (.illegal 1)

/-- Major 0x30 (R30). -/
noncomputable def decodeMaj30 (w : Nat) : Except DecodeError Instr :=
  match fld w 7 4 with
  | 0 => .ok (.cpush (.ofNat 6 (fld w 11 6)) (.ofNat 6 (fld w 17 6)) (.ofNat 6 (fld w 23 6)) (.ofNat 2 (fld w 29 2)) (.ofNat 1 (fld w 31 1)))
  | 1 => .ok (.opost (.ofNat 6 (fld w 11 6)) (.ofNat 6 (fld w 17 6)) (.ofNat 6 (fld w 23 6)) (.ofNat 2 (fld w 29 2)) (.ofNat 1 (fld w 31 1)))
  | 2 => zeroed [fld w 17 6, fld w 29 3] (.cseq (.ofNat 6 (fld w 11 6)) (.ofNat 6 (fld w 23 6)))
  | 3 => zeroed [fld w 23 6] (.attn (.ofNat 6 (fld w 11 6)) (.ofNat 6 (fld w 17 6)) (.ofNat 2 (fld w 29 2)) (.ofNat 1 (fld w 31 1)))
  | _ => .error (.illegal 1)

/-- Major 0x31 (R30). -/
noncomputable def decodeMaj31 (w : Nat) : Except DecodeError Instr :=
  match fld w 7 4 with
  | 0 => zeroed [fld w 15 8, fld w 29 3] (.tdld (.ofNat 4 (fld w 11 4)) (.ofNat 6 (fld w 23 6)))
  | 1 => zeroed [fld w 11 4, fld w 19 4, fld w 29 3] (.tdst (.ofNat 4 (fld w 15 4)) (.ofNat 6 (fld w 23 6)))
  | 2 => zeroed [fld w 29 3] (.tdset (.ofNat 4 (fld w 11 4)) (.ofNat 4 (fld w 15 4)) (.ofNat 4 (fld w 19 4)) (.ofNat 6 (fld w 23 6)))
  | 3 => zeroed [fld w 19 10, fld w 31 1] (.tcpy (.ofNat 4 (fld w 11 4)) (.ofNat 4 (fld w 15 4)) (.ofNat 2 (fld w 29 2)))
  | 4 => zeroed [fld w 23 6, fld w 31 1] (.tcpyq (.ofNat 4 (fld w 11 4)) (.ofNat 4 (fld w 15 4)) (.ofNat 4 (fld w 19 4)) (.ofNat 2 (fld w 29 2)))
  | 5 => zeroed [fld w 19 10, fld w 31 1] (.tcpyx (.ofNat 4 (fld w 11 4)) (.ofNat 4 (fld w 15 4)) (.ofNat 2 (fld w 29 2)))
  | 6 => zeroed [fld w 19 4, fld w 29 3] (.tdoff (.ofNat 4 (fld w 11 4)) (.ofNat 4 (fld w 15 4)) (.ofNat 6 (fld w 23 6)))
  | _ => .error (.illegal 1)

/-- Major 0x32 (R30). -/
noncomputable def decodeMaj32 (w : Nat) : Except DecodeError Instr :=
  match fld w 7 4 with
  | 0 =>
    match fld w 23 9 with
      | 0 => .ok (.hreg (.ofNat 6 (fld w 11 6)) (.ofNat 6 (fld w 17 6)))
      | 1 => .ok (.hregFree (.ofNat 6 (fld w 11 6)) (.ofNat 6 (fld w 17 6)))
      | _ => .error (.illegal 3)
  | 1 => .ok (.hwait (.ofNat 6 (fld w 11 6)) (.ofNat 6 (fld w 17 6)) (.ofNat 9 (fld w 23 9)))
  | 2 => zeroed [fld w 11 12] (.hret (.ofNat 9 (fld w 23 9)))
  | 3 => zeroed [fld w 11 6, fld w 23 9] (.hseal (.ofNat 6 (fld w 17 6)))
  | 4 => zeroed [fld w 23 9] (.ostat (.ofNat 6 (fld w 11 6)) (.ofNat 6 (fld w 17 6)))
  | 5 => zeroed [fld w 23 9] (.ocancel (.ofNat 6 (fld w 11 6)) (.ofNat 6 (fld w 17 6)))
  | 6 => zeroed [fld w 23 9] (.rtreg (.ofNat 6 (fld w 11 6)) (.ofNat 6 (fld w 17 6)))
  | 7 => zeroed [fld w 23 9] (.rtfree (.ofNat 6 (fld w 11 6)) (.ofNat 6 (fld w 17 6)))
  | _ => .error (.illegal 1)

/-- Major 0x33 (R30). -/
noncomputable def decodeMaj33 (w : Nat) : Except DecodeError Instr :=
  match fld w 7 4 with
  | 0 => zeroed [fld w 11 7, fld w 25 7] (.hstage (.ofNat 7 (fld w 18 7)))
  | 1 => zeroed [fld w 18 14] (.hdrain (.ofNat 7 (fld w 11 7)))
  | _ => .error (.illegal 1)

/-- Major 0x34 (R30). -/
noncomputable def decodeMaj34 (w : Nat) : Except DecodeError Instr :=
  match fld w 7 4 with
  | 0 => zeroed [fld w 31 1] (.fold (.ofNat 4 (fld w 11 4)) (.ofNat 4 (fld w 15 4)) (.ofNat 4 (fld w 19 4)) (.ofNat 6 (fld w 23 6)) (.ofNat 2 (fld w 29 2)))
  | 1 => zeroed [fld w 31 1] (.scan (.ofNat 4 (fld w 11 4)) (.ofNat 4 (fld w 15 4)) (.ofNat 4 (fld w 19 4)) (.ofNat 6 (fld w 23 6)) (.ofNat 2 (fld w 29 2)))
  | 2 => zeroed [fld w 31 1] (.zip (.ofNat 4 (fld w 11 4)) (.ofNat 4 (fld w 15 4)) (.ofNat 4 (fld w 19 4)) (.ofNat 6 (fld w 23 6)) (.ofNat 2 (fld w 29 2)))
  | 3 => zeroed [fld w 31 1] (.outer (.ofNat 4 (fld w 11 4)) (.ofNat 4 (fld w 15 4)) (.ofNat 4 (fld w 19 4)) (.ofNat 6 (fld w 23 6)) (.ofNat 2 (fld w 29 2)))
  | _ => .error (.illegal 1)

/-- Major 0x35 (R30). -/
noncomputable def decodeMaj35 (w : Nat) : Except DecodeError Instr :=
  match fld w 7 4 with
  | 0 => zeroed [fld w 24 8] (.epsnap (.ofNat 6 (fld w 11 6)) (.ofNat 6 (fld w 17 6)) (.ofNat 1 (fld w 23 1)))
  | 1 => zeroed [fld w 23 9] (.eprest (.ofNat 6 (fld w 11 6)) (.ofNat 6 (fld w 17 6)))
  | 2 => zeroed [fld w 23 9] (.epcommit (.ofNat 6 (fld w 11 6)) (.ofNat 6 (fld w 17 6)))
  | 3 => zeroed [fld w 23 9] (.epmap (.ofNat 6 (fld w 11 6)) (.ofNat 6 (fld w 17 6)))
  | 4 => zeroed [fld w 24 8] (.kvslot (.ofNat 6 (fld w 11 6)) (.ofNat 6 (fld w 17 6)) (.ofNat 1 (fld w 23 1)))
  | 5 => zeroed [fld w 23 9] (.kvtent (.ofNat 6 (fld w 11 6)) (.ofNat 6 (fld w 17 6)))
  | 6 => zeroed [fld w 23 9] (.kvcommit (.ofNat 6 (fld w 11 6)) (.ofNat 6 (fld w 17 6)))
  | 7 => zeroed [fld w 23 9] (.kvroll (.ofNat 6 (fld w 11 6)) (.ofNat 6 (fld w 17 6)))
  | 8 => zeroed [fld w 23 9] (.kvfork (.ofNat 6 (fld w 11 6)) (.ofNat 6 (fld w 17 6)))
  | 9 => zeroed [fld w 23 9] (.kvlen (.ofNat 6 (fld w 11 6)) (.ofNat 6 (fld w 17 6)))
  | _ => .error (.illegal 1)

/-- Major 0x36 (R30). -/
noncomputable def decodeMaj36 (w : Nat) : Except DecodeError Instr :=
  match fld w 7 4 with
  | 0 => zeroed [fld w 19 4, fld w 31 1] (.coll (.ofNat 4 (fld w 11 4)) (.ofNat 4 (fld w 15 4)) (.ofNat 6 (fld w 23 6)) (.ofNat 2 (fld w 29 2)))
  | _ => .error (.illegal 1)

/-- Major 0x37 (R30). -/
noncomputable def decodeMaj37 (w : Nat) : Except DecodeError Instr :=
  match fld w 7 4 with
  | 0 => .ok (.abinit (.ofNat 6 (fld w 11 6)) (.ofNat 6 (fld w 17 6)) (.ofNat 9 (fld w 23 9)))
  | 1 => zeroed [fld w 23 9] (.abarr (.ofNat 6 (fld w 11 6)) (.ofNat 6 (fld w 17 6)))
  | 2 => zeroed [fld w 23 9] (.abwait (.ofNat 6 (fld w 11 6)) (.ofNat 6 (fld w 17 6)))
  | 3 => zeroed [fld w 23 9] (.abtest (.ofNat 6 (fld w 11 6)) (.ofNat 6 (fld w 17 6)))
  | 4 => zeroed [fld w 23 9] (.absig (.ofNat 6 (fld w 11 6)) (.ofNat 6 (fld w 17 6)))
  | _ => .error (.illegal 1)

/-- Major 0x38 (R30). -/
noncomputable def decodeMaj38 (w : Nat) : Except DecodeError Instr :=
  match fld w 7 4 with
  | 0 => zeroed [fld w 23 9] (.dawnld (.ofNat 6 (fld w 11 6)) (.ofNat 6 (fld w 17 6)))
  | 1 => zeroed [fld w 23 9] (.dawngo (.ofNat 6 (fld w 11 6)) (.ofNat 6 (fld w 17 6)))
  | 2 => zeroed [fld w 17 15] (.dawnstop (.ofNat 6 (fld w 11 6)))
  | 3 => zeroed [fld w 17 15] (.jcdeal (.ofNat 6 (fld w 11 6)))
  | _ => .error (.illegal 1)

/-- Major 0x3E (R30). -/
noncomputable def decodeMaj3E (w : Nat) : Except DecodeError Instr :=
  zeroed [fld w 24 8] (.pfx (.ofNat 3 (fld w 7 3)) (.ofNat 3 (fld w 10 3)) (.ofNat 1 (fld w 13 1)) (.ofNat 7 (fld w 14 7)) (.ofNat 2 (fld w 21 2)) (.ofNat 1 (fld w 23 1)))

/-- A 32-bit instruction word (R21, R30): its major selects the map; a reserved major is refused with WHY 0. -/
noncomputable def decode32 (w : Nat) : Except DecodeError Instr :=
  match fld w 1 6 with
  | 1 => decodeMaj01 w
  | 2 => decodeMaj02 w
  | 3 => decodeMaj03 w
  | 4 => decodeMaj04 w
  | 5 => decodeMaj05 w
  | 8 => decodeMaj08 w
  | 9 => decodeMaj09 w
  | 10 => decodeMaj0A w
  | 11 => decodeMaj0B w
  | 16 => decodeMaj10 w
  | 17 => decodeMaj11 w
  | 18 => decodeMaj12 w
  | 19 => decodeMaj13 w
  | 20 => decodeMaj14 w
  | 21 => decodeMaj15 w
  | 22 => decodeMaj16 w
  | 23 => decodeMaj17 w
  | 24 => decodeMaj18 w
  | 25 => decodeMaj19 w
  | 26 => decodeMaj1A w
  | 27 => decodeMaj1B w
  | 28 => decodeMaj1C w
  | 29 => decodeMaj1D w
  | 30 => decodeMaj1E w
  | 31 => decodeMaj1F w
  | 32 => decodeMaj20 w
  | 33 => decodeMaj21 w
  | 34 => decodeMaj22 w
  | 35 => decodeMaj23 w
  | 36 => decodeMaj24 w
  | 37 => decodeMaj25 w
  | 38 => decodeMaj26 w
  | 39 => decodeMaj27 w
  | 40 => decodeMaj28 w
  | 41 => decodeMaj29 w
  | 48 => decodeMaj30 w
  | 49 => decodeMaj31 w
  | 50 => decodeMaj32 w
  | 51 => decodeMaj33 w
  | 52 => decodeMaj34 w
  | 53 => decodeMaj35 w
  | 54 => decodeMaj36 w
  | 55 => decodeMaj37 w
  | 56 => decodeMaj38 w
  | 62 => decodeMaj3E w
  | _ => .error (.illegal 0)

/-- A 16-bit parcel whose bit 0 is clear (R16, R17): a compact lane operation, DICT or NOP16; any other SUB and
IDX is refused with WHY 9. -/
noncomputable def decode16 (w : Nat) : Except DecodeError Instr :=
  if fld w 1 1 = 0 then
    match fld w 2 4 with
    | 0 => .ok (.vmovCompact (.ofNat 5 (fld w 6 5)) (.ofNat 5 (fld w 11 5)))
    | 1 => .ok (.vaddCompact (.ofNat 5 (fld w 6 5)) (.ofNat 5 (fld w 11 5)))
    | 2 => .ok (.vsubCompact (.ofNat 5 (fld w 6 5)) (.ofNat 5 (fld w 11 5)))
    | 3 => .ok (.vandCompact (.ofNat 5 (fld w 6 5)) (.ofNat 5 (fld w 11 5)))
    | 4 => .ok (.vorCompact (.ofNat 5 (fld w 6 5)) (.ofNat 5 (fld w 11 5)))
    | 5 => .ok (.vxorCompact (.ofNat 5 (fld w 6 5)) (.ofNat 5 (fld w 11 5)))
    | 6 => .ok (.vshlCompact (.ofNat 5 (fld w 6 5)) (.ofNat 5 (fld w 11 5)))
    | 7 => .ok (.vshrCompact (.ofNat 5 (fld w 6 5)) (.ofNat 5 (fld w 11 5)))
    | 8 => .ok (.vminCompact (.ofNat 5 (fld w 6 5)) (.ofNat 5 (fld w 11 5)))
    | 9 => .ok (.vmaxCompact (.ofNat 5 (fld w 6 5)) (.ofNat 5 (fld w 11 5)))
    | 10 => .ok (.faddCompact (.ofNat 5 (fld w 6 5)) (.ofNat 5 (fld w 11 5)))
    | 11 => .ok (.fsubCompact (.ofNat 5 (fld w 6 5)) (.ofNat 5 (fld w 11 5)))
    | 12 => .ok (.fmulCompact (.ofNat 5 (fld w 6 5)) (.ofNat 5 (fld w 11 5)))
    | 13 => .ok (.fminCompact (.ofNat 5 (fld w 6 5)) (.ofNat 5 (fld w 11 5)))
    | 14 => .ok (.fmaxCompact (.ofNat 5 (fld w 6 5)) (.ofNat 5 (fld w 11 5)))
    | 15 => .ok (.vmulCompact (.ofNat 5 (fld w 6 5)) (.ofNat 5 (fld w 11 5)))
    | _ => .error (.illegal 9)
  else
    match fld w 12 4 with
    | 0 => .ok (.dict (.ofNat 10 (fld w 2 10)))
    | 1 => if fld w 2 10 = 0 then .ok .nop16 else .error (.illegal 9)
    | _ => .error (.illegal 9)

/-- The number of bytes of the instruction whose first parcel is given: bit 0 alone decides (R11). -/
def parcelLength (p : Nat) : Nat := if p % 2 = 1 then 4 else 2

/-- A word by its length: 16 bits when bit 0 is clear, else 32 (R11). -/
noncomputable def decodeWord (w : Nat) : Except DecodeError Instr :=
  if w % 2 = 0 then decode16 (w % 65536) else decode32 w

/-- The little-endian number of a list of bytes (R3, R11). -/
def leNat : List Byte → Nat
  | [] => 0
  | b :: bs => b.toNat + 256 * leNat bs

/-- `n` bytes of a number, the lowest first (R3, R11). -/
def leBytes : Nat → Nat → List Byte
  | 0, _ => []
  | n + 1, w => .ofNat 8 w :: leBytes n (w / 256)

/-- Decoding, total on any bytes: the instruction that starts at the first byte and the bytes after it. -/
noncomputable def decode (bs : List Byte) : Except DecodeError (Instr × List Byte) :=
  match bs with
  | b0 :: b1 :: rest =>
    if b0.toNat % 2 = 0 then (decode16 (leNat [b0, b1])).map (fun i => (i, rest))
    else match rest with
      | b2 :: b3 :: rest' => (decode32 (leNat [b0, b1, b2, b3])).map (fun i => (i, rest'))
      | _ => .error .short
  | _ => .error .short

/-- The instruction the decoder reads from an opcode-table word of `nbits` bits, laid out little-endian with zero
bytes above it. -/
noncomputable def decodeTableWord (nbits w : Nat) : Option Instr :=
  match decode (leBytes (max 4 (nbits / 8)) (w % 2 ^ nbits)) with
  | .ok (i, _) => some i
  | .error _ => none

/-- A word from its fixed bits and its fields, each given with the place of its lowest bit (R21). -/
def placeFields (fixed : Nat) : List (Nat × Nat) → Nat
  | [] => fixed
  | (lo, v) :: fs => 2 ^ lo * v + placeFields fixed fs

/-- A 32-bit word. -/
def word32 (fixed : Nat) (fs : List (Nat × Nat)) : Option (Nat × Nat) := some (32, placeFields fixed fs)
/-- A 16-bit word. -/
def word16 (fixed : Nat) (fs : List (Nat × Nat)) : Option (Nat × Nat) := some (16, placeFields fixed fs)

/-- The word of an instruction and its length in bits (R11-R30). The steps of other agents have no word. -/
def encodeWord : Instr → Option (Nat × Nat)
  | .sadd d a b => word32 0x00000003 [(11, d.toNat), (17, a.toNat), (23, b.toNat)]
  | .ssub d a b => word32 0x00000083 [(11, d.toNat), (17, a.toNat), (23, b.toNat)]
  | .smul d a b => word32 0x00000103 [(11, d.toNat), (17, a.toNat), (23, b.toNat)]
  | .smulh d a b => word32 0x00000183 [(11, d.toNat), (17, a.toNat), (23, b.toNat)]
  | .smulhn d a b => word32 0x00000203 [(11, d.toNat), (17, a.toNat), (23, b.toNat)]
  | .sdiv d a b => word32 0x00000283 [(11, d.toNat), (17, a.toNat), (23, b.toNat)]
  | .sdivn d a b => word32 0x00000303 [(11, d.toNat), (17, a.toNat), (23, b.toNat)]
  | .srem d a b => word32 0x00000383 [(11, d.toNat), (17, a.toNat), (23, b.toNat)]
  | .sremn d a b => word32 0x00000403 [(11, d.toNat), (17, a.toNat), (23, b.toNat)]
  | .sand d a b => word32 0x00000483 [(11, d.toNat), (17, a.toNat), (23, b.toNat)]
  | .sor d a b => word32 0x00000503 [(11, d.toNat), (17, a.toNat), (23, b.toNat)]
  | .sxor d a b => word32 0x00000583 [(11, d.toNat), (17, a.toNat), (23, b.toNat)]
  | .sandn d a b => word32 0x00000603 [(11, d.toNat), (17, a.toNat), (23, b.toNat)]
  | .sshl d a b => word32 0x00000683 [(11, d.toNat), (17, a.toNat), (23, b.toNat)]
  | .sshr d a b => word32 0x00000703 [(11, d.toNat), (17, a.toNat), (23, b.toNat)]
  | .ssra d a b => word32 0x00000783 [(11, d.toNat), (17, a.toNat), (23, b.toNat)]
  | .smin d a b => word32 0x20000003 [(11, d.toNat), (17, a.toNat), (23, b.toNat)]
  | .smax d a b => word32 0x20000083 [(11, d.toNat), (17, a.toNat), (23, b.toNat)]
  | .sminn d a b => word32 0x20000103 [(11, d.toNat), (17, a.toNat), (23, b.toNat)]
  | .smaxn d a b => word32 0x20000183 [(11, d.toNat), (17, a.toNat), (23, b.toNat)]
  | .scmp a b => word32 0x20000203 [(17, a.toNat), (23, b.toNat)]
  | .sclz d a => word32 0x20000283 [(11, d.toNat), (17, a.toNat)]
  | .spopc d a => word32 0x20000303 [(11, d.toNat), (17, a.toNat)]
  | .smov d a => word32 0x20000383 [(11, d.toNat), (17, a.toNat)]
  | .saddi d a i => word32 0x00000005 [(11, d.toNat), (17, a.toNat), (23, i.toNat)]
  | .sandi d a i => word32 0x00000085 [(11, d.toNat), (17, a.toNat), (23, i.toNat)]
  | .sori d a i => word32 0x00000105 [(11, d.toNat), (17, a.toNat), (23, i.toNat)]
  | .sxori d a i => word32 0x00000185 [(11, d.toNat), (17, a.toNat), (23, i.toNat)]
  | .sshli d a i => word32 0x00000205 [(11, d.toNat), (17, a.toNat), (23, i.toNat)]
  | .sshri d a i => word32 0x00000285 [(11, d.toNat), (17, a.toNat), (23, i.toNat)]
  | .ssrai d a i => word32 0x00000305 [(11, d.toNat), (17, a.toNat), (23, i.toNat)]
  | .scmpi a i => word32 0x00000385 [(17, a.toNat), (23, i.toNat)]
  | .smuli d a i => word32 0x00000405 [(11, d.toNat), (17, a.toNat), (23, i.toNat)]
  | .sli d i => word32 0x00000007 [(11, d.toNat), (17, i.toNat)]
  | .slis d i => word32 0x00000087 [(11, d.toNat), (17, i.toNat)]
  | .mfs d n => word32 0x00000009 [(11, d.toNat), (23, n.toNat)]
  | .mts a n => word32 0x00000089 [(17, a.toNat), (23, n.toNat)]
  | .sldw d a i => word32 0x0000000b [(11, d.toNat), (17, a.toNat), (23, i.toNat)]
  | .sldd d a i => word32 0x0000008b [(11, d.toNat), (17, a.toNat), (23, i.toNat)]
  | .sstw d a i => word32 0x0000010b [(11, d.toNat), (17, a.toNat), (23, i.toNat)]
  | .sstd d a i => word32 0x0000018b [(11, d.toNat), (17, a.toNat), (23, i.toNat)]
  | .sldda d a i => word32 0x0000020b [(11, d.toNat), (17, a.toNat), (23, i.toNat)]
  | .sstdl d a i => word32 0x0000028b [(11, d.toNat), (17, a.toNat), (23, i.toNat)]
  | .bra c o => word32 0x00000011 [(7, c.toNat), (11, o.toNat)]
  | .call o => word32 0x00000013 [(7, o.toNat)]
  | .jmp a => word32 0x00000015 [(17, a.toNat)]
  | .callr a => word32 0x00000095 [(17, a.toNat)]
  | .ret => word32 0x00000115 []
  | .exit => word32 0x00000195 []
  | .yield => word32 0x00000215 []
  | .nop => word32 0x00000295 []
  | .rcv => word32 0x00000315 []
  | .bkpt n => word32 0x00000395 [(23, n.toNat)]
  | .trap n => word32 0x00000415 [(23, n.toNat)]
  | .eret => word32 0x00000495 []
  | .mon a => word32 0x00000515 [(17, a.toNat)]
  | .mwait a => word32 0x00000595 [(17, a.toNat)]
  | .tcommit => word32 0x00000615 []
  | .tdiscard => word32 0x00000695 []
  | .tlbiPage a => word32 0x00000715 [(17, a.toNat)]
  | .tlbiAsid => word32 0x00800715 []
  | .mspill => word32 0x00000795 []
  | .brd k n o => word32 0x00000017 [(7, k.toNat), (10, n.toNat), (11, o.toNat)]
  | .vadd d a b => word32 0x00000021 [(11, d.toNat), (18, a.toNat), (25, b.toNat)]
  | .vsub d a b => word32 0x000000a1 [(11, d.toNat), (18, a.toNat), (25, b.toNat)]
  | .vmul d a b => word32 0x00000121 [(11, d.toNat), (18, a.toNat), (25, b.toNat)]
  | .vmulh d a b => word32 0x000001a1 [(11, d.toNat), (18, a.toNat), (25, b.toNat)]
  | .vmulhn d a b => word32 0x00000221 [(11, d.toNat), (18, a.toNat), (25, b.toNat)]
  | .vmad d a b => word32 0x000002a1 [(11, d.toNat), (18, a.toNat), (25, b.toNat)]
  | .vmin d a b => word32 0x00000321 [(11, d.toNat), (18, a.toNat), (25, b.toNat)]
  | .vmax d a b => word32 0x000003a1 [(11, d.toNat), (18, a.toNat), (25, b.toNat)]
  | .vminn d a b => word32 0x00000421 [(11, d.toNat), (18, a.toNat), (25, b.toNat)]
  | .vmaxn d a b => word32 0x000004a1 [(11, d.toNat), (18, a.toNat), (25, b.toNat)]
  | .vand d a b => word32 0x00000521 [(11, d.toNat), (18, a.toNat), (25, b.toNat)]
  | .vor d a b => word32 0x000005a1 [(11, d.toNat), (18, a.toNat), (25, b.toNat)]
  | .vxor d a b => word32 0x00000621 [(11, d.toNat), (18, a.toNat), (25, b.toNat)]
  | .vandn d a b => word32 0x000006a1 [(11, d.toNat), (18, a.toNat), (25, b.toNat)]
  | .vshl d a b => word32 0x00000721 [(11, d.toNat), (18, a.toNat), (25, b.toNat)]
  | .vshr d a b => word32 0x000007a1 [(11, d.toNat), (18, a.toNat), (25, b.toNat)]
  | .vsra d a b => word32 0x00000023 [(11, d.toNat), (18, a.toNat), (25, b.toNat)]
  | .vrot d a b => word32 0x000000a3 [(11, d.toNat), (18, a.toNat), (25, b.toNat)]
  | .vabsd d a b => word32 0x00000123 [(11, d.toNat), (18, a.toNat), (25, b.toNat)]
  | .vadds d a b => word32 0x000001a3 [(11, d.toNat), (18, a.toNat), (25, b.toNat)]
  | .vsubs d a b => word32 0x00000223 [(11, d.toNat), (18, a.toNat), (25, b.toNat)]
  | .vavg d a b => word32 0x000002a3 [(11, d.toNat), (18, a.toNat), (25, b.toNat)]
  | .vbfx d a b => word32 0x00000323 [(11, d.toNat), (18, a.toNat), (25, b.toNat)]
  | .vbfi d a b => word32 0x000003a3 [(11, d.toNat), (18, a.toNat), (25, b.toNat)]
  | .vpack d a b => word32 0x00000423 [(11, d.toNat), (18, a.toNat), (25, b.toNat)]
  | .vpermb d a b => word32 0x000004a3 [(11, d.toNat), (18, a.toNat), (25, b.toNat)]
  | .vclz d a => word32 0x00000523 [(11, d.toNat), (18, a.toNat)]
  | .vpopc d a => word32 0x000005a3 [(11, d.toNat), (18, a.toNat)]
  | .vbrev d a => word32 0x00000623 [(11, d.toNat), (18, a.toNat)]
  | .vnot d a => word32 0x000006a3 [(11, d.toNat), (18, a.toNat)]
  | .vabs d a => word32 0x00000723 [(11, d.toNat), (18, a.toNat)]
  | .vneg d a => word32 0x000007a3 [(11, d.toNat), (18, a.toNat)]
  | .vcmp c k a b => word32 0x00000025 [(7, c.toNat), (11, k.toNat), (18, a.toNat), (25, b.toNat)]
  | .fadd d a b => word32 0x00000027 [(11, d.toNat), (18, a.toNat), (25, b.toNat)]
  | .fsub d a b => word32 0x000000a7 [(11, d.toNat), (18, a.toNat), (25, b.toNat)]
  | .fmul d a b => word32 0x00000127 [(11, d.toNat), (18, a.toNat), (25, b.toNat)]
  | .ffma d a b => word32 0x000001a7 [(11, d.toNat), (18, a.toNat), (25, b.toNat)]
  | .fmin d a b => word32 0x00000227 [(11, d.toNat), (18, a.toNat), (25, b.toNat)]
  | .fmax d a b => word32 0x000002a7 [(11, d.toNat), (18, a.toNat), (25, b.toNat)]
  | .fabs d a => word32 0x00000327 [(11, d.toNat), (18, a.toNat)]
  | .fneg d a => word32 0x000003a7 [(11, d.toNat), (18, a.toNat)]
  | .fscale d a b => word32 0x00000427 [(11, d.toNat), (18, a.toNat), (25, b.toNat)]
  | .frnd d a => word32 0x000004a7 [(11, d.toNat), (18, a.toNat)]
  | .fclass d a => word32 0x00000527 [(11, d.toNat), (18, a.toNat)]
  | .fcopys d a b => word32 0x000005a7 [(11, d.toNat), (18, a.toNat), (25, b.toNat)]
  | .faddBf16x2 d a b => word32 0x00000029 [(11, d.toNat), (18, a.toNat), (25, b.toNat)]
  | .fsubBf16x2 d a b => word32 0x000000a9 [(11, d.toNat), (18, a.toNat), (25, b.toNat)]
  | .fmulBf16x2 d a b => word32 0x00000129 [(11, d.toNat), (18, a.toNat), (25, b.toNat)]
  | .ffmaBf16x2 d a b => word32 0x000001a9 [(11, d.toNat), (18, a.toNat), (25, b.toNat)]
  | .fminBf16x2 d a b => word32 0x00000229 [(11, d.toNat), (18, a.toNat), (25, b.toNat)]
  | .fmaxBf16x2 d a b => word32 0x000002a9 [(11, d.toNat), (18, a.toNat), (25, b.toNat)]
  | .fabsBf16x2 d a => word32 0x00000329 [(11, d.toNat), (18, a.toNat)]
  | .fnegBf16x2 d a => word32 0x000003a9 [(11, d.toNat), (18, a.toNat)]
  | .fscaleBf16x2 d a b => word32 0x00000429 [(11, d.toNat), (18, a.toNat), (25, b.toNat)]
  | .frndBf16x2 d a => word32 0x000004a9 [(11, d.toNat), (18, a.toNat)]
  | .fclassBf16x2 d a => word32 0x00000529 [(11, d.toNat), (18, a.toNat)]
  | .fcopysBf16x2 d a b => word32 0x000005a9 [(11, d.toNat), (18, a.toNat), (25, b.toNat)]
  | .fdot2Bf16x2 d a b => word32 0x00000629 [(11, d.toNat), (18, a.toNat), (25, b.toNat)]
  | .faddF16x2 d a b => word32 0x0000002b [(11, d.toNat), (18, a.toNat), (25, b.toNat)]
  | .fsubF16x2 d a b => word32 0x000000ab [(11, d.toNat), (18, a.toNat), (25, b.toNat)]
  | .fmulF16x2 d a b => word32 0x0000012b [(11, d.toNat), (18, a.toNat), (25, b.toNat)]
  | .ffmaF16x2 d a b => word32 0x000001ab [(11, d.toNat), (18, a.toNat), (25, b.toNat)]
  | .fminF16x2 d a b => word32 0x0000022b [(11, d.toNat), (18, a.toNat), (25, b.toNat)]
  | .fmaxF16x2 d a b => word32 0x000002ab [(11, d.toNat), (18, a.toNat), (25, b.toNat)]
  | .fabsF16x2 d a => word32 0x0000032b [(11, d.toNat), (18, a.toNat)]
  | .fnegF16x2 d a => word32 0x000003ab [(11, d.toNat), (18, a.toNat)]
  | .fscaleF16x2 d a b => word32 0x0000042b [(11, d.toNat), (18, a.toNat), (25, b.toNat)]
  | .frndF16x2 d a => word32 0x000004ab [(11, d.toNat), (18, a.toNat)]
  | .fclassF16x2 d a => word32 0x0000052b [(11, d.toNat), (18, a.toNat)]
  | .fcopysF16x2 d a b => word32 0x000005ab [(11, d.toNat), (18, a.toNat), (25, b.toNat)]
  | .fdot2F16x2 d a b => word32 0x0000062b [(11, d.toNat), (18, a.toNat), (25, b.toNat)]
  | .fcvt t d a s p => word32 0x0000002d [(7, t.toNat), (11, d.toNat), (18, a.toNat), (25, s.toNat), (29, p.toNat)]
  | .fexp2 d a y => word32 0x0000002f [(11, d.toNat), (18, a.toNat), (25, y.toNat)]
  | .flog2 d a y => word32 0x000000af [(11, d.toNat), (18, a.toNat), (25, y.toNat)]
  | .frcp d a y => word32 0x0000012f [(11, d.toNat), (18, a.toNat), (25, y.toNat)]
  | .frsq d a y => word32 0x000001af [(11, d.toNat), (18, a.toNat), (25, y.toNat)]
  | .fsqrt d a y => word32 0x0000022f [(11, d.toNat), (18, a.toNat), (25, y.toNat)]
  | .fsinpi d a y => word32 0x000002af [(11, d.toNat), (18, a.toNat), (25, y.toNat)]
  | .fcospi d a y => word32 0x0000032f [(11, d.toNat), (18, a.toNat), (25, y.toNat)]
  | .ftanh d a y => word32 0x000003af [(11, d.toNat), (18, a.toNat), (25, y.toNat)]
  | .fsigm d a y => word32 0x0000042f [(11, d.toNat), (18, a.toNat), (25, y.toNat)]
  | .fgelu d a y => word32 0x000004af [(11, d.toNat), (18, a.toNat), (25, y.toNat)]
  | .ferf d a y => word32 0x0000052f [(11, d.toNat), (18, a.toNat), (25, y.toNat)]
  | .shfli d a b => word32 0x00000031 [(11, d.toNat), (18, a.toNat), (25, b.toNat)]
  | .shflu d a b => word32 0x000000b1 [(11, d.toNat), (18, a.toNat), (25, b.toNat)]
  | .shfld d a b => word32 0x00000131 [(11, d.toNat), (18, a.toNat), (25, b.toNat)]
  | .shflx d a b => word32 0x000001b1 [(11, d.toNat), (18, a.toNat), (25, b.toNat)]
  | .voteany d a => word32 0x00000231 [(11, d.toNat), (18, a.toNat)]
  | .voteall d a => word32 0x000002b1 [(11, d.toNat), (18, a.toNat)]
  | .ballot d a b => word32 0x00000331 [(11, d.toNat), (18, a.toNat), (25, b.toNat)]
  | .redadd d a => word32 0x000003b1 [(11, d.toNat), (18, a.toNat)]
  | .redmin d a => word32 0x00000431 [(11, d.toNat), (18, a.toNat)]
  | .redmax d a => word32 0x000004b1 [(11, d.toNat), (18, a.toNat)]
  | .redand d a => word32 0x00000531 [(11, d.toNat), (18, a.toNat)]
  | .redor d a => word32 0x000005b1 [(11, d.toNat), (18, a.toNat)]
  | .redxor d a => word32 0x00000631 [(11, d.toNat), (18, a.toNat)]
  | .scanadd d a => word32 0x000006b1 [(11, d.toNat), (18, a.toNat)]
  | .bcast d a l => word32 0x00000731 [(11, d.toNat), (18, a.toNat), (25, l.toNat)]
  | .matchLanes d a => word32 0x000007b1 [(11, d.toNat), (18, a.toNat)]
  | .redfadd d a => word32 0x00000033 [(11, d.toNat), (18, a.toNat)]
  | .redfmax d a => word32 0x000000b3 [(11, d.toNat), (18, a.toNat)]
  | .redfmin d a => word32 0x00000133 [(11, d.toNat), (18, a.toNat)]
  | .scanfadd d a => word32 0x000001b3 [(11, d.toNat), (18, a.toNat)]
  | .vlane d => word32 0x00000233 [(11, d.toNat)]
  | .vthr d => word32 0x000002b3 [(11, d.toNat)]
  | .vsel d a b => word32 0x00000333 [(11, d.toNat), (18, a.toNat), (25, b.toNat)]
  | .vmovs d s h => word32 0x000003b3 [(11, d.toNat), (25, s.toNat), (31, h.toNat)]
  | .vaddScalar d a s h => word32 0x00000035 [(11, d.toNat), (18, a.toNat), (25, s.toNat), (31, h.toNat)]
  | .vsubScalar d a s h => word32 0x000000b5 [(11, d.toNat), (18, a.toNat), (25, s.toNat), (31, h.toNat)]
  | .vmulScalar d a s h => word32 0x00000135 [(11, d.toNat), (18, a.toNat), (25, s.toNat), (31, h.toNat)]
  | .vmulhScalar d a s h => word32 0x000001b5 [(11, d.toNat), (18, a.toNat), (25, s.toNat), (31, h.toNat)]
  | .vmulhnScalar d a s h => word32 0x00000235 [(11, d.toNat), (18, a.toNat), (25, s.toNat), (31, h.toNat)]
  | .vmadScalar d a s h => word32 0x000002b5 [(11, d.toNat), (18, a.toNat), (25, s.toNat), (31, h.toNat)]
  | .vminScalar d a s h => word32 0x00000335 [(11, d.toNat), (18, a.toNat), (25, s.toNat), (31, h.toNat)]
  | .vmaxScalar d a s h => word32 0x000003b5 [(11, d.toNat), (18, a.toNat), (25, s.toNat), (31, h.toNat)]
  | .vminnScalar d a s h => word32 0x00000435 [(11, d.toNat), (18, a.toNat), (25, s.toNat), (31, h.toNat)]
  | .vmaxnScalar d a s h => word32 0x000004b5 [(11, d.toNat), (18, a.toNat), (25, s.toNat), (31, h.toNat)]
  | .vandScalar d a s h => word32 0x00000535 [(11, d.toNat), (18, a.toNat), (25, s.toNat), (31, h.toNat)]
  | .vorScalar d a s h => word32 0x000005b5 [(11, d.toNat), (18, a.toNat), (25, s.toNat), (31, h.toNat)]
  | .vxorScalar d a s h => word32 0x00000635 [(11, d.toNat), (18, a.toNat), (25, s.toNat), (31, h.toNat)]
  | .vandnScalar d a s h => word32 0x000006b5 [(11, d.toNat), (18, a.toNat), (25, s.toNat), (31, h.toNat)]
  | .vshlScalar d a s h => word32 0x00000735 [(11, d.toNat), (18, a.toNat), (25, s.toNat), (31, h.toNat)]
  | .vshrScalar d a s h => word32 0x000007b5 [(11, d.toNat), (18, a.toNat), (25, s.toNat), (31, h.toNat)]
  | .faddScalar d a s h => word32 0x00000037 [(11, d.toNat), (18, a.toNat), (25, s.toNat), (31, h.toNat)]
  | .fsubScalar d a s h => word32 0x000000b7 [(11, d.toNat), (18, a.toNat), (25, s.toNat), (31, h.toNat)]
  | .fmulScalar d a s h => word32 0x00000137 [(11, d.toNat), (18, a.toNat), (25, s.toNat), (31, h.toNat)]
  | .ffmaScalar d a s h => word32 0x000001b7 [(11, d.toNat), (18, a.toNat), (25, s.toNat), (31, h.toNat)]
  | .fminScalar d a s h => word32 0x00000237 [(11, d.toNat), (18, a.toNat), (25, s.toNat), (31, h.toNat)]
  | .fmaxScalar d a s h => word32 0x000002b7 [(11, d.toNat), (18, a.toNat), (25, s.toNat), (31, h.toNat)]
  | .fscaleScalar d a s h => word32 0x00000437 [(11, d.toNat), (18, a.toNat), (25, s.toNat), (31, h.toNat)]
  | .fcopysScalar d a s h => word32 0x000005b7 [(11, d.toNat), (18, a.toNat), (25, s.toNat), (31, h.toNat)]
  | .vaddi d a i => word32 0x00000039 [(11, d.toNat), (18, a.toNat), (25, i.toNat)]
  | .vandi d a i => word32 0x000000b9 [(11, d.toNat), (18, a.toNat), (25, i.toNat)]
  | .vori d a i => word32 0x00000139 [(11, d.toNat), (18, a.toNat), (25, i.toNat)]
  | .vxori d a i => word32 0x000001b9 [(11, d.toNat), (18, a.toNat), (25, i.toNat)]
  | .vshli d a i => word32 0x00000239 [(11, d.toNat), (18, a.toNat), (25, i.toNat)]
  | .vshri d a i => word32 0x000002b9 [(11, d.toNat), (18, a.toNat), (25, i.toNat)]
  | .vsrai d a i => word32 0x00000339 [(11, d.toNat), (18, a.toNat), (25, i.toNat)]
  | .vmuli d a i => word32 0x000003b9 [(11, d.toNat), (18, a.toNat), (25, i.toNat)]
  | .vli d i => word32 0x0000003b [(11, d.toNat), (18, i.toNat)]
  | .vlis d i => word32 0x000000bb [(11, d.toNat), (18, i.toNat)]
  | .bdecZ d a s => word32 0x0000003d [(11, d.toNat), (18, a.toNat), (25, s.toNat)]
  | .bdecS d a s => word32 0x000000bd [(11, d.toNat), (18, a.toNat), (25, s.toNat)]
  | .lutxB32 d a s => word32 0x0000013d [(11, d.toNat), (18, a.toNat), (25, s.toNat)]
  | .lutxB16 d a s => word32 0x000001bd [(11, d.toNat), (18, a.toNat), (25, s.toNat)]
  | .qpop d q => word32 0x0000003f [(11, d.toNat), (18, q.toNat)]
  | .qpeek d q => word32 0x000000bf [(11, d.toNat), (18, q.toNat)]
  | .qpush q a => word32 0x0000013f [(11, q.toNat), (18, a.toNat)]
  | .vkill d a => word32 0x000001bf [(11, d.toNat), (18, a.toNat)]
  | .vmov d a => word32 0x0000023f [(11, d.toNat), (18, a.toNat)]
  | .vmovCompact d a => word16 0x0000 [(6, d.toNat), (11, a.toNat)]
  | .vaddCompact d a => word16 0x0004 [(6, d.toNat), (11, a.toNat)]
  | .vsubCompact d a => word16 0x0008 [(6, d.toNat), (11, a.toNat)]
  | .vandCompact d a => word16 0x000c [(6, d.toNat), (11, a.toNat)]
  | .vorCompact d a => word16 0x0010 [(6, d.toNat), (11, a.toNat)]
  | .vxorCompact d a => word16 0x0014 [(6, d.toNat), (11, a.toNat)]
  | .vshlCompact d a => word16 0x0018 [(6, d.toNat), (11, a.toNat)]
  | .vshrCompact d a => word16 0x001c [(6, d.toNat), (11, a.toNat)]
  | .vminCompact d a => word16 0x0020 [(6, d.toNat), (11, a.toNat)]
  | .vmaxCompact d a => word16 0x0024 [(6, d.toNat), (11, a.toNat)]
  | .faddCompact d a => word16 0x0028 [(6, d.toNat), (11, a.toNat)]
  | .fsubCompact d a => word16 0x002c [(6, d.toNat), (11, a.toNat)]
  | .fmulCompact d a => word16 0x0030 [(6, d.toNat), (11, a.toNat)]
  | .fminCompact d a => word16 0x0034 [(6, d.toNat), (11, a.toNat)]
  | .fmaxCompact d a => word16 0x0038 [(6, d.toNat), (11, a.toNat)]
  | .vmulCompact d a => word16 0x003c [(6, d.toNat), (11, a.toNat)]
  | .dict i => word16 0x0002 [(2, i.toNat)]
  | .nop16 => word16 0x1002 []
  | .pfx k r z c e s => word32 0x0000007d [(7, k.toNat), (10, r.toNat), (13, z.toNat), (14, c.toNat), (21, e.toNat), (23, s.toNat)]
  | .ldb d s a y => word32 0x00000041 [(11, d.toNat), (18, s.toNat), (24, a.toNat), (31, y.toNat)]
  | .ldbs d s a y => word32 0x000000c1 [(11, d.toNat), (18, s.toNat), (24, a.toNat), (31, y.toNat)]
  | .ldh d s a y => word32 0x00000141 [(11, d.toNat), (18, s.toNat), (24, a.toNat), (31, y.toNat)]
  | .ldhs d s a y => word32 0x000001c1 [(11, d.toNat), (18, s.toNat), (24, a.toNat), (31, y.toNat)]
  | .ldw d s a y => word32 0x00000241 [(11, d.toNat), (18, s.toNat), (24, a.toNat), (31, y.toNat)]
  | .ldd d s a y => word32 0x000002c1 [(11, d.toNat), (18, s.toNat), (24, a.toNat), (31, y.toNat)]
  | .ldq d s a y => word32 0x00000341 [(11, d.toNat), (18, s.toNat), (24, a.toNat), (31, y.toNat)]
  | .ldwa d s a => word32 0x000003c1 [(11, d.toNat), (18, s.toNat), (24, a.toNat)]
  | .ldda d s a => word32 0x00000441 [(11, d.toNat), (18, s.toNat), (24, a.toNat)]
  | .stb d s a => word32 0x00000043 [(11, d.toNat), (18, s.toNat), (24, a.toNat)]
  | .sth d s a => word32 0x000000c3 [(11, d.toNat), (18, s.toNat), (24, a.toNat)]
  | .stw d s a => word32 0x00000143 [(11, d.toNat), (18, s.toNat), (24, a.toNat)]
  | .std d s a => word32 0x000001c3 [(11, d.toNat), (18, s.toNat), (24, a.toNat)]
  | .stq d s a => word32 0x00000243 [(11, d.toNat), (18, s.toNat), (24, a.toNat)]
  | .stwl d s a => word32 0x000002c3 [(11, d.toNat), (18, s.toNat), (24, a.toNat)]
  | .stdl d s a => word32 0x00000343 [(11, d.toNat), (18, s.toNat), (24, a.toNat)]
  | .ldsb d s a => word32 0x00000045 [(11, d.toNat), (18, s.toNat), (24, a.toNat)]
  | .ldsbs d s a => word32 0x000000c5 [(11, d.toNat), (18, s.toNat), (24, a.toNat)]
  | .ldsh d s a => word32 0x00000145 [(11, d.toNat), (18, s.toNat), (24, a.toNat)]
  | .ldshs d s a => word32 0x000001c5 [(11, d.toNat), (18, s.toNat), (24, a.toNat)]
  | .ldsw d s a => word32 0x00000245 [(11, d.toNat), (18, s.toNat), (24, a.toNat)]
  | .ldsd d s a => word32 0x000002c5 [(11, d.toNat), (18, s.toNat), (24, a.toNat)]
  | .ldsq d s a => word32 0x00000345 [(11, d.toNat), (18, s.toNat), (24, a.toNat)]
  | .stsb d s a => word32 0x000003c5 [(11, d.toNat), (18, s.toNat), (24, a.toNat)]
  | .stsh d s a => word32 0x00000445 [(11, d.toNat), (18, s.toNat), (24, a.toNat)]
  | .stsw d s a => word32 0x000004c5 [(11, d.toNat), (18, s.toNat), (24, a.toNat)]
  | .stsd d s a => word32 0x00000545 [(11, d.toNat), (18, s.toNat), (24, a.toNat)]
  | .stsq d s a => word32 0x000005c5 [(11, d.toNat), (18, s.toNat), (24, a.toNat)]
  | .aadd d s a => word32 0x00000047 [(11, d.toNat), (18, s.toNat), (24, a.toNat)]
  | .amin d s a => word32 0x000000c7 [(11, d.toNat), (18, s.toNat), (24, a.toNat)]
  | .amax d s a => word32 0x00000147 [(11, d.toNat), (18, s.toNat), (24, a.toNat)]
  | .aminn d s a => word32 0x000001c7 [(11, d.toNat), (18, s.toNat), (24, a.toNat)]
  | .amaxn d s a => word32 0x00000247 [(11, d.toNat), (18, s.toNat), (24, a.toNat)]
  | .aand d s a => word32 0x000002c7 [(11, d.toNat), (18, s.toNat), (24, a.toNat)]
  | .aor d s a => word32 0x00000347 [(11, d.toNat), (18, s.toNat), (24, a.toNat)]
  | .axor d s a => word32 0x000003c7 [(11, d.toNat), (18, s.toNat), (24, a.toNat)]
  | .axch d s a => word32 0x00000447 [(11, d.toNat), (18, s.toNat), (24, a.toNat)]
  | .acas d s a => word32 0x000004c7 [(11, d.toNat), (18, s.toNat), (24, a.toNat)]
  | .afadd d s a => word32 0x00000547 [(11, d.toNat), (18, s.toNat), (24, a.toNat)]
  | .afaddp d s a => word32 0x000005c7 [(11, d.toNat), (18, s.toNat), (24, a.toNat)]
  | .ainc d s a => word32 0x00000647 [(11, d.toNat), (18, s.toNat), (24, a.toNat)]
  | .adec d s a => word32 0x000006c7 [(11, d.toNat), (18, s.toNat), (24, a.toNat)]
  | .gadd d s a => word32 0x00000049 [(11, d.toNat), (18, s.toNat), (24, a.toNat)]
  | .gmin d s a => word32 0x000000c9 [(11, d.toNat), (18, s.toNat), (24, a.toNat)]
  | .gmax d s a => word32 0x00000149 [(11, d.toNat), (18, s.toNat), (24, a.toNat)]
  | .gminn d s a => word32 0x000001c9 [(11, d.toNat), (18, s.toNat), (24, a.toNat)]
  | .gmaxn d s a => word32 0x00000249 [(11, d.toNat), (18, s.toNat), (24, a.toNat)]
  | .gand d s a => word32 0x000002c9 [(11, d.toNat), (18, s.toNat), (24, a.toNat)]
  | .gor d s a => word32 0x00000349 [(11, d.toNat), (18, s.toNat), (24, a.toNat)]
  | .gxor d s a => word32 0x000003c9 [(11, d.toNat), (18, s.toNat), (24, a.toNat)]
  | .gfadd d s a => word32 0x00000449 [(11, d.toNat), (18, s.toNat), (24, a.toNat)]
  | .gfaddp d s a => word32 0x000004c9 [(11, d.toNat), (18, s.toNat), (24, a.toNat)]
  | .aaddS d s a => word32 0x0000004b [(11, d.toNat), (18, s.toNat), (24, a.toNat)]
  | .aminS d s a => word32 0x000000cb [(11, d.toNat), (18, s.toNat), (24, a.toNat)]
  | .amaxS d s a => word32 0x0000014b [(11, d.toNat), (18, s.toNat), (24, a.toNat)]
  | .aminnS d s a => word32 0x000001cb [(11, d.toNat), (18, s.toNat), (24, a.toNat)]
  | .amaxnS d s a => word32 0x0000024b [(11, d.toNat), (18, s.toNat), (24, a.toNat)]
  | .aandS d s a => word32 0x000002cb [(11, d.toNat), (18, s.toNat), (24, a.toNat)]
  | .aorS d s a => word32 0x0000034b [(11, d.toNat), (18, s.toNat), (24, a.toNat)]
  | .axorS d s a => word32 0x000003cb [(11, d.toNat), (18, s.toNat), (24, a.toNat)]
  | .axchS d s a => word32 0x0000044b [(11, d.toNat), (18, s.toNat), (24, a.toNat)]
  | .acasS d s a => word32 0x000004cb [(11, d.toNat), (18, s.toNat), (24, a.toNat)]
  | .afaddS d s a => word32 0x0000054b [(11, d.toNat), (18, s.toNat), (24, a.toNat)]
  | .afaddpS d s a => word32 0x000005cb [(11, d.toNat), (18, s.toNat), (24, a.toNat)]
  | .aincS d s a => word32 0x0000064b [(11, d.toNat), (18, s.toNat), (24, a.toNat)]
  | .adecS d s a => word32 0x000006cb [(11, d.toNat), (18, s.toNat), (24, a.toNat)]
  | .ldpw d s a => word32 0x0000004d [(11, d.toNat), (18, s.toNat), (24, a.toNat)]
  | .stpw d s a => word32 0x000000cd [(11, d.toNat), (18, s.toNat), (24, a.toNat)]
  | .apadd d s a => word32 0x0000014d [(11, d.toNat), (18, s.toNat), (24, a.toNat)]
  | .ldxw d s a => word32 0x000001cd [(11, d.toNat), (18, s.toNat), (24, a.toNat)]
  | .stxw d s a => word32 0x0000024d [(11, d.toNat), (18, s.toNat), (24, a.toNat)]
  | .nxadd d s a => word32 0x000002cd [(11, d.toNat), (18, s.toNat), (24, a.toNat)]
  | .nxfadd d s a => word32 0x0000034d [(11, d.toNat), (18, s.toNat), (24, a.toNat)]
  | .ldxd d s a => word32 0x000003cd [(11, d.toNat), (18, s.toNat), (24, a.toNat)]
  | .stxd d s a => word32 0x0000044d [(11, d.toNat), (18, s.toNat), (24, a.toNat)]
  | .fence c => word32 0x0000004f [(23, c.toNat)]
  | .pref a i => word32 0x000000cf [(17, a.toNat), (23, i.toNat)]
  | .invl1 a => word32 0x0000014f [(17, a.toNat)]
  | .waitc l s p t c => word32 0x00000051 [(7, l.toNat), (12, s.toNat), (17, p.toNat), (22, t.toNat), (27, c.toNat)]
  | .waitr d a c => word32 0x00000053 [(11, d.toNat), (17, a.toNat), (23, c.toNat)]
  | .bara d b => word32 0x000000d3 [(11, d.toNat), (23, b.toNat)]
  | .barw d a b => word32 0x00000153 [(11, d.toNat), (17, a.toNat), (23, b.toNat)]
  | .bart d b => word32 0x000001d3 [(11, d.toNat), (23, b.toNat)]
  | .bjoin d b => word32 0x00000253 [(11, d.toNat), (23, b.toNat)]
  | .bleave d b => word32 0x000002d3 [(11, d.toNat), (23, b.toNat)]
  | .binit d a b => word32 0x00000353 [(11, d.toNat), (17, a.toNat), (23, b.toNat)]
  | .xacq n => word32 0x000003d3 [(23, n.toNat)]
  | .xtry d n => word32 0x00000453 [(11, d.toNat), (23, n.toNat)]
  | .xrel n => word32 0x000004d3 [(23, n.toNat)]
  | .cpush d a c e w => word32 0x00000061 [(11, d.toNat), (17, a.toNat), (23, c.toNat), (29, e.toNat), (31, w.toNat)]
  | .opost d a c e w => word32 0x000000e1 [(11, d.toNat), (17, a.toNat), (23, c.toNat), (29, e.toNat), (31, w.toNat)]
  | .cseq d c => word32 0x00000161 [(11, d.toNat), (23, c.toNat)]
  | .attn d a e w => word32 0x000001e1 [(11, d.toNat), (17, a.toNat), (29, e.toNat), (31, w.toNat)]
  | .tdld d h => word32 0x00000063 [(11, d.toNat), (23, h.toNat)]
  | .tdst a h => word32 0x000000e3 [(15, a.toNat), (23, h.toNat)]
  | .tdset d a b h => word32 0x00000163 [(11, d.toNat), (15, a.toNat), (19, b.toNat), (23, h.toNat)]
  | .tcpy d a e => word32 0x000001e3 [(11, d.toNat), (15, a.toNat), (29, e.toNat)]
  | .tcpyq d a b e => word32 0x00000263 [(11, d.toNat), (15, a.toNat), (19, b.toNat), (29, e.toNat)]
  | .tcpyx d a e => word32 0x000002e3 [(11, d.toNat), (15, a.toNat), (29, e.toNat)]
  | .tdoff d a h => word32 0x00000363 [(11, d.toNat), (15, a.toNat), (23, h.toNat)]
  | .hreg d a => word32 0x00000065 [(11, d.toNat), (17, a.toNat)]
  | .hregFree d a => word32 0x00800065 [(11, d.toNat), (17, a.toNat)]
  | .hwait d a c => word32 0x000000e5 [(11, d.toNat), (17, a.toNat), (23, c.toNat)]
  | .hret n => word32 0x00000165 [(23, n.toNat)]
  | .hseal a => word32 0x000001e5 [(17, a.toNat)]
  | .ostat d a => word32 0x00000265 [(11, d.toNat), (17, a.toNat)]
  | .ocancel d a => word32 0x000002e5 [(11, d.toNat), (17, a.toNat)]
  | .rtreg d a => word32 0x00000365 [(11, d.toNat), (17, a.toNat)]
  | .rtfree d a => word32 0x000003e5 [(11, d.toNat), (17, a.toNat)]
  | .hstage a => word32 0x00000067 [(18, a.toNat)]
  | .hdrain d => word32 0x000000e7 [(11, d.toNat)]
  | .fold d a b h e => word32 0x00000069 [(11, d.toNat), (15, a.toNat), (19, b.toNat), (23, h.toNat), (29, e.toNat)]
  | .scan d a b h e => word32 0x000000e9 [(11, d.toNat), (15, a.toNat), (19, b.toNat), (23, h.toNat), (29, e.toNat)]
  | .zip d a b h e => word32 0x00000169 [(11, d.toNat), (15, a.toNat), (19, b.toNat), (23, h.toNat), (29, e.toNat)]
  | .outer d a b h e => word32 0x000001e9 [(11, d.toNat), (15, a.toNat), (19, b.toNat), (23, h.toNat), (29, e.toNat)]
  | .epsnap d a p => word32 0x0000006b [(11, d.toNat), (17, a.toNat), (23, p.toNat)]
  | .eprest d a => word32 0x000000eb [(11, d.toNat), (17, a.toNat)]
  | .epcommit d a => word32 0x0000016b [(11, d.toNat), (17, a.toNat)]
  | .epmap d a => word32 0x000001eb [(11, d.toNat), (17, a.toNat)]
  | .kvslot d a w => word32 0x0000026b [(11, d.toNat), (17, a.toNat), (23, w.toNat)]
  | .kvtent d a => word32 0x000002eb [(11, d.toNat), (17, a.toNat)]
  | .kvcommit d a => word32 0x0000036b [(11, d.toNat), (17, a.toNat)]
  | .kvroll d a => word32 0x000003eb [(11, d.toNat), (17, a.toNat)]
  | .kvfork d a => word32 0x0000046b [(11, d.toNat), (17, a.toNat)]
  | .kvlen d a => word32 0x000004eb [(11, d.toNat), (17, a.toNat)]
  | .coll d a h e => word32 0x0000006d [(11, d.toNat), (15, a.toNat), (23, h.toNat), (29, e.toNat)]
  | .abinit d a n => word32 0x0000006f [(11, d.toNat), (17, a.toNat), (23, n.toNat)]
  | .abarr d a => word32 0x000000ef [(11, d.toNat), (17, a.toNat)]
  | .abwait d a => word32 0x0000016f [(11, d.toNat), (17, a.toNat)]
  | .abtest d a => word32 0x000001ef [(11, d.toNat), (17, a.toNat)]
  | .absig d a => word32 0x0000026f [(11, d.toNat), (17, a.toNat)]
  | .dawnld d a => word32 0x00000071 [(11, d.toNat), (17, a.toNat)]
  | .dawngo d a => word32 0x000000f1 [(11, d.toNat), (17, a.toNat)]
  | .dawnstop d => word32 0x00000171 [(11, d.toNat)]
  | .jcdeal d => word32 0x000001f1 [(11, d.toNat)]
  | .watchEventDelivery _ _ => none
  | .registerWrite _ _ => none
  | .hostDoorbell _ _ _ => none
  | .ident _ => none
  | .status _ => none
  | .bootContinue _ _ _ _ _ => none
  | .partCreate _ _ => none
  | .partMerge _ _ _ _ => none
  | .partMergeDrained => none
  | .partMergeTimeout => none
  | .partSplit _ _ => none
  | .ctxCreate _ _ => none
  | .ctxDestroy _ _ => none
  | .map _ _ _ _ => none
  | .unmap _ _ _ => none
  | .queueBind _ _ => none
  | .resetCore _ _ _ => none
  | .resetOrrery _ _ _ => none
  | .attest _ _ _ _ => none
  | .telem _ _ => none
  | .powerSet _ _ _ _ => none
  | .debugUnlock _ _ _ _ _ => none
  | .dedupScan _ _ => none
  | .scrub _ _ => none
  | .shootDownComplete _ => none
  | .reset => none
  | .bootCheckDone _ => none
  | .limiterRaise _ => none
  | .limiterLower _ => none
  | .thermalTrip _ => none
  | .tripOffTimeout => none
  | .supplyTrim _ => none
  | .budgetDivision _ => none
  | .ebudRefill _ => none
  | .uncorrectableError _ => none
  | .correctedError _ => none
  | .pageWalk _ => none
  | .pageWalkDone _ _ => none
  | .loadDataReturn _ _ => none
  | .writeAppliedAtHome _ => none
  | .writeAck _ => none
  | .mwaitTimeout _ _ _ => none
  | .remoteAccess _ => none
  | .remoteTranslationDone _ _ _ => none
  | .linkFailure _ _ => none
  | .copy _ _ _ => none
  | .expand _ _ _ => none
  | .quantise _ _ _ => none
  | .decompress _ _ _ => none
  | .tierMigration _ _ _ => none
  | .fill _ _ _ => none
  | .gather _ _ _ => none
  | .scatter _ _ _ => none
  | .operatorRun _ _ _ => none
  | .launch _ _ _ => none
  | .recordCompletion _ _ => none
  | .outputUnitOperation _ => none
  | .operationRetire _ => none
  | .walkStart _ _ => none
  | .upcallDelivery _ _ _ => none
  | .upcallTimeout _ _ _ => none
  | .directFillComplete _ _ _ _ _ => none
  | .stepStart _ _ _ => none
  | .stepComplete _ _ _ _ => none
  | .deliveryConversionDone _ _ _ => none
  | .walkCompletion _ _ => none
  | .selfTest _ => none
  | .selfTestResult _ _ => none
  | .attnPageGroupDone _ _ _ => none
  | .attnAbsentPageRead _ _ _ => none
  | .attnMerge _ _ => none
  | .attnCompletion _ => none
  | .collectiveStart _ => none
  | .collectiveTreeNode _ _ _ => none
  | .collectiveCompletion _ => none
  | .collectiveTimeout _ => none
  | .collectiveAbort _ _ _ => none
  | .switchReductionFailure _ => none
  | .launchPacketAccept _ _ => none
  | .teamPlacement _ => none
  | .teamRetire _ => none
  | .preemptionDelayExpiry _ => none
  | .contextResume _ _ => none
  | .balancerInterval _ => none
  | .replicatedAcceptance _ _ _ => none
  | .replicatedAcceptTimeout _ => none
  | .replicatedStart _ => none
  | .switchRequest _ => none
  | .bankExchange _ => none
  | .bankExchangeDone _ => none
  | .spillComplete _ => none
  | .demandRestore _ _ => none
  | .engineReset _ => none
  | .attentionUnitReset _ => none
  | .debuggerResume _ _ => none

/-- The bytes of an instruction as they stand in memory (R11: parcels little-endian). -/
def encode (i : Instr) : Option (List Byte) :=
  (encodeWord i).map fun (n, w) => leBytes (n / 8) w

end Sys2Proof
end

