-- ==== Sys2Proof/Config.lean ====
section
/-! DEFINITION. What is fixed for the machine (00 R1) and the free values: what the spec leaves open. A free value is
an opaque constant without a body, applied to the state's step counter (State.tick) or to its operands, so that
nothing can be proved of which value it is. -/

namespace Sys2Proof.Config

open Sys2Proof

/-- Cores per die (00 R1). -/
def coresPerDie : Nat := 80
/-- Cores per package (00 R1). -/
def cores : Nat := 160
/-- Copy engines per package (00 R1). -/
def engines : Nat := 96
/-- Attention units per package (00 R1). -/
def attentionUnits : Nat := 128
/-- Resident slots of a core, the dawn slot included (00 R1, 08 R185). -/
def slots : Nat := 256
/-- Lanes of a core (00 R1). -/
def lanes : Nat := 128
/-- Extended blocks a core grants in all (07 R142). -/
def blockQuota : Nat := 256
/-- Entries of a core's vector file (07 R143). -/
def fileEntries : Nat := 12288
/-- Outstanding operations of a class (00 R5). -/
def classLimit : Nat := 30
/-- Page walkers of a die and misses a die queues beyond them (03 R44). -/
def walkers : Nat := 64
def walkQueue : Nat := 1024
/-- Entries of the reconvergence stack (14 R309). -/
def stackLimit : Nat := 1056
/-- Lease lengths in ns (06 R106): read-mostly and shared-writable. -/
def leaseRead : Nat := 2000
def leaseShared : Nat := 250
/-- The skew bound of the fabric's time base in ns (00 R1, 06 R131). -/
def fabricSkew : Nat := 20
/-- Lines of a die's speculation buffer (06 R137). -/
def specLines : Nat := 65536
/-- The capacities of the translation caches (03 R43). -/
def l1TlbEntries : Nat := 64
def dieTlbEntries : Nat := 1024

/-- The nanoseconds that pass in a step: the model fixes no instruction times (notes/assumptions/3.md). -/
opaque elapsed : Nat → Nat
/-- What the copy of a snapshot's granule adds to the WCT of the write that made it, in ns: about 60 (12 R267). -/
opaque granuleCopy : Nat → Nat
/-- Whether a cached L1 line has been replaced when it is looked up (06 R398: the rule is not stated). -/
opaque l1Replaced : Nat → Nat → Bool
/-- A byte nobody defines, by step and index: what an engine leaves in a destination it had begun when it failed
(11 R253), an attention unit's workspace (12 R276). -/
opaque freeByte : Nat → Nat → Byte
/-- A word that failing hardware computed (09 R215): a step's shadow whose checks failed twice, by step and place. -/
opaque faultWord : Nat → Nat → W32
/-- What a rank on another chip contributes to a collective (13 R286): word by collective, rank's position and index. -/
opaque remoteWord : Nat → Nat → Nat → W32
/-- A byte another chip contributes to a pure copy. -/
opaque remoteByte : Nat → Nat → Nat → Byte
/-- How Ablas places the ranks of a group in its tree, from the fabric map of the domain (13 R279): a key for each rank of a
list of chips, for each state of the map; positions rise with it. -/
opaque treeKey : Nat → List Nat → Nat → Nat
/-- Whether every edge of a group's tree runs through switches that can reduce (13 R295), by signature. -/
opaque switched : W64 → Bool
/-- A reading of a sensor or a counter whose value the spec does not fix (17 R377), by step and index. -/
opaque reading : Nat → Nat → W64
/-- The correctly rounded value of a special function where the model's own enclosure does not decide it
(notes/assumptions/9.md), by function, format and operand. -/
opaque special : Nat → Nat → Nat → Nat
/-- Whether a signature verifies (17 R369, R374): the cryptographic algorithm's outcome, by key, signed bytes and signature. -/
opaque verifies : List Byte → List Byte → List Byte → Bool
/-- The vendor's root key, which the ROM holds (17 R369). -/
opaque vendorKey : List Byte
/-- The attestation key (17 R375), from the fused identity seed and the ROM digest. -/
opaque deriveKey : List Byte → List Byte → List Byte
/-- The signature the device makes (17 R375), byte by byte, from the key and the signed bytes. -/
opaque signature : List Byte → List Byte → Nat → Byte
/-- Whether an instruction path still gives the old contents of a line written after its first fetch (02 R15), by step, core
and line. -/
opaque staleLine : Nat → Nat → Nat → Bool

/-- Whether another chip of a replicated launch has retired its teams (13 R299), by step, launch and chip. -/
opaque chipRetired : Nat → Nat → Nat → Bool
/-- The digest of a kernel image (17 R375), whose extent the spec does not give: by address, header and byte. -/
opaque imageDigest : Nat → List Byte → List (Nat × Byte) → Nat → Byte

end Sys2Proof.Config
end

