-- ==== Sys2Proof/Machine/Bits.lean ====
section
/-! DEFINITION. Bit fields, sign extension, masks of threads, byte order and sparse tables. -/

namespace Sys2Proof.Machine

open Sys2Proof

/-! ## Bit fields of naturals -/

/-- Bits [hi:lo] of a natural (00 R3). -/
def bits (x hi lo : Nat) : Nat := (x / 2 ^ lo) % 2 ^ (hi + 1 - lo)

/-- Bit i of a natural. -/
def bit (x i : Nat) : Bool := (x / 2 ^ i) % 2 == 1

/-- A truth value as a bit. -/
def bitOf (b : Bool) : Nat := if b then 1 else 0

/-- A 64-bit register value from a natural, modulo 2^64. -/
def w64 (n : Nat) : W64 := BitVec.ofNat 64 n
/-- A 32-bit value from a natural, modulo 2^32. -/
def w32 (n : Nat) : W32 := BitVec.ofNat 32 n

/-- Sign extension of a field to 64 bits (02 R21). -/
def sext64 {n : Nat} (x : BitVec n) : W64 := x.signExtend 64
/-- Sign extension of a field to 32 bits. -/
def sext32 {n : Nat} (x : BitVec n) : W32 := x.signExtend 32

/-- The signed value of the low w bits of a natural. -/
def signedOf (w x : Nat) : Int :=
  let y := x % 2 ^ w
  if y < 2 ^ (w - 1) then (y : Int) else (y : Int) - (2 ^ w : Nat)

/-- A signed integer as w bits. -/
def wrapInt (w : Nat) (x : Int) : Nat := (x % (2 ^ w : Nat)).toNat

/-- Leading zero bits of the low w bits (w for 0). -/
def clz (w x : Nat) : Nat := if x % 2 ^ w = 0 then w else w - 1 - Nat.log2 (x % 2 ^ w)

/-- Set bits among the low w bits. -/
def popc : Nat → Nat → Nat
  | 0, _ => 0
  | w + 1, x => x % 2 + popc w (x / 2)

/-- The low w bits in reverse order. -/
def brev : Nat → Nat → Nat
  | 0, _ => 0
  | w + 1, x => (x % 2) * 2 ^ w + brev w (x / 2)

/-- Smallest multiple of a (a > 0) not below x. -/
def roundUp (x a : Nat) : Nat := (x + a - 1) / a * a

/-- ceil(x / a). -/
def ceilDiv (x a : Nat) : Nat := (x + a - 1) / a

/-! ## Threads of a warp -/

/-- The 32 thread numbers in ascending order. -/
def threads : List Nat := List.range 32

/-- Whether thread t belongs to a mask. -/
def inMask (m : W32) (t : Nat) : Bool := m.getLsbD t

/-- The mask of the threads below 32 that satisfy p. -/
def maskOf (p : Nat → Bool) : W32 :=
  BitVec.ofNat 32 (threads.foldr (fun t acc => bitOf (p t) * 2 ^ t + acc) 0)

/-- The threads of a mask in ascending order. -/
def maskThreads (m : W32) : List Nat := threads.filter (inMask m)

/-- The lowest thread of a mask, if it has one. -/
def lowest (m : W32) : Option Nat := threads.find? (inMask m)

/-! ## Little-endian bytes (00 R3) -/

/-- The n bytes of a natural, least significant first. -/
def toBytes : Nat → Nat → List Byte
  | 0, _ => []
  | n + 1, x => BitVec.ofNat 8 x :: toBytes n (x / 256)

/-- The natural that a list of bytes, least significant first, denotes. -/
def ofBytes : List Byte → Nat
  | [] => 0
  | b :: bs => b.toNat + 256 * ofBytes bs

/-! ## Sparse tables: lists of (key, value), keys ascending, default values not listed -/

/-- What a table holds for a key; d where it lists none. -/
def tabGet {α : Type} (d : α) (k : Nat) : List (Nat × α) → α
  | [] => d
  | (k', v) :: t => if k' = k then v else tabGet d k t

/-- A table without a key. -/
def tabDel {α : Type} (k : Nat) : List (Nat × α) → List (Nat × α)
  | [] => []
  | (k', v) :: t => if k' = k then tabDel k t else (k', v) :: tabDel k t

/-- Insert a pair before the first larger key. -/
def tabIns {α : Type} (k : Nat) (v : α) : List (Nat × α) → List (Nat × α)
  | [] => [(k, v)]
  | (k', v') :: t => if k < k' then (k, v) :: (k', v') :: t else (k', v') :: tabIns k v t

/-- Write a value; the default is not listed. -/
def tabSet {α : Type} [DecidableEq α] (d : α) (k : Nat) (v : α) (t : List (Nat × α)) : List (Nat × α) :=
  if v = d then tabDel k t else tabIns k v (tabDel k t)

/-- Replace the value of a key by f of it. -/
def tabMod {α : Type} [DecidableEq α] (d : α) (k : Nat) (f : α → α) (t : List (Nat × α)) : List (Nat × α) :=
  tabSet d k (f (tabGet d k t)) t

/-- Insert a number into an ascending list without repeats. -/
def setIns (k : Nat) : List Nat → List Nat
  | [] => [k]
  | x :: t => if k < x then k :: x :: t else if k = x then x :: t else x :: setIns k t

/-- Remove a number from a list. -/
def setDel (k : Nat) (l : List Nat) : List Nat := l.filter (fun x => x != k)

/-- Replace the first element that satisfies p by f of it. -/
def modFirst {α : Type} (p : α → Bool) (f : α → α) : List α → List α
  | [] => []
  | x :: t => if p x then f x :: t else x :: modFirst p f t

end Sys2Proof.Machine
end

