-- ==== Sys2Proof/Machine/State.lean ====
section
/-! DEFINITION. The state of the V9: plain data, everything the spec gives the machine.

The warp that issues, its core, its team and its context stand in State itself (fields w, core, team, ctx); all the
others stand in lists beside them. An operation that changes to another warp exchanges them. -/

namespace Sys2Proof.Machine

open Sys2Proof

/-- Why the machine stops. -/
inductive Fault where
  /-- Raised by MemEvents.writeApplied when a write's line lies outside both memory ranges of 03 R31. No program reaches
  it: a walk refuses such a frame (R40). Safe. -/
  | noMemory (pa : Nat)
  deriving DecidableEq, Repr

/-- Why an instruction has no meaning. -/
inductive Refusal where
  /-- Raised only by an arm of Dispatch.exec for an instruction without a meaning yet. Safe. -/
  | notModelled (mnemonic : String)
  deriving DecidableEq, Repr

/-- The five classes of outstanding operations (00 R5). -/
inductive Cls where
  | ld | st | cp | tl | cl
  deriving DecidableEq, Repr

/-- The kind of an access that a page's permissions are judged for (03 R40). -/
inductive Acc where
  | read | write | atomic | fetch
  deriving DecidableEq, Repr

/-- A raised cause (16 R344): its code, TSUB, TADDR, the INFO field of TINFO and TMASK. -/
structure Cause where
  code  : Nat
  tsub  : Nat := 0
  taddr : W64 := 0
  info  : Nat := 0
  tmask : W32 := 0
  deriving DecidableEq, Repr

/-- The six trap registers that delivery writes together (16 R343). -/
structure TrapRegs where
  tcause : W64 := 0
  tpc    : W64 := 0
  taddr  : W64 := 0
  tmask  : W64 := 0
  tsub   : W64 := 0
  tinfo  : W64 := 0
  deriving DecidableEq, Repr

/-- What a page walk found (03 R40): the leaf, or the failing condition and its level. -/
inductive WalkRes where
  | leaf (l : W64)
  | fail (why level : Nat)
  deriving DecidableEq, Repr

/-- A split of a warp (14 R302, R308; save record of 16 R360). -/
structure Split where
  num    : Nat := 0
  pc     : W64 := 0
  active : W32 := 0
  /-- privileged mode (16 R345) -/
  priv   : Bool := false
  /-- a user handler is active in the split (16 R346) -/
  userH  : Bool := false
  /-- a supervisor handler is active in the split -/
  supH   : Bool := false
  /-- the next instruction runs without the watch check (16 R347) -/
  skip   : Bool := false
  /-- parked at the RCV of a stack entry (14 R310) -/
  rcv    : Bool := false
  /-- issue time of the instruction the split is parked at -/
  since  : Option Nat := none
  /-- when a parked MWAIT times out (06 R135); and the dictionary index of a parked MWAIT, QPOP or QPEEK that a DICT
  performed (02 R20) -/
  deadline : Option Nat := none
  dict   : Option Nat := none
  /-- the scalar operands that a parked instruction read at its issue (05 R101, 06 R130, R135, 09 R195, 14 R329) -/
  arg    : List W64 := []
  /-- the place a parked QPOP, QPEEK or JCDEAL took in its order of issue (08 R189, 14 R325) -/
  place  : Option Nat := none
  /-- a remote access of the instruction at pc: 1 its translation is asked of the remote chip, 2 answered (06 R117) -/
  xlat   : Nat := 0
  /-- YIELD: not ready at the next issue opportunity (14 R306) -/
  yielded : Bool := false
  /-- the model's own: found still parked or interlocked since its lane last issued (07 R153) -/
  tried  : Bool := false
  /-- stopped by the debugger (16 R355) -/
  stopped : Bool := false
  /-- address of the store whose WATCH was delivered last in the split (16 R347) -/
  watchPc : Option W64 := none
  /-- fresh walks of the instruction at pc: VA[56:18] and result (03 R45) -/
  fresh  : List (Nat × WalkRes) := []
  deriving DecidableEq, Repr

/-- An entry of the reconvergence stack (14 R309); arrived: the members parked at ADDR. -/
structure Entry where
  members : W32
  defer   : W32 := 0
  av      : Bool := false
  addr    : W64 := 0
  defpc   : W64 := 0
  /-- where the merged split continues: after the RCV, or after the DICT that named it (02 R18) -/
  resume  : W64 := 0
  /-- mode of the split that divided -/
  dpriv   : Bool := false
  arrived : W32 := 0
  deriving DecidableEq, Repr

/-- The functions of 06 R122 on a location, shared by atomics and reductions. -/
inductive Rmw where
  | add | min | max | minn | maxn | and | or | xor | xch | cas | fadd | faddp | inc | dec
  deriving DecidableEq, Repr

/-- One thread's access of a load: address, size, and where it is performed. -/
inductive Place where
  /-- global memory at a physical address; l1: the lease class lets it use the core's L1 (06 R106, R107) -/
  | mem (pa : Nat) (lc : Nat) (pr : Bool) (va : Nat)
  /-- a remote chip's memory -/
  | remote (rank : Nat) (pa : Nat) (pr : Bool)
  /-- data read, on its way to the registers -/
  | got (bytes : List Byte) (pois : Bool)
  deriving DecidableEq, Repr

/-- How the bytes of a load become register values (06 R120). -/
inductive Ext where
  | zero | sign
  deriving DecidableEq, Repr

/-- A thread's part of a vector load. -/
structure LoadPart where
  t     : Nat
  place : Place
  deriving DecidableEq, Repr

/-- A result of a returning atomic: thread, old value, poison. -/
structure AtomRes where
  t   : Nat
  old : W32
  poi : Bool
  deriving DecidableEq, Repr

/-- What an outstanding operation is. -/
inductive OpKind where
  /-- a load: size in bytes, extension, first destination register, by (reads at home), acquire, parts -/
  | load (size : Nat) (ext : Ext) (reg : Nat) (byHome acq : Bool) (parts : List LoadPart)
  /-- a returning atomic: destination register, results so far -/
  | atomic (reg : Nat) (res : List AtomRes)
  /-- writes waiting for their acknowledgements -/
  | write
  /-- an operation that completed when it issued (scratchpad and scalar accesses, TDLD) -/
  | now
  /-- a record of a chain: chain slot, sequence number -/
  | record (chain seq : Nat)
  /-- an Orrery walk: walk id -/
  | walk (id : Nat)
  /-- an output-routine-unit operation: its number -/
  | output (k : Nat)
  /-- an attention request: its number -/
  | attn (k : Nat)
  /-- a collective: its number -/
  | coll (k : Nat)
  deriving DecidableEq, Repr

/-- An outstanding operation of a warp (06 R127, R128). -/
structure Op where
  id    : Nat
  cls   : Cls
  /-- its number among the warp's operations of its class, from 1 -/
  ord   : Nat := 0
  kind  : OpKind
  /-- registers, and their threads, that still await this operation's data (06 R127, 07 R143) -/
  dests : List (Nat × W32) := []
  /-- the threads of each of those registers whose data it brings -/
  mask  : W32 := 0
  /-- writes not yet acknowledged -/
  pend  : Nat := 0
  /-- completed (06 R128) -/
  done  : Bool := false
  wct   : Nat := 0
  /-- flags that join FPX when the operation retires (11 R252) -/
  exc   : BitVec 5 := 0
  /-- the routine handle (11 R241) or the handler table (10 R220) that the operation names -/
  hnd   : W64 := 0
  fail  : Option Cause := none
  deriving DecidableEq, Repr

/-- A failure of a retired operation, kept until a wait reports it (05 R101): class, the operation's ordinal in
its class, its chain and sequence where it has one, the cause. -/
structure Failure where
  id    : Nat
  cls   : Cls
  ord   : Nat
  chain : Option (Nat × Nat) := none
  cause : Cause
  deriving DecidableEq, Repr

/-- The HWAIT latch of a warp (10 R221; 16 R360). -/
structure Latch where
  addr   : W64
  sd     : Nat
  sa     : W64
  cohort : Nat
  depth  : Nat
  next   : W64
  deriving DecidableEq, Repr

/-- The upcall active in a warp (10 R223, R227). -/
structure Upcall where
  walk    : W64
  slot    : Nat
  unit    : Nat
  seq     : Nat
  kind    : Nat
  sealed  : Bool := false
  revoked : Bool := false
  cursor  : Nat := 0
  addr    : Nat := 0
  /-- stage position of a produce upcall -/
  pos     : Nat := 0
  deriving DecidableEq, Repr

/-- A cancel upcall that waits for its warp to park in one of the walk's cohorts (10 R234): walk id, and the entry
of each cohort, and the time of its OPOST. -/
structure Cancel where
  walk    : W64
  posted  : Nat
  entries : List (Nat × W64)
  deriving DecidableEq, Repr

/-- An entry of a warp's walk list (10 R225). -/
structure WalkEntry where
  id    : W64
  /-- the completion word and the time it was written, once the walk has ended -/
  word  : Option (W64 × Nat) := none
  deriving DecidableEq, Repr

/-- A warp (07 R140 to R150). Tables list what differs from the default 0; v is keyed 32 × register + thread. -/
structure Warp where
  uid    : Nat := 0
  core   : Nat := 0
  slot   : Nat := 0
  lane   : Nat := 0
  /-- number of the saved core context that holds the warp, when switched out (16 R358) -/
  saved  : Option Nat := none
  team   : Nat := 0
  wid    : Nat := 0
  /-- the dawn warp of slot 255 (08 R185) -/
  dawn   : Bool := false
  ended  : Bool := false
  /-- resident slot not yet freed (14 R303) -/
  slotHeld : Bool := true
  cur    : Split := {}
  others : List Split := []
  /-- number of the split that had the warp's last turn (07 R153) -/
  lastSplit : Nat := 0
  /-- the model's own: the step of the warp's most recent issue (07 R144) -/
  lastIssue : Nat := 0
  stack  : List Entry := []
  v      : List (Nat × W32) := []
  /-- poison bits by register, bit t for thread t -/
  vp     : List (Nat × W32) := []
  /-- registers with a live entry of the vector file (07 R143) -/
  bound  : List Nat := []
  /-- registers that stand in the warp's save record after MSPILL (16 R357) -/
  spilled : List Nat := []
  s      : List (Nat × W64) := []
  k      : List (Nat × W32) := []
  td     : List (Nat × Desc) := []
  fz     : Bool := false
  fn     : Bool := false
  fc     : Bool := false
  fv     : Bool := false
  blocks : Nat := 0
  part   : W64 := 32
  rnd    : W64 := 1
  flush  : W64 := 0
  fpx    : W64 := 0
  fpe    : W64 := 0
  tvec   : W64 := 0
  trap   : TrapRegs := {}
  frame  : TrapRegs := {}
  ah     : Nat := 0
  wmax   : Nat := 0
  /-- the armed monitor: virtual address of the line, physical line, woken (06 R134) -/
  mon    : Option (W64 × Nat × Bool) := none
  ops    : List Op := []
  /-- operations issued in each class, LD ST CP TL CL -/
  issued : List (Nat × Nat) := []
  fails  : List Failure := []
  /-- asynchronous WATCH events not yet delivered (16 R354) -/
  watchEvents : List Cause := []
  latch  : Option Latch := none
  upcall : Option Upcall := none
  walks  : List (Nat × WalkEntry) := []
  cancels : List Cancel := []
  /-- number of the collective the warp's last COLL joined (13 R283) -/
  collNo : Nat := 0
  deriving DecidableEq, Repr

/-- A team barrier or Meridian group (14 R327); dj is signed. -/
structure Barrier where
  gen : W32 := 0
  m   : Nat := 0
  a   : Nat := 0
  dj  : Int := 0
  /-- a generation left no members (14 R328) -/
  emptied : Bool := false
  deriving DecidableEq, Repr

/-- A pending upcall of a cohort (10 R222). -/
structure Pending where
  slot : Nat
  unit : Nat
  kind : Nat
  /-- stage position of a produce upcall -/
  pos  : Nat
  deriving DecidableEq, Repr

/-- A line held in the speculation buffer (06 R137): bytes of the line and granules poisoned. -/
structure SpecLine where
  line  : Nat
  bytes : List Host.Cell := []
  clean : List Nat := []
  pois  : List Nat := []
  /-- the pages through which its stores were translated: first VA, size as a power of two (03 R46) -/
  pages : List (Nat × Nat) := []
  deriving DecidableEq, Repr

/-- One warp's arrival at a COLL of its team (13 R283): destination, source, control word, barrier object, class,
FPE, operation. -/
structure CollArrival where
  warp : Nat
  k    : Nat
  dd   : Desc
  da   : Desc
  ctl  : W64
  obj  : W64
  ec   : Nat
  fpe  : BitVec 5
  op   : Nat
  priv : Bool
  deriving DecidableEq, Repr

/-- A team (14 R302, R303). -/
structure Team where
  uid     : Nat := 0
  launch  : Nat := 0
  asid    : Nat := 0
  index   : Nat := 0
  core    : Nat := 0
  saved   : Option Nat := none
  nwarp   : Nat := 1
  nteam   : Nat := 1
  csize   : Nat := 1
  pgen    : Nat := 1
  /-- LAUNCH and CHIP (07 R150) -/
  launchId : W64 := 0
  chip    : Nat := 0
  /-- fabric chip ids by chip rank of the launch's group (03 R35, 13 R279) -/
  chips   : List Nat := [0]
  /-- the table of the launch's own group 0 in mode 1; its implicit group in mode 2 (13 R278, R299) -/
  group   : W64 := 0
  xmode   : Nat := 0
  /-- scratchpad allocation: SRAM offset and bytes (06 R114) -/
  sbase   : Nat := 0
  ssize   : Nat := 0
  spec    : Bool := false
  specLines : List SpecLine := []
  barriers : List (Nat × Barrier) := []
  /-- dictionary address and length (02 R18) -/
  dict    : W64 := 0
  dictn   : Nat := 0
  /-- cohort parking lists, warps in order of parking, and pending upcalls (10 R221, R222) -/
  cohorts : List (Nat × List Nat) := []
  pending : List (Nat × Pending) := []
  arrivals : List CollArrival := []
  /-- collectives handed to the service (13 R283) -/
  collNo  : Nat := 0
  collOrds : List (Nat × Nat) := []
  retired : Bool := false
  deriving DecidableEq, Repr

/-! ## Engine work -/

/-- Why engine work failed (05 R101, R102): sub-code, DETAIL, and the cause that its wait raises. -/
structure EFail where
  sub    : Nat
  detail : Nat
  cause  : Cause
  deriving DecidableEq, Repr

/-- Where a command record stands: not started; started, its debit not covered; waiting for the scheduler or a
shoot-down; performed, its completion not written (05 R81, R84). -/
inductive RecPhase where
  | queued | paying | waiting | done
  deriving DecidableEq, Repr

/-- A record appended to a chain and not yet completed (05 R79, R85). -/
structure Rec where
  seq   : Nat
  idx   : Nat
  /-- issuing warp, its operation and its team -/
  warp  : Option Nat := none
  op    : Nat := 0
  team  : Option Nat := none
  /-- mode of the split that issued it: U is not judged for privileged work (03 R40) -/
  priv  : Bool := false
  /-- issued by FOLD, SCAN, ZIP or OUTER (11 R253) -/
  instr : Bool := false
  /-- its control word came with a nonzero OP field (11 R250) -/
  opBad : Bool := false
  rnd   : Nat := 1
  fpe   : BitVec 5 := 0
  phase : RecPhase := .queued
  /-- quarter units still to be debited; pieces of 64 KiB of its checking pass, read in all, written (05 R84) -/
  cost  : Nat := 0
  plan  : Nat × Nat × Nat := (0, 0, 0)
  /-- the record's dwords and its descriptors as the engine read them at its start (05 R83, R88) -/
  dws   : List W64 := []
  ds    : List Desc := []
  /-- what the checking pass read, row by row or chunk by chunk (05 R96) -/
  els   : Option (List (List Nat)) := none
  /-- step of a tier migration and the shoot-down it waits for -/
  part  : Nat := 0
  shoot : Nat := 0
  /-- bytes of the destination released so far, in its order (05 R84, R96) -/
  moved : Nat := 0
  /-- the leaves through which it translates, by VA div 2^18, from its first byte on (05 R100) -/
  leaves : List (Nat × W64) := []
  wct   : Nat := 0
  exc   : BitVec 5 := 0
  fail  : Option EFail := none
  deriving DecidableEq, Repr

/-- A bound chain slot (05 R77, R78). -/
structure Chain where
  engine  : Nat := 0
  /-- the host queue it is bound to (17 R365) -/
  host    : Option Nat := none
  priv    : Bool := false
  nseg    : Nat := 1
  head    : Nat := 0
  tail    : Nat := 0
  nextSeq : Nat := 2
  annex   : W64 := 0
  cwAddr  : W64 := 0
  segBase : W64 := 0
  /-- a record of this binding has failed (05 R82) -/
  failed  : Bool := false
  recs    : List Rec := []
  deriving DecidableEq, Repr

/-- An entry of a handler table (10 R219). -/
structure HEntry where
  present : Bool := false
  cohort  : Nat := 0
  entry   : W64 := 0
  deriving DecidableEq, Repr

/-- A registered routine (11 R238, R242). -/
structure Routine where
  words : List W32
  width : Nat
  assoc : Bool
  comm  : Bool
  ident : List W32
  gen   : Nat
  deriving DecidableEq, Repr

/-- An operation queued at a core's output routine unit (11 R250). -/
structure OutOp where
  op    : Nat
  warp  : Nat
  team  : Nat
  asid  : Nat
  priv  : Bool
  fn    : Nat
  hnd   : W64
  ctl   : W64
  eh    : W64
  dd    : Desc
  da    : Desc
  db    : Desc
  ec    : Nat
  rnd   : Nat
  fpe   : BitVec 5
  started : Bool := false
  cost  : Nat := 0
  done  : Bool := false
  exc   : BitVec 5 := 0
  fail  : Option EFail := none
  deriving DecidableEq, Repr

/-! ## Orrery walks -/

/-- A direct source or sink as OPOST read it (09 R208). -/
structure Direct where
  desc    : Desc
  bstride : Nat
  meta_   : Nat
  mstride : Nat
  deriving DecidableEq, Repr

/-- The states of a stage position (10 R224). -/
inductive StageSt where
  | idle | requested | given | sealed
  deriving DecidableEq, Repr

/-- The states of a delivery slot (10 R224). -/
inductive SlotSt where
  | free | pending | delivered
  deriving DecidableEq, Repr

/-- A stage position, or a delivery slot's upcall: its step or tile, raise time, re-raise, number and warp of the
delivered upcall, the warp a re-raise avoids. -/
structure Stage where
  st     : StageSt := .idle
  step   : Nat := 0
  raised : Nat := 0
  retry  : Bool := false
  num    : Nat := 0
  warp   : Nat := 0
  avoid  : Option Nat := none
  /-- quarter units a direct fill still owes for its present pass; what the checking pass of a layout 3 source read, row by
  row (09 R209; 05 R96) -/
  cost   : Nat := 0
  seen   : Option (List (List Nat)) := none
  deriving DecidableEq, Repr

/-- A unit of a walk (09 R201 to R204). -/
structure UnitS where
  next    : Nat := 0
  running : Bool := false
  paid    : Bool := false
  /-- stage positions, by operand × 16 + position -/
  stages  : List (Nat × Stage) := []
  /-- the model's own: the step at which the unit's next step became ready but for its debit (09 R213) -/
  readyAt : Option Nat := none
  /-- the current tile failed its checks twice (09 R215) -/
  marked  : Bool := false
  /-- the tile whose last step is complete waits for its conversion -/
  ready   : Bool := false
  slot    : SlotSt := .free
  /-- the tile in the delivery slot, its mark, and its upcall -/
  tile    : Nat := 0
  ig      : Bool := false
  up      : Stage := {}
  deriving DecidableEq, Repr

/-- A walk in a slot (09 R192 to R199). -/
structure WalkS where
  slot   : Nat
  serial : Nat
  rec_   : List W64
  asid   : Nat
  team   : Nat
  warp   : Nat
  priv   : Bool
  op     : Nat
  posted : Nat
  tab    : List HEntry := []
  a      : Option Direct := none
  b      : Option Direct := none
  c      : Option Direct := none
  started : Bool := false
  units  : List UnitS := []
  /-- last sequence number delivered -/
  seq    : Nat := 0
  ig     : Bool := false
  nint   : Nat := 0
  tiles  : Nat := 0
  stall  : Nat := 0
  /-- the warps that have served it -/
  served : List Nat := []
  wct    : Nat := 0
  /-- stopped: RS, sub-code, DETAIL, cause; the completion word is still to be written -/
  ended  : Option (Bool × EFail) := none
  deriving DecidableEq, Repr

/-! ## Attention and collectives -/

/-- A page group of an attention request (12 R273, R275). -/
structure AttnGroup where
  page  : Nat
  /-- the unit of the page's home stack that serves it; 128: the spec names none (the page is not in HBM) -/
  unit  : Nat
  absent : Bool := false
  /-- the record of Ablas's chain that is to migrate it; 0: none requested (12 R275) -/
  mig   : Nat := 0
  done  : Bool := false
  deriving DecidableEq, Repr

/-- A tier migration on Ablas's privileged chain of a die (12 R275; 05 R99): context and page, its step (0 to be started,
1 M set, 2 copied) and the shoot-down it waits for. -/
structure AblasRec where
  die   : Nat
  seq   : Nat
  asid  : Nat
  va    : Nat
  part  : Nat := 0
  shoot : Nat := 0
  deriving DecidableEq, Repr

/-- An attention request (12 R271 to R276). -/
structure Attn where
  id     : Nat
  serial : Nat
  die    : Nat
  asid   : Nat
  warp   : Nat
  priv   : Bool
  op     : Nat
  ec     : Nat
  req    : List W64
  vbase  : Nat
  slog   : Nat
  groups : List AttnGroup
  cost   : Nat := 0
  merged : Bool := false
  /-- the copy engine that merged -/
  eng    : Nat := 0
  wct    : Nat := 0
  fail   : Option EFail := none
  deriving DecidableEq, Repr

/-- A collective handed to the service (13 R283 to R289). -/
structure Coll where
  id     : Nat
  team   : Nat
  asid   : Nat
  k      : Nat
  arr    : List CollArrival
  handed : Nat
  /-- the group: its directory number, or 256 + the launch for group 0; and how many earlier collectives this team has
  handed over on it -/
  gkey   : Nat
  ord    : Nat
  started : Bool := false
  /-- WID 0 of its team, to which watch events of its writes go (16 R354) -/
  lead   : Option Nat := none
  /-- the group as the hand-over found it (13 R296): its table is bound and well formed, the team is a rank of it; own rank,
  position of each rank, the signature, fabric chip and team index of each rank -/
  bound  : Bool := false
  member : Bool := false
  rank   : Nat := 0
  pos    : List Nat := []
  sig    : W64 := 0
  chips  : List Nat := []
  teams  : List Nat := []
  sw     : Bool := false
  /-- its contribution: the source's bytes by row, with their poison -/
  raw    : List (Byte × Bool) := []
  /-- words of computed tree nodes, by height × 8192 + position (13 R286) -/
  nodes  : List (Nat × List W32) := []
  wrote  : Bool := false
  done   : Bool := false
  wct    : Nat := 0
  fail   : Option EFail := none
  deriving DecidableEq, Repr

/-! ## Launches -/

/-- A dealt range of record indices: first and count (14 R324). -/
abbrev Range := Nat × Nat

/-- A job card (14 R323) and what is left to deal (R324). -/
structure Job where
  entry  : W64
  recs   : W64
  rsz    : Nat
  min    : Nat
  spec   : Bool
  central : Range
  reserves : List (Nat × List Range) := []
  deriving DecidableEq, Repr

/-- An accepted launch (14 R311 to R318). -/
structure Launch where
  id     : Nat
  part   : Nat
  queue  : Nat
  seq    : Nat
  asid   : Nat
  accepted : Nat
  kimg   : W64
  entry  : Nat
  regs   : Nat
  dictn  : Nat
  dict   : Nat
  dawn   : Nat
  scratch : Nat
  warps  : Nat
  csize  : Nat
  prio   : Nat
  nteams : Nat
  deps   : List (W64 × W64)
  crec   : W64
  cookie : Nat
  args   : W64
  /-- the placement map as judged: a core, or none for ANY; empty for no map (R319) -/
  places : List (Option Nat)
  group  : W64
  xmode  : Nat
  priv   : Bool := false
  job    : Option Job := none
  /-- TEAM numbers this chip runs -/
  share  : List Nat
  /-- how many of them have been placed -/
  placed : Nat := 0
  retired : Nat := 0
  /-- WCTs to outlast before the first placement (R304) -/
  after  : Nat := 0
  /-- replicated start (13 R299): chips, chips that have accepted, generation, start time, originating sequence -/
  chips  : List Nat := [0]
  oks    : List Nat := []
  gen    : Nat := 0
  start  : Option Nat := none
  /-- the chip that replicated the packet here -/
  origin : Option Nat := none
  released : Bool := false
  aborted : Bool := false
  complete : Bool := false
  /-- since when it has been an eligible head that could not place a team (R316) -/
  blocked : Option Nat := none
  /-- latest WCT of its retired warps (R318) -/
  wct    : Nat := 0
  /-- memory when its first team was placed: what instruction paths may still hold (02 R15) -/
  code   : List Host.Cell := []
  deriving DecidableEq, Repr

/-- A packet that has reached a launch queue: its context, address, and the record that carried it. -/
structure Packet where
  asid  : Nat
  addr  : W64
  chain : Option (Nat × Nat) := none
  /-- pushed by a privileged split (03 R40) -/
  priv  : Bool := false
  /-- WCT of the host's writes before its doorbell (R304) -/
  wct   : Nat := 0
  deriving DecidableEq, Repr

/-- A launch queue of a partition (14 R312). -/
structure LQueue where
  part   : Nat
  num    : Nat
  asid   : Nat := 0
  host   : Option Nat := none
  cw     : W64 := 0
  ring   : W64 := 0
  size   : Nat := 0
  tail   : Nat := 0
  nextSeq : Nat := 2
  /-- highest sequence up to which every launch has completed; completed ones above it, with their failure flag -/
  done   : Nat := 1
  above  : List (Nat × Bool) := []
  packets : List Packet := []
  deriving DecidableEq, Repr

/-- A cached translation (03 R43): ASID, first VA of its page, page size as a power of two, leaf. -/
structure TlbEntry where
  asid : Nat
  va   : Nat
  size : Nat
  leaf : W64
  deriving DecidableEq, Repr

/-- A line of a core's L1 (06 R106): address, grant time, expiry, data and granule poison at the grant. -/
structure L1Line where
  line  : Nat
  g     : Nat
  x     : Nat
  bytes : List Host.Cell
  pois  : List Nat
  bar   : List Nat := []
  deriving DecidableEq, Repr

/-- A miss waiting for a page walker or walked (03 R44): the splits that wait for it. -/
structure Walk where
  id   : Nat
  die  : Nat
  asid : Nat
  va   : Nat
  started : Bool := false
  res  : Option WalkRes := none
  /-- the splits, as warp and number, whose miss started it or was queued with it; and those whose miss was merged into it
  after it had read the tables -/
  waiters : List (Nat × Nat) := []
  late    : List (Nat × Nat) := []
  deriving DecidableEq, Repr

/-- Who wrote (16 R354's KIND, 0 for a core). -/
structure Writer where
  kind : Nat := 0
  eng  : Nat := 0x7F
  rank : Nat := 0
  seq  : Nat := 0
  /-- the warp that issued the writing operation, where there is one -/
  warp : Option Nat := none
  asid : Nat := 0
  deriving DecidableEq, Repr

/-- A part of a write to one line: bytes stored, or one thread's read-modify-write (4 bytes). -/
inductive WPart where
  | store (pa : Nat) (bytes : List Byte) (pois : Bool)
  | rmw (pa : Nat) (fn : Rmw) (x y : W32) (t : Nat)
  deriving DecidableEq, Repr

/-- A write on its way to, or applied at, the home slice of its line (06 R104, R110). -/
structure Write where
  id     : Nat
  /-- issuing warp and operation -/
  warp   : Nat
  op     : Nat
  rank   : Option Nat := none
  line   : Nat
  parts  : List WPart
  by_    : Writer := {}
  spec   : Bool := false
  applied : Option Nat := none
  deriving DecidableEq, Repr

/-- The state of a dawn slot (08 R188). -/
inductive DawnState where
  | free | loaded | running | faulted
  deriving DecidableEq, Repr

/-- An entry of a dawn queue (08 R189): 32 values and their poison bits. -/
structure QEntry where
  vals : List W32
  pois : W32
  deriving DecidableEq, Repr

/-- The dawn slot of a core context (08 R185 to R190). -/
structure Dawn where
  st     : DawnState := .free
  /-- the owning team -/
  owner  : Nat := 0
  /-- image address, extended blocks XB, and address of the first parcel -/
  image  : W64 := 0
  xb     : Nat := 0
  /-- the fault of the dawn warp: cause, TSUB, TINFO, address of the dawn instruction -/
  fault  : Cause := { code := 0 }
  ftinfo : W64 := 0
  fpc    : W64 := 0
  /-- the dawn warp -/
  uid    : Nat := 0
  queues : List (Nat × List QEntry) := []
  deriving DecidableEq, Repr

/-- A request of XACQ waiting for its grant (07 R142): warp, split, blocks. -/
structure XReq where
  warp  : Nat
  split : Nat
  n     : Nat
  deriving DecidableEq, Repr

/-- A core and the core context it runs. -/
structure Core where
  num   : Nat := 0
  /-- scratchpad bytes and poisoned granules by SRAM offset (06 R114, R115, R119) -/
  sram  : List Host.Cell := []
  sp    : List Nat := []
  /-- accumulator store (09 R206): bytes and poisoned granules by offset -/
  acc   : List Host.Cell := []
  ap    : List Nat := []
  /-- parts of 512 KiB whose contents were lost, with the step of the loss: their bytes are free until written (10 R234) -/
  lost  : List (Nat × Nat) := []
  /-- parts of the stage windows that a team may access now: team, first scratchpad address, bytes (10 R224) -/
  windows : List (Nat × Nat × Nat) := []
  tlb   : List TlbEntry := []
  l1    : List L1Line := []
  xq    : List XReq := []
  /-- the slot of the warp that issued last in a lane (07 R153); the lanes that gave their last opportunity to an
  instruction of a class below the limiter's level (17 R378) -/
  turns : List (Nat × Nat) := []
  low   : List Nat := []
  dawn  : Dawn := {}
  /-- SPILL: virtual address of the core context's save area (16 R360) -/
  spill : W64 := 0
  /-- walk slots and count of walks accepted in this core context (09 R195, R196) -/
  walks : List WalkS := []
  serial : Nat := 0
  /-- queue of the output routine unit (11 R250) -/
  outq  : List OutOp := []
  /-- switch-outs of this core context (16 R360), and its placement time -/
  switches : Nat := 0
  placed : Nat := 0
  deriving DecidableEq, Repr

/-- What belongs to a core's Orrery itself rather than to a core context (09 R203, R216, R217), and the state of a
dusk switch (16 R358): 0 none, 1 requested, 2 exchanging, with the saved context to come in. -/
structure Orrery where
  core   : Nat
  fenced : List Nat := []
  steps  : Nat := 0
  testing : Bool := false
  last   : Nat := 0
  switch : Nat := 0
  incoming : Option Nat := none
  deriving DecidableEq, Repr

/-- A switched-out core context (16 R358 to R361). -/
structure Saved where
  id    : Nat
  core  : Core
  tsave : Nat
  /-- RES: its spill is finished -/
  res   : Bool := false
  deriving DecidableEq, Repr

/-- A watched range of a context (16 R352): watchpoint index, virtual address, bytes, and its mapped pieces as
(virtual address, physical address, bytes). -/
structure WatchRange where
  idx   : Nat
  va    : Nat
  len   : Nat
  units : List (Nat × Nat × Nat)
  deriving DecidableEq, Repr

/-- A context (00 R2): address space, tenant, privileged runtime. -/
structure Ctx where
  live   : Bool := false
  asid   : Nat := 0
  tenant : Nat := 0
  part   : Nat := 0
  /-- physical address of the level-1 table (03 R36) -/
  root   : Nat := 0
  ktvec  : W64 := 0
  dbgctl : W64 := 0
  watch  : List WatchRange := []
  watchCount : Nat := 0
  /-- Meridian groups Ablas granted (14 R327) -/
  groups : List Nat := []
  /-- what MFS reads as ASID (07 R150) -/
  asidReg : W64 := 0
  /-- EBUD (09 R212): RATE before the limiter's scaling, and LEVEL -/
  ebudRate  : Nat := 0
  ebudLevel : Nat := 0
  /-- the µs of device time whose refill LEVEL has had (09 R212) -/
  ebudTime  : Nat := 0
  /-- bound chain slots, and the address of the chain table (05 R78) -/
  chains : List (Nat × Chain) := []
  ctBase : Nat := 0
  /-- live handler tables (10 R220) -/
  htabs  : List (Nat × List HEntry) := []
  /-- registered routines by IDX, and registrations of each IDX so far (11 R242) -/
  routines : List (Nat × Routine) := []
  rgens  : List (Nat × Nat) := []
  /-- handle table (12 R257): base and entries; group directory (13 R278) -/
  htBase : Nat := 0
  htSize : Nat := 0
  gdBase : Nat := 0
  /-- the process-group tables that Ablas has bound for its launches: address, launch, chip and team of each rank (13 R279) -/
  bound  : List (Nat × Nat × List (Nat × Nat)) := []
  /-- frames of the KV pool (12 R261); addresses of free save areas (16 R360) -/
  pool   : List Nat := []
  savePool : List Nat := []
  /-- kernel images launched (17 R375): address, header, and what the context's memory held then -/
  images : List (Nat × List Byte × List Host.Cell) := []
  deriving DecidableEq, Repr

/-- The quarters of a partition (03 R31). -/
structure PartRange where
  quarter : Nat := 0
  count   : Nat := 4
  deriving DecidableEq, Repr

/-- Another chip's context of the same process group as a context of this chip (03 R35): the ASID here, its partition's
quarters there, its leaves by VA div 2^18. -/
structure ChipCtx where
  asid   : Nat
  range  : PartRange := {}
  leaves : List (Nat × W64) := []
  deriving DecidableEq, Repr

/-- Another chip of the fabric domain, as far as this chip's accesses reach it (03 R35, 06 R117). -/
structure Chip where
  id     : Nat
  reachable : Bool := true
  ctxs   : List ChipCtx := []
  mem    : List Host.Cell := []
  mp     : List Nat := []
  lexp   : List (Nat × Nat) := []
  deriving DecidableEq, Repr

/-- A shoot-down in progress (03 R46): the page or ASID it names (none: every ASID of the partition), the accesses
it waits for, the lines of held speculative stores and the records (context, chain, sequence number) it waits for, the WCT that must pass, who waits for it, and the frames
that are cleared and freed when it is complete (03 R49). -/
structure Shoot where
  id     : Nat
  part   : Nat := 0
  asid   : Option Nat
  va     : Option Nat
  ops    : List (Nat × Nat) := []
  writes : List Nat := []
  held   : List (Nat × Nat) := []
  recs   : List (Nat × Nat × Nat) := []
  wct    : Nat := 0
  frees  : List Nat := []
  done   : Bool := false
  who    : Option (Nat × Nat) := none
  deriving DecidableEq, Repr

/-- A granule of a state that a snapshot has not copied yet (12 R267): context, its address, where the copy goes. -/
structure Snap where
  asid : Nat
  va   : Nat
  dst  : Nat
  deriving DecidableEq, Repr

/-- A partition (17 R370, R371): its quarters, SRAM split in KiB of scratchpad (06 R114), service cores per die
(13 R293), pre-emption delay in ns (14 R316). -/
structure Part where
  range   : PartRange := {}
  split   : Nat := 768
  service : Nat := 2
  delay   : Nat := 50000
  /-- placement stopped by PART_MERGE (17 R371) -/
  quiesced : Bool := false
  /-- time of the balancer's last round (14 R326) -/
  balanced : Nat := 0
  /-- time of the latest division of EBUD among its contexts (17 R378) -/
  divided : Nat := 0
  deriving DecidableEq, Repr

/-- A prefix in force (02 R24, R27). -/
structure Pfx where
  k   : Nat
  rm  : Nat
  z   : Bool
  vc  : Nat
  sat : Bool
  deriving DecidableEq, Repr

/-- A host queue (17 R365, R366). -/
structure HostQ where
  num    : Nat
  asid   : Nat
  part   : Nat
  launch : Bool
  slot   : Nat
  hcw    : Nat
  vec    : Nat
  deriving DecidableEq, Repr

/-- A merge being drained (17 R371). -/
structure Merge where
  tag : Nat
  p1 : Nat
  p2 : Nat
  deadline : Nat
  deriving DecidableEq, Repr

/-- A response of Ablas (17 R367): opcode, tag, status, detail, results. -/
structure Resp where
  opc    : Nat
  tag    : Nat := 0
  status : Nat := 0
  detail : Nat := 0
  res    : List W64 := []
  deriving DecidableEq, Repr

/-- A command whose response waits for shoot-downs (17 R367; 03 R46): its response, the shoot-downs' numbers, the
partitions whose quiesce it lifts. -/
structure Busy where
  resp   : Resp
  shoots : List Nat
  lift   : List Nat := []
  deriving DecidableEq, Repr

/-- What the limiter of a die has measured (17 R378): since when the package power has been above the cap, since when power and
junction have both been below their limits; whether the junction stood above its own at the last reading. -/
structure Limit where
  above : Option Nat := none
  below : Option Nat := none
  hot   : Bool := false
  deriving DecidableEq, Repr

/-- What Ablas and the endpoint keep (17 R364 to R378). -/
structure Device where
  /-- DSTATE: BOOT, SEC, PWR, TRIP -/
  boot   : Nat := 0
  sec    : Nat := 0
  pwr    : Nat := 0
  trip   : Bool := false
  /-- the power state before Park was entered is left by POWER_SET; doorbells held meanwhile: queue, tail, records -/
  held   : List (Nat × Nat × List (List W64)) := []
  admBase : W64 := 0
  admTail : Nat := 0
  admHead : Nat := 0
  resps  : List Resp := []
  busy   : Option Busy := none
  /-- the owner key that provisioning supplied (17 R369) -/
  ownerKey : List Byte := []
  hostqs : List HostQ := []
  /-- the physical ranges that Ablas has opened through BAR2, one behind another: host queue, address, bytes (17 R364) -/
  opened : List (Nat × Nat × Nat) := []
  /-- host memory as the device wrote it, and MSI-X vectors signalled, newest first -/
  hostMem : List Host.Cell := []
  msix   : List Nat := []
  /-- dropped doorbells (17 R365), and the latest WCT of the host's writes into rings (14 R304, 15 R336) -/
  dropped : Nat := 0
  hostWct : Nat := 0
  /-- records of the admin ring that no command matches: position and dword 0 (17 R367) -/
  unknown : List (Nat × W64) := []
  merge  : Option Merge := none
  /-- power cap in W, heat capacity in J/(kg K), limiter level of each die (17 R378) -/
  cap    : Nat := 2100
  heatCap : Nat := 4180
  level0 : Nat := 0
  level1 : Nat := 0
  /-- what the limiter of each die has measured -/
  limits : List (Nat × Limit) := []
  /-- the trip from which a die has not cooled: its time, its die -/
  tripTime : Option Nat := none
  tripDie : Nat := 0
  /-- nonce of the latest ATTEST, tenants an Invasive session covers (17 R372, R374) -/
  nonce  : Option W64 := none
  tenants : List Nat := []
  /-- corrected and uncorrected Orrery errors (09 R215) -/
  orrc   : Nat := 0
  orru   : Nat := 0
  /-- self-test interval (09 R216) -/
  interval : Nat := 1048576
  /-- physical frames of 256 KiB that Ablas has given out -/
  used   : List Nat := []
  /-- frames that have lost their last mapping; they go to the shoot-down that the same command starts (03 R46, R49) -/
  doomed : List Nat := []
  /-- serial of attention requests on each die, round robin of the units of each stack (12 R270, R276) -/
  serial0 : Nat := 0
  serial1 : Nat := 0
  rr     : List (Nat × Nat) := []
  /-- the chain of which a copy engine started a record last, as 64 × ASID + slot (05 R81) -/
  engTurns : List (Nat × Nat) := []
  /-- replicated launches this chip has originated (13 R299) -/
  repl   : Nat := 0
  /-- fabric chip id of this chip, and chips no route reaches (13 R296) -/
  chipId : Nat := 0
  cut    : List Nat := []
  /-- the fabric map (13 R279, R296): how often it was rerouted, and the positions that it gave the ranks on some chips -/
  reroutes : Nat := 0
  trees  : List (List Nat × List Nat) := []
  deriving DecidableEq, Repr

/-- What is known of the instruction being performed: its address (of its PFX or DICT), the next PC, its word, its
prefix, its dictionary index (02 R20, R28). -/
structure Issue where
  addr    : W64 := 0
  next    : W64 := 0
  word    : W32 := 0
  pfx     : Option Pfx := none
  /-- reported as prefixed (TINFO.P) -/
  p       : Bool := false
  dict    : Option Nat := none
  /-- the instruction has completed -/
  retired : Bool := false
  deriving DecidableEq, Repr

/-- What a step is about. -/
inductive Turn where
  /-- a split issues one instruction: core, resident slot, split number -/
  | issue (core slot split : Nat)
  /-- an indivisible step of another agent (95) -/
  | event (e : Instr)
  /-- nothing but time -/
  | idle
  deriving DecidableEq, Repr

/-- The machine. -/
structure State where
  /-- device time in ns (00 R1) -/
  time   : Nat := 0
  /-- the model's own: steps so far, the argument of the free values -/
  tick   : Nat := 0
  /-- the model's own: next unused number for warps, teams, operations, writes -/
  nextId : Nat := 1
  /-- the model's own: what the next steps are about; empty: the model's default order -/
  agenda : List Turn := []
  /-- the model's own: last issue, for the default order -/
  last   : Nat × Nat × Nat := (0, 0, 0)
  ix     : Issue := {}
  /-- the issuing warp, its core, team and context; the others in lists -/
  w      : Warp := {}
  core   : Core := {}
  team   : Team := {}
  ctx    : Ctx := {}
  ws     : List Warp := []
  cores  : List Core := []
  teams  : List Team := []
  ctxs   : List Ctx := []
  parts  : List Part := []
  /-- physical memory (03 R31): bytes that differ from 0, by physical address -/
  mem    : List Host.Cell := []
  /-- poisoned 64-byte granules of memory, by address div 64 (03 R34) -/
  mp     : List Nat := []
  /-- LEXP of lines, by line address div 128 (06 R105) -/
  lexp   : List (Nat × Nat) := []
  writes : List Write := []
  walkQ  : List Walk := []
  shoots : List Shoot := []
  /-- other chips -/
  chips  : List Chip := []
  orrs   : List Orrery := []
  saves  : List Saved := []
  attns  : List Attn := []
  ablas  : List AblasRec := []
  snaps  : List Snap := []
  colls  : List Coll := []
  launches : List Launch := []
  queues : List LQueue := []
  dev    : Device := {}
  /-- corrected errors counted by Ablas (03 R34, 17 R377) -/
  corrected : Nat := 0
  uncorrected : Nat := 0
  /-- Meridian groups, by partition × 256 + group (14 R327) -/
  meridian : List (Nat × Barrier) := []
  dtlb0  : List TlbEntry := []
  dtlb1  : List TlbEntry := []
  /-- debug state: 0 Off, 1 Observe, 2 Invasive (17 R364, R374) -/
  dbgs   : Nat := 0
  /-- Ablas's error log, newest first: cause, TPC, core (16 R348) -/
  errLog : List (Nat × W64 × Nat) := []
  /-- the debug log, newest first (16 R355) -/
  dbgLog : List (Nat × TrapRegs) := []
  deriving DecidableEq, Repr

/-- The machine right after reset (17 R369). -/
def State.reset : State :=
  { w := { ended := true, slotHeld := false }, team := { retired := true } }

end Sys2Proof.Machine
end

