-- ==== Sys2Proof/Machine/Memory.lean ====
section
/-! DEFINITION. Memory (03 R31, R34): bytes that differ from 0 in canonical form, and the poison of 64-byte
granules. An unlisted byte reads 0 (notes/assumptions/1.md). -/

namespace Sys2Proof.Machine

open Sys2Proof

/-- What a byte that nothing has written reads as (DESIGN CHOICE, notes/assumptions/1.md). -/
def memDefault : Byte := 0

/-- Read one byte. -/
def memRead (m : List Host.Cell) (a : Nat) : Byte := tabGet memDefault a m

/-- Write one byte; a default byte is not listed. -/
def memWrite (m : List Host.Cell) (a : Nat) (b : Byte) : List Host.Cell := tabSet memDefault a b m

/-- Canonical form: addresses strictly rising, no listed byte equal to the default. -/
def Memory.wf : List Host.Cell → Bool
  | [] => true
  | [(_, b)] => b != memDefault
  | (a, b) :: (a', b') :: t => b != memDefault && decide (a < a') && Memory.wf ((a', b') :: t)

/-- Read n bytes, the lowest address first. -/
def memBytes (m : List Host.Cell) (a : Nat) : Nat → List Byte
  | 0 => []
  | n + 1 => memRead m a :: memBytes m (a + 1) n

/-- Write a list of bytes, the lowest address first. -/
def memPut (m : List Host.Cell) (a : Nat) : List Byte → List Host.Cell
  | [] => m
  | b :: bs => memPut (memWrite m a b) (a + 1) bs

/-- Read an n-byte little-endian number (00 R3). -/
def memNat (m : List Host.Cell) (a n : Nat) : Nat := ofBytes (memBytes m a n)

/-- Whether a physical address names memory (03 R31). -/
def memExists (pa : Nat) : Bool :=
  decide (pa ≤ 0x7FFFFFFFFF) || (decide (0x10000000000 ≤ pa) && decide (pa ≤ 0x27FFFFFFFFF))

/-- Whether any granule of n bytes at an address is poisoned. -/
def granPoisoned (mp : List Nat) (a n : Nat) : Bool :=
  mp.any (fun g => decide (a / 64 ≤ g) && decide (g ≤ (a + n - 1) / 64))

/-- The granules that n bytes touch. -/
def granules (a n : Nat) : List Nat :=
  if n = 0 then [] else (List.range ((a + n - 1) / 64 + 1 - a / 64)).map (· + a / 64)

/-- Poison granules. -/
def poisonGrans (gs : List Nat) (mp : List Nat) : List Nat := gs.foldl (fun m g => setIns g m) mp
/-- Clear granules. -/
def cleanGrans (gs : List Nat) (mp : List Nat) : List Nat := gs.foldl (fun m g => setDel g m) mp

/-- One piece of a write: address, bytes, poisoned. -/
abbrev Piece := Nat × List Byte × Bool

/-- The bytes after a write of pieces in order: a later piece wins (06 R112). -/
def putPieces (m : List Host.Cell) (ps : List Piece) : List Host.Cell :=
  ps.foldl (fun m p => memPut m p.1 p.2.1) m

/-- Whether byte a lies in a piece. -/
def pieceHas (p : Piece) (a : Nat) : Bool := decide (p.1 ≤ a) && decide (a < p.1 + p.2.1.length)

/-- Whether clean pieces cover the whole granule g (06 R119). -/
def granCovered (ps : List Piece) (g : Nat) : Bool :=
  (List.range 64).all (fun i => ps.any (fun p => pieceHas p (64 * g + i)))

/-- The granules a write's pieces touch. -/
def pieceGrans (ps : List Piece) : List Nat := ps.flatMap (fun p => granules p.1 p.2.1.length)

/-- Poison after a write (06 R119): a poisoned piece poisons every granule it touches; clean pieces that cover a
whole granule clear it; otherwise it stays. -/
def putPoison (mp : List Nat) (ps : List Piece) : List Nat :=
  let bad := pieceGrans (ps.filter (fun p => p.2.2))
  let clean := (pieceGrans ps).filter (fun g => !bad.contains g && granCovered ps g)
  poisonGrans bad (cleanGrans clean mp)

end Sys2Proof.Machine
end

