-- ==== Sys2Proof/Machine/Walks.lean ====
section
/-! DEFINITION. Page tables as a walk reads them (03 R36 to R40), and writes at home that wake monitors (01 R10; 06 R135). -/

namespace Sys2Proof.Machine

open Sys2Proof

/-! ## Leaves (03 R38) -/

def leafPresent (l : W64) : Bool := l.getLsbD 0
def leafRead (l : W64) : Bool := l.getLsbD 1
def leafWrite (l : W64) : Bool := l.getLsbD 2
def leafExec (l : W64) : Bool := l.getLsbD 3
def leafUser (l : W64) : Bool := l.getLsbD 4
def leafTier (l : W64) : Bool := l.getLsbD 5
def leafLC (l : W64) : Nat := bits l.toNat 7 6
def leafPR (l : W64) : Bool := l.getLsbD 8
def leafSZ (l : W64) : Nat := bits l.toNat 10 9
def leafM (l : W64) : Bool := l.getLsbD 11
def leafSC (l : W64) : Nat := bits l.toNat 19 12
def leafFrame (l : W64) : Nat := bits l.toNat 53 20

/-- The size of a leaf's page as a power of two (03 R38). -/
def pageSize (l : W64) : Nat := match leafSZ l with
  | 0 => 18 | 1 => 24 | _ => 30

/-- The physical address of a virtual address under a leaf (03 R39). -/
def leafPA (l : W64) (va : Nat) : Nat := leafFrame l * 2 ^ 18 + va % 2 ^ pageSize l

/-- The first failing condition of a leaf's own bits (03 R40): reserved bits, SZ, LC, low FRAME bits, SC. -/
def leafMalformed (l : W64) : Bool :=
  bits l.toNat 63 54 != 0 || leafSZ l == 3 || leafLC l == 3
  || (leafSZ l == 1 && leafFrame l % 64 != 0) || (leafSZ l == 2 && leafFrame l % 4096 != 0) || leafSC l == 0

/-- Whether a physical address lies in a partition's ranges (03 R31): quarters [q, q + n). -/
def inQuarters (q n pa : Nat) : Bool :=
  (decide (q * 0x2000000000 ≤ pa) && decide (pa < (q + n) * 0x2000000000))
  || (decide (0x10000000000 + q * 0x6000000000 ≤ pa) && decide (pa < 0x10000000000 + (q + n) * 0x6000000000))

/-! ## Walks (03 R36 to R40) -/

/-- A three-level walk from a root (03 R36, R37, R40), reading memory at home. A poisoned granule of a
table is read as its bytes stand (log 121, DESIGN CHOICE). -/
def pageWalk (m : List Host.Cell) (r : PartRange) (root va : Nat) : WalkRes :=
  let e1 := memNat m (root + bits va 56 44 * 8) 8
  if !bit e1 0 then .fail 1 1
  else if bits e1 63 52 != 0 || bits e1 15 1 != 0 then .fail 2 1
  else if !inQuarters r.quarter r.count (bits e1 51 16 * 2 ^ 16) then .fail 3 1
  else
    let e2 := memNat m (bits e1 51 16 * 2 ^ 16 + bits va 43 31 * 8) 8
    if !bit e2 0 then .fail 1 2
    else if bits e2 63 52 != 0 || bits e2 15 1 != 0 then .fail 2 2
    else if !inQuarters r.quarter r.count (bits e2 51 16 * 2 ^ 16) then .fail 3 2
    else
      let e3 := w64 (memNat m (bits e2 51 16 * 2 ^ 16 + bits va 30 18 * 8) 8)
      if !leafPresent e3 then .fail 1 3
      else if leafMalformed e3 then .fail 2 3
      else if !inQuarters r.quarter r.count (leafFrame e3 * 2 ^ 18) then .fail 3 3
      else .leaf e3

/-- The quarters of a context's partition; a context of no partition sees the whole package. -/
def rangeOf (parts : List Part) (c : Ctx) : PartRange :=
  match parts.find? (fun p => p.range.quarter == c.part) with
  | some p => p.range
  | none => {}

/-- A walk made in line: by an engine, the scheduler, the save machinery (03 R45: never a stale entry). -/
def ctxWalk (s : State) (c : Ctx) (va : Nat) : WalkRes :=
  if 2 ^ 57 ≤ va then .fail 0 0 else pageWalk s.mem (rangeOf s.parts c) c.root va

/-- The physical address of a virtual address of a context by a walk in line, whatever its permissions. -/
def ctxPA (s : State) (c : Ctx) (va : Nat) : Option Nat :=
  match ctxWalk s c va with
  | .leaf l => some (leafPA l va)
  | .fail _ _ => none

/-! ## Writes at home and monitors -/

/-- Every write applied to a line wakes the monitors on it (06 R135). -/
def wakeMonitors (line : Nat) (s : State) : State :=
  let f := fun (w : Warp) => match w.mon with
    | some (va, l, _) => if l = line then { w with mon := some (va, l, true) } else w
    | none => w
  { s with w := f s.w, ws := s.ws.map f }

/-- A write to many lines wakes the monitors on them. -/
def wakeLines (p : Nat → Bool) (s : State) : State :=
  let f := fun (w : Warp) => match w.mon with
    | some (va, l, _) => if p l then { w with mon := some (va, l, true) } else w
    | none => w
  { s with w := f s.w, ws := s.ws.map f }

/-- A write to a frame wakes the monitors on it. -/
def wakeFrame (f : Nat) (s : State) : State := wakeLines (fun l => l / 2 ^ 11 == f) s

/-- The lines of n bytes at a physical address. -/
def linesOf (pa n : Nat) : List Nat := (List.range ((pa + n + 127) / 128 - pa / 128)).map (· + pa / 128)

/-- Bytes written at home by the machine itself: every monitor on their lines wakes (01 R10). -/
def putHome (pa : Nat) (bs : List Byte) (s : State) : State :=
  (linesOf pa bs.length).foldl (fun s l => wakeMonitors l s) { s with mem := memPut s.mem pa bs }

/-- The address of a warp's record in its core context's save area (16 R360). -/
def warpRecord (spill : W64) (slot : Nat) : Nat := spill.toNat + 0x328000 + 0x10000 * slot

end Sys2Proof.Machine
end

