-- ==== Sys2Proof/Machine/Ops.lean ====
section
/-! DEFINITION. The named operations over registers, splits and traps: what every meaning is built from. -/

namespace Sys2Proof.Machine

open Sys2Proof

/-! ## Registers (07 R140 to R149) -/

/-- s0 reads 0 (07 R147). -/
def Warp.sGet (w : Warp) (n : Nat) : W64 := if n = 0 then 0 else tabGet 0 n w.s
/-- A write to s0 is discarded. -/
def Warp.sSet (w : Warp) (n : Nat) (x : W64) : Warp := if n = 0 then w else { w with s := tabSet 0 n x w.s }
/-- k0 reads all ones (07 R149). -/
def Warp.kGet (w : Warp) (n : Nat) : W32 := if n = 0 then 0xFFFFFFFF else tabGet 0 n w.k
/-- A mask write changes the bits of m only; k0 ignores writes. -/
def Warp.kSet (w : Warp) (n : Nat) (m x : W32) : Warp :=
  if n = 0 then w else { w with k := tabSet 0 n ((tabGet 0 n w.k &&& ~~~m) ||| (x &&& m)) w.k }
/-- Thread t's value of v[r]. -/
def Warp.vGet (w : Warp) (r t : Nat) : W32 := tabGet 0 (32 * r + t) w.v
/-- The poison bits of v[r]. -/
def Warp.vPois (w : Warp) (r : Nat) : W32 := tabGet 0 r w.vp
/-- Thread t's poison bit of v[r]. -/
def Warp.pGet (w : Warp) (r t : Nat) : Bool := inMask (w.vPois r) t
/-- A tile descriptor register (05 R87). -/
def Warp.tdGet (w : Warp) (n : Nat) : Desc := tabGet 0 n w.td
def Warp.tdSet (w : Warp) (n : Nat) (x : Desc) : Warp := { w with td := tabSet 0 n x w.td }

/-- The values of v[r] after the threads of m are written. -/
def vPut (v : List (Nat × W32)) (r : Nat) (m : W32) (x : Nat → W32) : List (Nat × W32) :=
  (maskThreads m).foldl (fun v t => tabSet 0 (32 * r + t) (x t) v) v

/-- No older load keeps the threads of m of register r as its destination (07 R143). -/
def dropDest (r : Nat) (m : W32) (ops : List Op) : List Op :=
  ops.map (fun o => { o with dests := o.dests.map (fun p => if p.1 = r then (p.1, p.2 &&& ~~~m) else p) })

/-- Write the threads of m of v[r], poison included (07 R143: binds the register). -/
def Warp.vSet (w : Warp) (r : Nat) (m : W32) (x : Nat → W32) (poi : W32) : Warp :=
  { w with
    v := vPut w.v r m x
    vp := tabSet 0 r ((w.vPois r &&& ~~~m) ||| (poi &&& m)) w.vp
    bound := setIns r w.bound
    ops := dropDest r m w.ops }

/-- Whether the warp holds register r (07 R140). -/
def Warp.holds (w : Warp) (r : Nat) : Bool := decide (r < 32 + 16 * w.blocks)

/-- Whether register r awaits the data of an outstanding load (06 R127). -/
def Warp.awaits (w : Warp) (r : Nat) : Bool := w.ops.any (fun o => o.dests.any (fun p => p.1 == r && p.2 != 0))

/-- Whether the warp has an outstanding operation that will write register r in any thread. -/
def Warp.anyAwaits (w : Warp) (rs : List Nat) : Bool := rs.any w.awaits

/-! ## The special registers' fields -/

def Warp.mode (w : Warp) : Nat := w.rnd.toNat % 8
def Warp.fi (w : Warp) : Bool := w.flush.getLsbD 0
def Warp.fo (w : Warp) : Bool := w.flush.getLsbD 1

/-- The live splits of a warp, the current one first. -/
def Warp.splits (w : Warp) : List Split := (w.cur :: w.others).filter (fun p => p.active != 0)

/-- Whether a handler is active in a split (16 R342). -/
def Split.handler (p : Split) : Bool := p.userH || p.supH

/-- The lowest free split number (14 R307, R308). -/
def freeNum (ps : List Split) : Nat :=
  ((List.range 4).find? (fun n => !ps.any (fun p => p.num == n))).getD 4

/-- Outstanding operations of a class (00 R5). -/
def Warp.count (w : Warp) (c : Cls) : Nat := (w.ops.filter (fun o => o.cls == c)).length

def Cls.index : Cls → Nat
  | .ld => 0 | .st => 1 | .cp => 2 | .tl => 3 | .cl => 4

/-! ## Changing parts of the state -/

def State.modW (s : State) (f : Warp → Warp) : State := { s with w := f s.w }
def State.modCur (s : State) (f : Split → Split) : State := { s with w := { s.w with cur := f s.w.cur } }

/-- The issuing split's active threads. -/
def State.active (s : State) : W32 := s.w.cur.active

/-- The instruction completes: the split continues at the next instruction. -/
def finish (s : State) : State :=
  { s with
    w := { s.w with cur := { s.w.cur with pc := s.ix.next, fresh := [], since := none, place := none, deadline := none, arg := [], skip := false, xlat := 0 } }
    ix := { s.ix with retired := true } }

/-- A transfer of control: the split continues at a target. -/
def finishAt (target : W64) (s : State) : State := finish { s with ix := { s.ix with next := target } }

/-- The split parks at this instruction, which is performed again when the split is next considered (16 R358: its
PC stays). -/
def parkHere (s : State) : State :=
  s.modCur (fun p => { p with since := some (p.since.getD s.time) })

/-- The scalar operands of an instruction that may park: as its split read them when it issued. -/
def sampled (xs : List W64) (s : State) : List W64 := if s.w.cur.arg.isEmpty then xs else s.w.cur.arg

/-- The split parks, keeping the scalar operands it has read. -/
def parkWith (xs : List W64) (s : State) : State := (parkHere s).modCur (fun p => { p with arg := xs })

/-- An instruction that may wait several times keeps the scalar operands it has read until it ends. -/
def keeping (xs : List W64) (s : State) (k : State → State) : State := k (s.modCur (fun p => { p with arg := xs }))

/-! ## Ended splits and warps (14 R303, R307; 16 R342) -/

/-- Put a list of splits back into a warp; without splits the warp has no thread left. -/
def Warp.putSplits (w : Warp) : List Split → Warp
  | [] => { w with cur := { w.cur with active := 0, userH := false, supH := false, priv := false }, others := [] }
  | p :: ps => { w with cur := p, others := ps }

/-- Merge entry e: the parked threads become one split after the RCV (14 R310); ps are the warp's splits. -/
def mergeSplits (e : Entry) (ps : List Split) : List Split :=
  let mine := ps.filter (fun p => p.rcv && (p.active &&& ~~~e.arrived) == 0)
  let rest := ps.filter (fun p => !(p.rcv && (p.active &&& ~~~e.arrived) == 0))
  let base : Split := match mine with
    | [] => { num := freeNum rest, priv := e.dpriv }
    | p :: t => t.foldl (fun q x => if x.num < q.num then x else q) p
  { base with
    pc := e.resume, active := e.members, rcv := false, since := none, place := none, fresh := []
    userH := base.userH || mine.any (·.userH), supH := base.supH || mine.any (·.supH) } :: rest

/-- Deferred threads that no other member of their entry can hold up run (14 R307), newest entry first. -/
def releaseDeferred : List Entry → List Split → List Entry × List Split
  | [], ps => ([], ps)
  | e :: es, ps =>
    if e.defer ≠ 0 ∧ (e.members &&& ~~~e.defer &&& ~~~e.arrived) = 0 then
      let q : Split := { num := freeNum ps, pc := e.defpc, active := e.defer, priv := e.dpriv }
      let r := releaseDeferred es (ps ++ [q])
      ({ e with defer := 0 } :: r.1, r.2)
    else
      let r := releaseDeferred es ps
      (e :: r.1, r.2)

/-- Entries whose members are all parked at their ADDR merge and pop (14 R307, R310). -/
def mergeComplete : List Entry → List Split → List Entry × List Split
  | [], ps => ([], ps)
  | e :: es, ps =>
    if e.av ∧ e.defer = 0 ∧ (e.members &&& ~~~e.arrived) = 0 then mergeComplete es (mergeSplits e ps)
    else
      let r := mergeComplete es ps
      (e :: r.1, r.2)

/-- The stack after threads X have exited (14 R307). -/
def stackWithout (x : W32) (st : List Entry) : List Entry :=
  (st.map (fun e => { e with members := e.members &&& ~~~x, defer := e.defer &&& ~~~x, arrived := e.arrived &&& ~~~x })).filter
    (fun e => e.members != 0)

/-- A slot is freed once its warp has ended and its LD and ST counts are 0 (14 R303). -/
def Warp.freeSlot (w : Warp) : Warp :=
  if w.ended && w.count .ld == 0 && w.count .st == 0 then { w with slotHeld := false } else w

/-- EXIT of the current split (14 R307); a handler active in it ends (16 R342). -/
def Warp.exitCur (w : Warp) : Warp :=
  let st := stackWithout w.cur.active w.stack
  let r := releaseDeferred st (w.others.filter (fun p => p.active != 0))
  let m := mergeComplete r.1 r.2
  let w' : Warp :=
    if w.cur.userH then { w with tvec := w.tvec &&& ~~~1#64, frame := {} } else w
  { w' with stack := m.1, ended := m.2.isEmpty }.putSplits m.2

/-- Every split of a warp ends (16 R348), and its slot is freed as by EXIT. -/
def Warp.exitAll (w : Warp) : Warp :=
  ({ w with
    stack := [], ended := true
    tvec := if (w.cur :: w.others).any (·.userH) then w.tvec &&& ~~~1#64 else w.tvec
    frame := {} }.putSplits []).freeSlot

/-! ## The user frame (16 R346, R360) -/

/-- The six trap registers in the order of a record, and back. -/
def TrapRegs.dws (r : TrapRegs) : List W64 := [r.tcause, r.tpc, r.taddr, r.tmask, r.tsub, r.tinfo]
def TrapRegs.ofDws (f : Nat → W64) : TrapRegs :=
  { tcause := f 0, tpc := f 1, taddr := f 2, tmask := f 3, tsub := f 4, tinfo := f 5 }

/-- Where the user frame of a warp record stands in memory (16 R360); none where no page of the area is mapped: the frame is in
Warp.frame then (log 122, DESIGN CHOICE). -/
def recordFrame (s : State) (c : Ctx) (spill : W64) (slot : Nat) : Option Nat :=
  if spill = 0 then none else ctxPA s c (warpRecord spill slot + 0x4440)

/-- The user frame of the issuing warp. -/
def framePA (s : State) : Option Nat := recordFrame s s.ctx s.core.spill s.w.slot

/-- The user frame is written. -/
def saveFrame (r : TrapRegs) (s : State) : State :=
  let s1 := { s with w := { s.w with frame := r } }
  match framePA s with
  | some pa => putHome pa (r.dws.flatMap (fun x => toBytes 8 x.toNat)) s1
  | none => s1

/-- A user frame as it stands: in memory, or the one given. -/
def frameAt (s : State) (pa : Option Nat) (r : TrapRegs) : TrapRegs := match pa with
  | some pa => TrapRegs.ofDws (fun i => w64 (memNat s.mem (pa + 8 * i) 8))
  | none => r

/-- The user frame of the issuing warp as it stands. -/
def loadFrame (s : State) : TrapRegs := frameAt s (framePA s) s.w.frame

/-! ## Traps (16 R341 to R348) -/

/-- TVEC.ADDR ≠ 0 and TVEC.BUSY = 0 (16 R343). -/
def tvecReady (tvec : W64) : Bool := bits tvec.toNat 56 1 != 0 && !tvec.getLsbD 0

/-- TCAUSE (16 R343). -/
def tcauseWord (async nest : Bool) (dest split : Nat) (pm : Bool) (code : Nat) : W64 :=
  w64 (bitOf async * 2 ^ 15 + bitOf nest * 2 ^ 14 + dest * 2 ^ 12 + split * 2 ^ 9 + bitOf pm * 2 ^ 8 + code)

/-- TINFO (02 R20): D, P, IDX and INFO. -/
def tinfoWord (ix : Issue) (info : Nat) : W64 :=
  w64 (bitOf ix.dict.isSome * 2 ^ 63 + bitOf ix.p * 2 ^ 62 + (ix.dict.getD 0) * 2 ^ 52 + info % 2 ^ 52)

/-- The six trap registers of a cause. -/
def trapRegsOf (ix : Issue) (c : Cause) (tpc : W64) (async nest : Bool) (dest split : Nat) (pm : Bool) : TrapRegs :=
  { tcause := tcauseWord async nest dest split pm c.code
    tpc := tpc, taddr := c.taddr, tmask := c.tmask.setWidth 64, tsub := w64 c.tsub, tinfo := tinfoWord ix c.info }

/-- Whether a cause is one of those that a user handler may receive (16 R344): TRAP, MWAIT_TIMEOUT, ARITH. -/
def userCause (code : Nat) : Bool := code == 0x0A || code == 0x09 || code == 0x0C

/-- Where a cause goes (16 R346). -/
inductive Dest where
  | tvec | ktvec | debugger | double
  deriving DecidableEq, Repr

def trapDest (s : State) (c : Cause) : Dest :=
  if (c.code = 0x0B ∨ c.code = 0x10) ∧ s.ctx.dbgctl.getLsbD 0 then .debugger
  else if userCause c.code ∧ !s.w.cur.priv ∧ tvecReady s.w.tvec then .tvec
  else if s.w.cur.priv ∨ s.ctx.ktvec = 0 then .double
  else .ktvec

/-- The team's warps among the other warps. -/
def State.modTeamWarps (s : State) (f : Warp → Warp) : State :=
  { s with w := f s.w, ws := s.ws.map (fun x => if x.team = s.w.team ∧ !x.dawn then f x else x) }

/-- A double trap (16 R348): the team is terminated, each warp ends as by EXIT and its upcall with it; Ablas logs
it. -/
def doubleTrap (c : Cause) (tpc : W64) (s : State) : State :=
  let s1 := s.modTeamWarps Warp.exitAll
  { s1 with errLog := (c.code, tpc, s.core.num) :: s1.errLog }

/-- A fault of the dawn warp (08 R190): the slot is Faulted; nothing traps in the dawn warp. -/
def dawnFault (c : Cause) (s : State) : State :=
  { s with
    core := { s.core with dawn := { s.core.dawn with
      st := .faulted, fault := c, ftinfo := tinfoWord s.ix c.info, fpc := s.ix.addr } }
    w := { s.w with cur := { s.w.cur with stopped := true } } }

/-- Whether an Invasive session may read and change a tenant's contexts (17 R372). -/
def sessionNames (s : State) (tenant : Nat) : Bool := s.dbgs == 2 && (s.dev.sec == 0 || s.dev.tenants.contains tenant)

/-- The debugger receives an event (16 R355): Observe logs it and the split goes on; Invasive stops the split, and
with STOPT every warp of the team. A context that the session may not change goes on as in Observe
(notes/assumptions/116.md, DESIGN CHOICE). -/
def toDebugger (c : Cause) (tpc : W64) (async : Bool) (s : State) : State :=
  let r := trapRegsOf s.ix c tpc async false 2 s.w.cur.num s.w.cur.priv
  let s1 := { s with w := { s.w with trap := r }, dbgLog := (s.core.num, r) :: s.dbgLog }
  if sessionNames s s.ctx.tenant then
    let s2 := s1.modCur (fun p => { p with stopped := true })
    if s.ctx.dbgctl.getLsbD 2 then
      s2.modTeamWarps (fun w => { w with
        cur := { w.cur with stopped := true }, others := w.others.map (fun p => { p with stopped := true }) })
    else s2
  else if async ∨ c.tsub = 0x200 ∧ c.code = 0x0B then s1
  else if c.code = 0x10 then s1.modCur (fun p => { p with skip := true })
  else finish s1

/-- Deliver a cause with a given TPC (16 R346). A split whose warp has a handler active in another split parks with
no effect (R342). -/
def deliver (c : Cause) (tpc : W64) (async : Bool) (s : State) : State :=
  if s.w.dawn then dawnFault c s
  else if s.w.others.any Split.handler then parkHere s
  else match trapDest s c with
  | .debugger => toDebugger c tpc async s
  | .double => doubleTrap c tpc s
  | .tvec =>
    { s with w := { s.w with
        trap := trapRegsOf s.ix c tpc async false 0 s.w.cur.num s.w.cur.priv
        tvec := s.w.tvec ||| 1
        cur := { s.w.cur with
          pc := s.w.tvec &&& 0x01FFFFFFFFFFFFFE#64, userH := true, fresh := [], since := none, place := none, deadline := none, arg := [], skip := false, xlat := 0 } } }
  | .ktvec =>
    let s1 := if s.w.cur.userH then saveFrame s.w.trap s else s
    { s1 with w := { s1.w with
        trap := trapRegsOf s.ix c tpc async s.w.cur.userH 1 s.w.cur.num s.w.cur.priv
        cur := { s.w.cur with
          pc := s.ctx.ktvec &&& 0x01FFFFFFFFFFFFFE#64, supH := true, priv := true
          fresh := [], since := none, place := none, deadline := none, arg := [], skip := false, xlat := 0
          watchPc := if c.code = 0x10 ∧ !async then some tpc else s.w.cur.watchPc } } }

/-- TAKING A TRAP (16 R341, R346): the cause at the instruction being performed, TPC its address. -/
def takeTrap (c : Cause) (s : State) : State := deliver c s.ix.addr false s

/-- ILLEGAL with a reason code (02 R20, R22). -/
def illegal (why : Nat) (s : State) : State :=
  takeTrap { code := 0x01, info := why * 2 ^ 32 + s.ix.word.toNat, tmask := s.w.cur.active } s

/-- PRIV (07 R150, 16 R345). -/
def privTrap (s : State) : State := takeTrap { code := 0x02, tmask := s.w.cur.active } s

/-- ALIGN of a branch target (02 R12). -/
def alignTrap (a : W64) (m : W32) (s : State) : State := takeTrap { code := 0x03, taddr := a, tmask := m } s

/-- RETURN FROM A TRAP (16 R347). -/
def eret (s : State) : State :=
  if !s.w.cur.handler then illegal 10 s
  else
    let t := s.w.trap.tpc
    if t.getLsbD 0 then alignTrap t s.w.cur.active s
    else
      let cause := s.w.trap.tcause.toNat
      let dest := bits cause 13 12
      let nest := bit cause 14
      let skip := decide (bits cause 7 0 = 0x10) && !bit cause 15 && decide (s.w.cur.watchPc = some t)
      let w1 : Warp := if dest = 0 then { s.w with tvec := s.w.tvec &&& ~~~1#64 } else s.w
      let w2 : Warp := if dest = 1 ∧ nest then { w1 with trap := loadFrame s } else w1
      let cur : Split := { w2.cur with
        priv := if dest = 1 then bit cause 8 else w2.cur.priv
        userH := if dest = 1 ∨ (dest = 2 ∧ w2.cur.supH) then w2.cur.userH else false
        supH := if dest = 0 then w2.cur.supH else false
        watchPc := none }
      (finishAt t { s with w := { w2 with cur := cur } }).modCur (fun p => { p with skip := skip })

end Sys2Proof.Machine
end

