-- ==== Sys2Proof/Machine/Translate.lean ====
section
/-! DEFINITION. Translation (03 R35 to R48): leaves, permissions, translation caches, page walks, and the judgement
of a memory instruction's threads (R42). -/

namespace Sys2Proof.Machine

open Sys2Proof

/-- PROT's WHY of a permission failure (03 R40), U first; none when the access is permitted. -/
def permWhy (l : W64) (acc : Acc) (priv : Bool) : Option Nat :=
  if !priv && !leafUser l then some 3
  else match acc with
  | .read => if leafRead l then none else some 0
  | .write => if leafWrite l then none else some 1
  | .atomic => if leafRead l && leafWrite l then none else some 5
  | .fetch => if leafExec l then none else some 2

def Acc.code : Acc → Nat
  | .read => 0 | .write => 1 | .atomic => 2 | .fetch => 3

/-- INFO of XLATE and PROT (03 R41). -/
def accInfo (space why level rank : Nat) (acc : Acc) : Nat :=
  space * 2 ^ 36 + why * 2 ^ 32 + level * 2 ^ 28 + rank * 2 ^ 16 + acc.code

/-- The limiter's level for a context: the highest of the dies its partition spans (17 R378). -/
def limiterLevel (s : State) (c : Ctx) : Nat :=
  let r := rangeOf s.parts c
  max (if r.quarter < 2 then s.dev.level0 else 0) (if 2 < r.quarter + r.count then s.dev.level1 else 0)

/-- EBUD's RATE as the limiter scales it (09 R212; 17 R378). -/
def effRate (s : State) (c : Ctx) : Nat := c.ebudRate * (4 - limiterLevel s c) / 4

/-! ## Translation caches (03 R43) -/

def tlbFind (t : List TlbEntry) (asid va : Nat) : Option TlbEntry :=
  t.find? (fun e => e.asid == asid && decide (va / 2 ^ e.size = e.va / 2 ^ e.size))

def tlbDrop (asid va : Nat) (t : List TlbEntry) : List TlbEntry :=
  t.filter (fun e => !(e.asid == asid && decide (va / 2 ^ e.size = e.va / 2 ^ e.size)))

def tlbEntryOf (asid va : Nat) (l : W64) : TlbEntry := ⟨asid, va / 2 ^ pageSize l * 2 ^ pageSize l, pageSize l, l⟩

def State.die (s : State) : Nat := s.core.num / Config.coresPerDie
def State.dtlb (s : State) (die : Nat) : List TlbEntry := if die = 0 then s.dtlb0 else s.dtlb1
def State.setDtlb (s : State) (die : Nat) (t : List TlbEntry) : State :=
  if die = 0 then { s with dtlb0 := t } else { s with dtlb1 := t }

/-- What a translation attempt gives. -/
inductive Tr where
  | ok (l : W64) (pa : Nat)
  | xlate (why level : Nat)
  | prot (why level : Nat)
  /-- a walk is needed before the access can be judged -/
  | walk
  deriving DecidableEq, Repr

/-- Judge a leaf for an access (03 R40, R48): a write to a page under migration waits. -/
def judgeLeaf (l : W64) (acc : Acc) (priv freshly : Bool) (va : Nat) : Tr :=
  match permWhy l acc priv with
  | some why => if freshly then .prot why 3 else .walk
  | none => if leafM l && (acc == .write || acc == .atomic) then .walk else .ok l (leafPA l va)

/-- Translate for the issuing split (03 R35, R43, R45): a failure is raised only after a fresh walk. -/
def translate (s : State) (acc : Acc) (va : W64) : Tr :=
  if 2 ^ 57 ≤ va.toNat then .xlate 0 0
  else match s.w.cur.fresh.find? (fun p => p.1 == va.toNat / 2 ^ 18) with
  | some (_, .fail why level) => .xlate why level
  | some (_, .leaf l) => judgeLeaf l acc s.w.cur.priv true va.toNat
  | none =>
    match tlbFind s.core.tlb s.ctx.asid va.toNat with
    | some e => judgeLeaf e.leaf acc s.w.cur.priv false va.toNat
    | none =>
      match tlbFind (s.dtlb s.die) s.ctx.asid va.toNat with
      | some e => judgeLeaf e.leaf acc s.w.cur.priv false va.toNat
      | none => .walk

/-- Ask for a walk of a page for the issuing split (03 R44, R45): the cached entry is discarded; a walk of the same
page in the queue or in flight is shared; a full queue leaves the split to try again. A miss merged into a walk that has
read the tables takes no failure from it: the split walks again (R45). -/
def askWalk (va : Nat) (s : State) : State :=
  let d := s.die
  let s1 := ({ s with core := { s.core with tlb := tlbDrop s.ctx.asid va s.core.tlb } }).setDtlb d
    (tlbDrop s.ctx.asid va (s.dtlb d))
  let s2 := s1.modCur (fun p => { p with fresh := p.fresh.filter (fun q => q.1 != va / 2 ^ 18) })
  let me := (s.w.uid, s.w.cur.num)
  let same := fun (k : Walk) => k.die == d && k.asid == s.ctx.asid && k.va == va / 2 ^ 18
  let join := fun (k : Walk) =>
    if k.waiters.contains me || k.late.contains me then k
    else if k.res = none then { k with waiters := k.waiters ++ [me] } else { k with late := k.late ++ [me] }
  if s.walkQ.any same then { s2 with walkQ := modFirst same join s.walkQ }
  else if (s.walkQ.filter (fun k => k.die == d)).length ≥ Config.walkers + Config.walkQueue then s2
  else
    { s2 with
      nextId := s.nextId + 1
      walkQ := s.walkQ ++ [{ id := s.nextId, die := d, asid := s.ctx.asid, va := va / 2 ^ 18, waiters := [me] }] }

/-- The split waits for the walks of some pages. -/
def awaitWalks (vas : List Nat) (s : State) : State := parkHere (vas.foldl (fun s va => askWalk va s) s)

/-! ## The judgement of a memory instruction (03 R42) -/

/-- What the judgement of one thread's access gives. -/
inductive Chk where
  | ok (l : W64) (pa : Nat)
  | fail (c : Cause)
  | walk (va : Nat)
  deriving DecidableEq, Repr

/-- One global access (03 R35, R40, R41; 06 R118): poison of the address, ALIGN, XLATE, PROT. -/
def chkGlobal (s : State) (acc : Acc) (size : Nat) (va : W64) (poi : Bool) : Chk :=
  if poi then .fail { code := 0x06, tsub := 4 }
  else if va.toNat % size ≠ 0 then .fail { code := 0x03, taddr := va }
  else match translate s acc va with
  | .ok l pa => .ok l pa
  | .xlate why level => .fail { code := 0x04, taddr := va, info := accInfo 0 why level 0 acc }
  | .prot why level => .fail { code := 0x05, taddr := va, info := accInfo 0 why level 0 acc }
  | .walk => .walk va.toNat

def Chk.cause? : Chk → Option Cause
  | .fail c => some c
  | _ => none

/-- The verdict over the threads of an instruction: the walks still needed, or the lowest failing thread's cause with
every thread that fails with it, or nothing. -/
inductive Verdict where
  | go
  | walks (vas : List Nat)
  | trap (c : Cause)
  deriving DecidableEq, Repr

def verdict (l : List (Nat × Chk)) : Verdict :=
  match l.filterMap (fun p => match p.2 with | .walk va => some va | _ => none) with
  | v :: vs => .walks (v :: vs)
  | [] =>
    match l.findSome? (fun p => p.2.cause?) with
    | some c => .trap { c with tmask := maskOf (fun t => l.any (fun p => p.1 == t && (match p.2 with
        | .fail c' => c'.code == c.code
        | _ => false))) }
    | none => .go

/-- Judge first (03 R42), then act: nothing happens for any thread if one fails. -/
def judged (l : List (Nat × Chk)) (s : State) (k : State → State) : State :=
  match verdict l with
  | .walks vas => awaitWalks vas s
  | .trap c => takeTrap c s
  | .go => k s

/-! ## Registers that stand in the save record after MSPILL (16 R357) -/

/-- Reload one register from the warp's record. -/
def reloadReg (s : State) (r : Nat) : State :=
  let base := warpRecord s.core.spill s.w.slot
  let vals : Nat → W32 := fun t => match ctxPA s s.ctx (base + 128 * r + 4 * t) with
    | some pa => w32 (memNat s.mem pa 4)
    | none => 0
  let poi : W32 := match ctxPA s s.ctx (base + 0x4000 + 4 * r) with
    | some pa => w32 (memNat s.mem pa 4)
    | none => 0
  { s with w := { s.w.vSet r 0xFFFFFFFF vals poi with spilled := setDel r s.w.spilled } }

/-- The registers of an instruction that must be reloaded first. -/
def toReload (w : Warp) (rs : List Nat) : List Nat := w.spilled.filter rs.contains

end Sys2Proof.Machine
end

