-- ==== Sys2Proof/Machine/Fetch.lean ====
section
/-! DEFINITION. Fetching instruction parcels (02 R11, R14, R15, R18) and choosing the split that issues. -/

namespace Sys2Proof.Machine

open Sys2Proof

/-- What a fetch gives: the word and its length in bytes, a trap at the instruction, or a page to walk. -/
inductive Fetched where
  | word (w : Nat) (len : Nat)
  | trap (c : Cause)
  | walk (va : Nat)
  deriving DecidableEq, Repr

/-- Memory as it stood when the issuing warp's launch placed its first team. -/
def oldCode (s : State) : List Host.Cell := ((s.launches.find? (fun l => l.id == s.team.launch)).map (·.code)).getD s.mem

/-- A parcel as the instruction path gives it (02 R15): a line that has been written since the launch was placed is, for each
core and each fetch of it, entirely old or entirely new. -/
def codeParcel (s : State) (pa : Nat) : Nat :=
  let old := memNat (oldCode s) pa 2
  let new := memNat s.mem pa 2
  if old = new then new else if Config.staleLine s.tick s.core.num (pa / 128) then old else new

/-- Fetch the parcel at a virtual address (02 R14): XLATE, PROT, POISON. -/
def fetchParcel (s : State) (va : W64) : Fetched :=
  match translate s .fetch va with
  | .ok l pa =>
    if leafPR l || granPoisoned s.mp pa 2 then .trap { code := 0x06, tsub := 1, taddr := va, tmask := s.w.cur.active }
    else .word (codeParcel s pa) 2
  | .xlate why level =>
    .trap { code := 0x04, taddr := va, info := accInfo 4 why level 0 .fetch, tmask := s.w.cur.active }
  | .prot why level =>
    .trap { code := 0x05, taddr := va, info := accInfo 4 why level 0 .fetch, tmask := s.w.cur.active }
  | .walk => .walk va.toNat

/-- Whether a word, or its first parcel, is that of a PFX, by its major. -/
def isPfxWord (w : Nat) : Bool := w % 2 == 1 && w / 2 % 64 == 0x3E

/-- Whether the first parcel at an address is fetched and is a PFX's. -/
def pfxAt (s : State) (va : W64) : Bool :=
  match fetchParcel s va with
  | .word p _ => isPfxWord p
  | _ => false

/-- Fetch the instruction at an address: bit 0 of its first parcel gives its length (02 R11). -/
def fetchInstr (s : State) (va : W64) : Fetched :=
  match fetchParcel s va with
  | .word p _ =>
    if p % 2 = 0 then .word p 2
    else match fetchParcel s (va + 2) with
      | .word q _ => .word (p + 65536 * q) 4
      | r => r
  | r => r

/-- Fetch a 32-bit dictionary entry (02 R15, R18), both parcels through the instruction path. -/
def fetchEntry (s : State) (va : W64) : Fetched :=
  match fetchParcel s va with
  | .word p _ =>
    match fetchParcel s (va + 2) with
    | .word q _ => .word (p + 65536 * q) 4
    | r => r
  | r => r

/-! ## Changing to another warp -/

/-- Take an element of a list into the current place; the present one joins the list. -/
def swapIn {α : Type} (same : α → Bool) (cur : α) (l : List α) : Option (α × List α) :=
  if same cur then some (cur, l)
  else match l.find? same with
    | some x => some (x, cur :: l.filter (fun y => !same y))
    | none => none

/-- Take the team and context of the current warp into their places. -/
def focusTeam (s : State) : State :=
  let s1 := match swapIn (fun t : Team => t.uid == s.w.team) s.team s.teams with
    | some (t, ts) => { s with team := t, teams := ts }
    | none => s
  match swapIn (fun c : Ctx => c.live && c.asid == s1.team.asid) s1.ctx s1.ctxs with
    | some (c, cs) => { s1 with ctx := c, ctxs := cs }
    | none => s1

/-- Take a core into its place; a core nothing has changed yet stands in its reset state. -/
def focusCore (n : Nat) (s : State) : State :=
  match swapIn (fun c : Core => c.num == n) s.core s.cores with
  | some (c, cs) => { s with core := c, cores := cs }
  | none => { s with core := { num := n }, cores := s.core :: s.cores }

/-- Take a warp into its place, with its core, team and context. -/
def focusWarp (p : Warp → Bool) (s : State) : Option State :=
  match swapIn p s.w s.ws with
  | some (w, ws) => some (focusTeam (focusCore w.core { s with w := w, ws := ws }))
  | none => none

/-- Make a split of the current warp the current one. -/
def focusSplit (n : Nat) (s : State) : Option State :=
  match swapIn (fun p : Split => p.num == n && p.active != 0) s.w.cur s.w.others with
  | some (p, ps) => some { s with w := { s.w with cur := p, others := ps } }
  | none => none

/-- A split may issue: it has threads and is neither parked at an RCV nor stopped by the debugger. -/
def Split.able (p : Split) : Bool := p.active != 0 && !p.rcv && !p.stopped

/-- Whether a warp is resident on a core now. -/
def Warp.resident (w : Warp) : Bool := !w.ended && w.saved == none

/-- The split that a turn names, brought into its place; none when it cannot issue. -/
def focus (core slot split : Nat) (s : State) : Option State :=
  match focusWarp (fun w => w.resident && w.core == core && w.slot == slot) s with
  | some s1 =>
    match focusSplit split s1 with
    | some s2 => if s2.w.cur.able then some s2 else none
    | none => none
  | none => none

/-- The places of all splits that may issue. -/
def ableSplits (s : State) : List (Nat × Nat × Nat) :=
  ((s.w :: s.ws).filter Warp.resident).flatMap (fun w =>
    ((w.cur :: w.others).filter Split.able).map (fun p => (w.core, w.slot, p.num)))

/-- A place as one number, for the order of turns. -/
def placeNo (p : Nat × Nat × Nat) : Nat := (p.1 * 256 + p.2.1) * 8 + p.2.2

/-- The next place in cyclic order after the last issue (07 R153). -/
def nextPlace (last : Nat × Nat × Nat) (l : List (Nat × Nat × Nat)) : Option (Nat × Nat × Nat) :=
  let best := fun (c : List (Nat × Nat × Nat)) =>
    c.foldl (fun (b : Option (Nat × Nat × Nat)) p => match b with
      | none => some p
      | some q => if placeNo p < placeNo q then some p else some q) none
  match best (l.filter (fun p => decide (placeNo last < placeNo p))) with
  | some p => some p
  | none => best l

end Sys2Proof.Machine
end

