-- ==== Sys2Proof/Machine/Float.lean ====
section
/-! DEFINITION. Number formats and rounding (04 R52 to R63, R74, R75): a value is exact until it is rounded
once. Exact values are dyadic: a sign, a natural and a power of two. -/

namespace Sys2Proof.Machine

open Sys2Proof

/-- The exceptions of 04 R60 as the bits of FPX: [4] NX, [3] UF, [2] OF, [1] DZ, [0] NV. -/
abbrev Exc := BitVec 5

def excNone : Exc := 0
def excNV : Exc := 1
def excDZ : Exc := 2
def excOF : Exc := 4
def excUF : Exc := 8
def excNX : Exc := 16

/-- A floating-point format (04 R52, R54). -/
structure FFmt where
  width : Nat
  mant  : Nat
  bias  : Nat
  /-- 1: the format has infinities (all but e4). -/
  inf   : Bool
  deriving DecidableEq, Repr

def fmtF32 : FFmt := ⟨32, 23, 127, true⟩
def fmtBF16 : FFmt := ⟨16, 7, 127, true⟩
def fmtF16 : FFmt := ⟨16, 10, 15, true⟩
def fmtE4 : FFmt := ⟨8, 3, 7, false⟩
def fmtE5 : FFmt := ⟨8, 2, 15, true⟩

/-- What an encoding denotes. -/
inductive FVal where
  | nan (signalling : Bool)
  | inf (neg : Bool)
  /-- (-1)^neg × m × 2^e; m = 0 is a zero of that sign. -/
  | fin (neg : Bool) (m : Nat) (e : Int)
  deriving DecidableEq, Repr

/-- An exact result before its one rounding: sticky adds a positive amount below one unit of m. -/
inductive Exact where
  | nan
  | inf (neg : Bool)
  | fin (neg : Bool) (m : Nat) (e : Int) (sticky : Bool)
  deriving DecidableEq, Repr

/-- A rounded value and the exceptions of its rounding. -/
structure FRes where
  bits : Nat
  exc  : Exc
  deriving DecidableEq, Repr

/-- Exponent bits of a format. -/
def expBits (f : FFmt) : Nat := f.width - 1 - f.mant
/-- The all-ones exponent field. -/
def expOnes (f : FFmt) : Nat := 2 ^ expBits f - 1
/-- The exponent of the smallest normal value. -/
def expMin (f : FFmt) : Int := 1 - (f.bias : Int)
/-- The sign bit's weight. -/
def signBit (f : FFmt) : Nat := 2 ^ (f.width - 1)
/-- The encoding of the largest finite value. -/
def maxFin (f : FFmt) : Nat :=
  if f.inf then expOnes f * 2 ^ f.mant - 1 else expOnes f * 2 ^ f.mant + (2 ^ f.mant - 2)
/-- The largest finite value as an integer times 2^(result.2). -/
def maxFinVal (f : FFmt) : Nat × Int :=
  if f.inf then (2 ^ (f.mant + 1) - 1, (expOnes f : Int) - 1 - f.bias - f.mant)
  else (2 ^ (f.mant + 1) - 2, (expOnes f : Int) - f.bias - f.mant)

/-- The canonical NaN (04 R52, R54). -/
def canonNaN (f : FFmt) : Nat :=
  if f.inf then expOnes f * 2 ^ f.mant + 2 ^ (f.mant - 1) else signBit f - 1

/-- Infinity, or for e4 the NaN of that sign (04 R55). -/
def infBits (f : FFmt) (neg : Bool) : Nat :=
  (if neg then signBit f else 0) + (if f.inf then expOnes f * 2 ^ f.mant else signBit f - 1)

/-- The value of an encoding (04 R52, R54). -/
def fdecode (f : FFmt) (x : Nat) : FVal :=
  let neg := bit x (f.width - 1)
  let e := bits x (f.width - 2) f.mant
  let m := x % 2 ^ f.mant
  if f.inf then
    if e = expOnes f then
      if m = 0 then .inf neg else .nan (!bit m (f.mant - 1))
    else if e = 0 then .fin neg m (expMin f - f.mant)
    else .fin neg (2 ^ f.mant + m) ((e : Int) - f.bias - f.mant)
  else if e = expOnes f ∧ m = 2 ^ f.mant - 1 then .nan false
  else if e = 0 then .fin neg m (expMin f - f.mant)
  else .fin neg (2 ^ f.mant + m) ((e : Int) - f.bias - f.mant)

/-- Whether an encoding is subnormal (nonzero) in its format. -/
def isSubnormal (f : FFmt) (x : Nat) : Bool :=
  bits x (f.width - 2) f.mant == 0 && x % 2 ^ f.mant != 0

/-- FI (04 R63): a subnormal input becomes zero of its sign. -/
def flushIn (fi : Bool) (f : FFmt) (x : Nat) : Nat :=
  if fi && isSubnormal f x then (if bit x (f.width - 1) then signBit f else 0) else x

/-- The part of a discarded remainder relative to half a unit: 0 none, 1 below, 2 half, 3 above. -/
def remClass (r d : Nat) (sticky : Bool) : Nat :=
  if r = 0 then (if sticky then 1 else 0)
  else if 2 * r < d then 1
  else if 2 * r = d then (if sticky then 3 else 2)
  else 3

/-- Whether the magnitude q with that remainder is rounded away from zero (04 R59). -/
def roundsUp (mode : Nat) (neg : Bool) (q rc : Nat) : Bool :=
  match mode with
  | 1 => rc == 3 || (rc == 2 && q % 2 == 1)
  | 2 => false
  | 3 => neg && rc != 0
  | 4 => !neg && rc != 0
  | _ => rc == 2 || rc == 3

/-- m × 2^e (plus sticky) as a whole number of units 2^u, rounded, and whether that was inexact. -/
def roundUnits (mode : Nat) (neg : Bool) (m : Nat) (e u : Int) (sticky : Bool) : Nat × Bool :=
  if u ≤ e then
    let q := m * 2 ^ (e - u).toNat
    (if roundsUp mode neg q (remClass 0 2 sticky) then q + 1 else q, sticky)
  else
    let d := 2 ^ (u - e).toNat
    let q := m / d
    let rc := remClass (m % d) d sticky
    (if roundsUp mode neg q rc then q + 1 else q, rc != 0)

/-- Whether the mode and sign give an infinity on overflow (04 R59). -/
def overflowsToInf (mode : Nat) (neg : Bool) : Bool :=
  match mode with
  | 2 => false
  | 3 => neg
  | 4 => !neg
  | _ => true

/-- FO (04 R63): a subnormal result becomes zero of its sign and raises UF and NX. -/
def flushOut (fo : Bool) (f : FFmt) (r : FRes) : FRes :=
  if fo && isSubnormal f r.bits then
    ⟨if bit r.bits (f.width - 1) then signBit f else 0, r.exc ||| excUF ||| excNX⟩
  else r

/-- RoundToFormat of a finite value (04 R59, R61), before FO. -/
def roundFinite (f : FFmt) (mode : Nat) (sat : Bool) (neg : Bool) (m : Nat) (e : Int) (sticky : Bool) : FRes :=
  let sb := if neg then signBit f else 0
  let p : Int := f.mant
  let top0 : Int := (Nat.log2 m : Int) + e
  -- values far outside the format's range need no shift of their full distance
  let far := decide (top0 > expMin f + 2 ^ expBits f)
  let tiny := decide (top0 < expMin f - p - 4)
  let m' := if far || tiny then 1 else m
  let e' : Int := if far then expMin f + 2 ^ expBits f else if tiny then expMin f - p - 4 else e
  let st := if tiny || far then true else sticky
  let top : Int := (Nat.log2 m' : Int) + e'
  -- rounded with unbounded exponent
  let un := roundUnits mode neg m' e' (top - p) st
  let topU : Int := if un.1 = 2 ^ (f.mant + 1) then top + 1 else top
  let mv := maxFinVal f
  let ovf := decide (topU > mv.2 + p) || (decide (topU = mv.2 + p) && decide (un.1 ≠ 2 ^ (f.mant + 1)) && decide (un.1 > mv.1))
  if ovf then
    let b := if sat then sb + maxFin f
      else if overflowsToInf mode neg then infBits f neg else sb + maxFin f
    ⟨b, excOF ||| excNX⟩
  else
    let u : Int := if top < expMin f then expMin f - p else top - p
    let r := roundUnits mode neg m' e' u st
    -- r.1 units of 2^u: the encoding is the exponent field and fraction read as one number
    let ef : Nat := (u + p - expMin f).toNat
    let b := if r.1 < 2 ^ f.mant then r.1 else r.1 + ef * 2 ^ f.mant
    let uf := r.2 && decide (topU < expMin f)
    ⟨sb + b, (if r.2 then excNX else 0) ||| (if uf then excUF else 0)⟩

/-- RoundToFormat (04 R59) of an exact result, with SAT (02 R27), e4's overflow (04 R55) and FO (04 R63). -/
def fround (f : FFmt) (mode : Nat) (sat fo : Bool) (x : Exact) : FRes :=
  match x with
  | .nan => ⟨canonNaN f, 0⟩
  | .inf neg => ⟨if sat then (if neg then signBit f else 0) + maxFin f else infBits f neg, 0⟩
  | .fin neg m e sticky =>
    if m = 0 ∧ sticky = false then ⟨if neg then signBit f else 0, 0⟩
    else flushOut fo f (roundFinite f mode sat neg (if m = 0 then 1 else m) (if m = 0 then e - 1 else e) sticky)

/-- An operand and whether it is a signalling NaN. -/
def isSig : FVal → Bool
  | .nan s => s
  | _ => false
def isNaN : FVal → Bool
  | .nan _ => true
  | _ => false

/-- The exceptions of reading operands: a signalling NaN raises NV (04 R61). -/
def sigExc (l : List FVal) : Exc := if l.any isSig then excNV else 0

/-- The value negated. -/
def fneg : FVal → FVal
  | .nan s => .nan s
  | .inf n => .inf (!n)
  | .fin n m e => .fin (!n) m e

/-- The signed integer of a finite value in units of 2^u, for u ≤ e. -/
def unitsOf (neg : Bool) (m : Nat) (e u : Int) : Int :=
  let x : Int := ((m * 2 ^ (e - u).toNat : Nat) : Int)
  if neg then -x else x

/-- The exact sum of two finite values; a zero sum of operands with opposite signs is +0, and −0 under RDN
(07 R166). -/
def exactSum (mode : Nat) (n1 : Bool) (m1 : Nat) (e1 : Int) (n2 : Bool) (m2 : Nat) (e2 : Int) : Exact :=
  if m1 = 0 ∧ m2 = 0 then .fin (if n1 = n2 then n1 else mode == 3) 0 0 false
  else if m1 = 0 then .fin n2 m2 e2 false
  else if m2 = 0 then .fin n1 m1 e1 false
  else
    let u := min e1 e2
    let x := unitsOf n1 m1 e1 u + unitsOf n2 m2 e2 u
    if x = 0 then .fin (mode == 3) 0 0 false
    else .fin (decide (x < 0)) x.natAbs u false

/-- a + b exactly, with its own exceptions. -/
def fadd (mode : Nat) (a b : FVal) : Exact × Exc :=
  match a, b with
  | .nan _, _ => (.nan, sigExc [a, b])
  | _, .nan _ => (.nan, sigExc [a, b])
  | .inf n, .inf m => if n = m then (.inf n, 0) else (.nan, excNV)
  | .inf n, .fin _ _ _ => (.inf n, 0)
  | .fin _ _ _, .inf n => (.inf n, 0)
  | .fin n1 m1 e1, .fin n2 m2 e2 => (exactSum mode n1 m1 e1 n2 m2 e2, 0)

/-- a × b exactly. -/
def fmul (a b : FVal) : Exact × Exc :=
  match a, b with
  | .nan _, _ => (.nan, sigExc [a, b])
  | _, .nan _ => (.nan, sigExc [a, b])
  | .inf n, .inf m => (.inf (n != m), 0)
  | .inf n, .fin n2 m2 _ => if m2 = 0 then (.nan, excNV) else (.inf (n != n2), 0)
  | .fin n1 m1 _, .inf n => if m1 = 0 then (.nan, excNV) else (.inf (n1 != n), 0)
  | .fin n1 m1 e1, .fin n2 m2 e2 => (.fin (n1 != n2) (m1 * m2) (e1 + e2) false, 0)

/-- An exact product as a value, for a sum with one rounding. -/
def exactVal : Exact → FVal
  | .nan => .nan false
  | .inf n => .inf n
  | .fin n m e _ => .fin n m e

/-- a × b + c with one rounding; 0 × ∞ + c raises NV even when c is NaN (07 R166). -/
def ffma (mode : Nat) (a b c : FVal) : Exact × Exc :=
  let p := fmul a b
  let s := fadd mode (exactVal p.1) c
  (s.1, p.2 ||| s.2 ||| sigExc [a, b, c])

/-- Comparison of two values that are no NaN: a < b, with −0 = +0. -/
def fltVal (a b : FVal) : Bool :=
  match a, b with
  | .nan _, _ => false
  | _, .nan _ => false
  | .inf n, .inf m => n && !m
  | .inf n, .fin _ _ _ => n
  | .fin _ _ _, .inf m => !m
  | .fin n1 m1 e1, .fin n2 m2 e2 =>
    let u := min e1 e2
    decide (unitsOf n1 m1 e1 u < unitsOf n2 m2 e2 u)

/-- Equality of two values, with −0 = +0; a NaN equals nothing. -/
def feqVal (a b : FVal) : Bool :=
  match a, b with
  | .nan _, _ => false
  | _, .nan _ => false
  | .inf n, .inf m => n == m
  | .inf _, .fin _ _ _ => false
  | .fin _ _ _, .inf _ => false
  | .fin n1 m1 e1, .fin n2 m2 e2 =>
    let u := min e1 e2
    decide (unitsOf n1 m1 e1 u = unitsOf n2 m2 e2 u)

/-- The sign of a value. -/
def fnegative : FVal → Bool
  | .nan _ => false
  | .inf n => n
  | .fin n _ _ => n

/-- Whether a value is a zero. -/
def fzero : FVal → Bool
  | .fin _ m _ => m == 0
  | _ => false

/-- FMIN's choice (07 R167) between two encodings: −0 below +0, a lone NaN gives the other operand. -/
def fminBits (f : FFmt) (x y : Nat) : Nat :=
  let a := fdecode f x
  let b := fdecode f y
  if isNaN a && isNaN b then canonNaN f
  else if isNaN a then y
  else if isNaN b then x
  else if fltVal a b then x
  else if fltVal b a then y
  else if fnegative a then x else y

/-- FMAX's choice (07 R167). -/
def fmaxBits (f : FFmt) (x y : Nat) : Nat :=
  let a := fdecode f x
  let b := fdecode f y
  if isNaN a && isNaN b then canonNaN f
  else if isNaN a then y
  else if isNaN b then x
  else if fltVal a b then y
  else if fltVal b a then x
  else if fnegative a then y else x

/-- SAT on an encoding (02 R27): an infinite result becomes the largest finite value of its sign; for e4 there is
no infinite encoding. -/
def satBits (sat : Bool) (f : FFmt) (x : Nat) : Nat :=
  if sat && f.inf && (x % signBit f == expOnes f * 2 ^ f.mant) then
    (if bit x (f.width - 1) then signBit f else 0) + maxFin f
  else x

/-- The class mask of FCLASS (07 R168). -/
def fclassBits (f : FFmt) (x : Nat) : Nat :=
  let neg := bit x (f.width - 1)
  match fdecode f x with
  | .nan s => if s then 2 ^ 8 else 2 ^ 9
  | .inf n => if n then 2 ^ 0 else 2 ^ 7
  | .fin _ m _ =>
    if m = 0 then (if neg then 2 ^ 3 else 2 ^ 4)
    else if isSubnormal f x then (if neg then 2 ^ 2 else 2 ^ 5)
    else if neg then 2 ^ 1 else 2 ^ 6

/-- a rounded to an integral value in the mode (07 R166, FRND); zeros, infinities and NaNs as R166 says. -/
def frnd (mode : Nat) (a : FVal) : Exact × Exc :=
  match a with
  | .nan s => (.nan, if s then excNV else 0)
  | .inf n => (.inf n, 0)
  | .fin n m e =>
    if m = 0 then (.fin n 0 0 false, 0)
    else
      let r := if (Nat.log2 m : Int) + e < -2 then roundUnits mode n 1 (-3) 0 true else roundUnits mode n m e 0 false
      (.fin n r.1 0 false, 0)

/-- a × 2^n (07 R166, FSCALE). -/
def fscale (a : FVal) (n : Int) : Exact × Exc :=
  match a with
  | .nan s => (.nan, if s then excNV else 0)
  | .inf neg => (.inf neg, 0)
  | .fin neg m e => (.fin neg m (e + n) false, 0)

/-- FAdd32 and FAddBF of 06 R123: one rounding, RNE, no flush, no flags. -/
def plainAdd (f : FFmt) (x y : Nat) : Nat := (fround f 1 false false (fadd 1 (fdecode f x) (fdecode f y)).1).bits

/-- An f32 addition with RNE and its exceptions, for the trees of 04 R74. -/
def addRne (x y : Nat) : FRes :=
  let r := fadd 1 (fdecode fmtF32 x) (fdecode fmtF32 y)
  let q := fround fmtF32 1 false false r.1
  ⟨q.bits, q.exc ||| r.2⟩

end Sys2Proof.Machine
end

