-- ==== Sys2Proof/Machine/Flags.lean ====
section
/-! DEFINITION. Flags and conditions (07 R148, R156, R165): the four flags of a comparison, the sixteen conditions,
and the exceptions of a vector instruction (04 R62). -/

namespace Sys2Proof.Machine

open Sys2Proof

/-- The flags after comparing a with b (07 R156): d = (a − b) mod 2^64. -/
def cmpZ (a b : W64) : Bool := a - b == 0
def cmpN (a b : W64) : Bool := (a - b).msb
def cmpC (a b : W64) : Bool := decide (b.toNat ≤ a.toNat)
/-- a − b overflows as a signed subtraction. -/
def cmpV (a b : W64) : Bool := decide ((a - b).toInt ≠ a.toInt - b.toInt)

/-- Set the four flags of the warp by SCMP and SCMPI (07 R148, R156). -/
def setCmp (a b : W64) (s : State) : State :=
  { s with w := { s.w with fz := cmpZ a b, fn := cmpN a b, fc := cmpC a b, fv := cmpV a b } }

/-- The sixteen conditions on flags (07 R148). -/
def condFlags (c : Nat) (z n cy v : Bool) : Bool :=
  match c with
  | 0 => true
  | 1 => z
  | 2 => !z
  | 3 => n != v
  | 4 => n == v
  | 5 => z || n != v
  | 6 => !z && n == v
  | 7 => !cy
  | 8 => cy
  | 9 => !cy || z
  | 10 => cy && !z
  | 11 => v
  | 12 => !v
  | 13 => n
  | 14 => !n
  | _ => false

/-- The integer conditions of VCMP on two 32-bit operands (07 R165). -/
def condInt (c : Nat) (a b : W32) : Bool :=
  match c with
  | 0 => a == b
  | 1 => a != b
  | 2 => a.slt b
  | 3 => !a.slt b
  | 4 => !b.slt a
  | 5 => b.slt a
  | 6 => a.ult b
  | 7 => !a.ult b
  | 8 => !b.ult a
  | _ => b.ult a

/-- The f32 conditions 10 to 15 of VCMP and the exceptions they raise (07 R165). FI does not apply. -/
def condF32 (c : Nat) (a b : W32) : Bool × Exc :=
  let x := fdecode fmtF32 a.toNat
  let y := fdecode fmtF32 b.toNat
  let anyNaN := isNaN x || isNaN y
  let sig := sigExc [x, y]
  match c with
  | 10 => (feqVal x y, sig)
  | 11 => (!feqVal x y, sig)
  | 12 => (fltVal x y, if anyNaN then excNV else 0)
  | 13 => (fltVal x y || feqVal x y, if anyNaN then excNV else 0)
  | 14 => (anyNaN, sig)
  | _ => (!anyNaN, sig)

/-- The trap enables of FPE (04 R60). -/
def Warp.enables (w : Warp) : Exc := w.fpe.setWidth 5

/-- Add raised exceptions to FPX (04 R62). -/
def orFpx (e : Exc) (w : Warp) : Warp := { w with fpx := w.fpx ||| e.setWidth 64 }

/-- The union of the exceptions of several threads. -/
def joinExc (l : List Exc) : Exc := l.foldl (· ||| ·) 0

/-- ARITH (04 R62): TSUB holds the enabled exceptions raised. -/
def arithCause (m : W32) (e : Exc) : Cause := { code := 0x0C, tsub := e.toNat, tmask := m }

end Sys2Proof.Machine
end

