-- ==== Sys2Proof/Machine/Operands.lean ====
section
/-! DEFINITION. Operand forms: scalars, vector registers, the scalar operand of a vector instruction, immediates, the
third source, the prefix's mask and mode (02 R21 to R28; 07 R140 to R149, R159, R166), and the shared shape of a
lane instruction. -/

namespace Sys2Proof.Machine

open Sys2Proof

/-! ## Scalars -/

/-- s[n] of the issuing warp. -/
def sval {n : Nat} (s : State) (r : BitVec n) : W64 := s.w.sGet r.toNat

/-- Write a scalar and complete. -/
def putS {n : Nat} (d : BitVec n) (x : W64) (s : State) : State := finish { s with w := s.w.sSet d.toNat x }

/-- A field outside its stated range raises ILLEGAL, WHY 3 (02 R22). -/
def inRange (ok : Bool) (s : State) (k : State → State) : State := if ok then k s else illegal 3 s

/-- An instruction that the dawn slot does not permit raises ILLEGAL, WHY 10 (08 R187). -/
def notDawn (s : State) (k : State → State) : State := if s.w.dawn then illegal 10 s else k s

/-- Privileged instructions (16 R345): PRIV in user mode. -/
def privileged (s : State) (k : State → State) : State := if s.w.cur.priv then k s else privTrap s

/-! ## Vector registers -/

/-- ILLEGAL WHY 4 where a register of a block not held is named (02 R22, 07 R140); an instruction that reads a
register still awaiting data waits (06 R127); a register that MSPILL
wrote out is reloaded at its next use, after the warp's own writes (16 R357). -/
def withRegs (reads writes : List Nat) (s : State) (k : State → State) : State :=
  if !(reads ++ writes).all s.w.holds then illegal 4 s
  else if s.w.anyAwaits reads then parkHere s
  else if toReload s.w (reads ++ writes) = [] then k s
  else if s.writes.any (fun x => x.warp == s.w.uid && x.applied == none) then parkHere s
  else k ((toReload s.w (reads ++ writes)).foldl reloadReg s)

/-- The registers of blocks not held come before the checks of where an instruction runs and of its data (02 R23). -/
def heldRegs (rs : List Nat) (s : State) (k : State → State) : State := if rs.all s.w.holds then k s else illegal 4 s

/-- An operand of a lane instruction. -/
inductive Src where
  | reg (r : Nat)
  | imm (x : W32)
  deriving DecidableEq, Repr

def Src.regs : Src → List Nat
  | .reg r => [r]
  | .imm _ => []

/-- Thread t's value of an operand. -/
def Src.val (w : Warp) (t : Nat) : Src → W32
  | .reg r => w.vGet r t
  | .imm x => x

/-- The poison bits of an operand (07 R145). -/
def Src.pois (w : Warp) : Src → W32
  | .reg r => w.vPois r
  | .imm _ => 0

/-- v[a]. -/
def vsrc {n : Nat} (a : BitVec n) : Src := .reg a.toNat
/-- The half of s[SB] that H selects (07 R159). -/
def ssrc (s : State) (b : BitVec 6) (h : BitVec 1) : Src :=
  .imm (if h = 0 then (sval s b).setWidth 32 else ((sval s b) >>> 32).setWidth 32)
/-- SignExtend(IMM7) (07 R160). -/
def isrc {n : Nat} (i : BitVec n) : Src := .imm (sext32 i)
/-- The third source (02 R26): v[VC] under a prefix, else v[VD]. -/
def thirdSrc {n : Nat} (s : State) (d : BitVec n) : Src :=
  match s.ix.pfx with
  | some p => .reg p.vc
  | none => .reg d.toNat

/-- What a lane operation depends on besides its operands (02 R27, 04 R60). -/
structure LaneEnv where
  mode : Nat := 1
  fi   : Bool := false
  fo   : Bool := false
  sat  : Bool := false
  deriving DecidableEq, Repr

/-- A lane operation: operands a, b, c to a result and its exceptions. -/
abbrev LaneOp := LaneEnv → W32 → W32 → W32 → W32 × Exc

/-- A lane operation without exceptions. -/
def pureOp (f : W32 → W32 → W32 → W32) : LaneOp := fun _ a b c => (f a b c, 0)

/-- The environment of the issuing instruction: the prefix's mode or RND (02 R27). -/
def laneEnv (s : State) : LaneEnv :=
  { mode := match s.ix.pfx with
      | some p => if p.rm ≠ 0 then p.rm else s.w.mode
      | none => s.w.mode
    fi := s.w.fi, fo := s.w.fo
    sat := match s.ix.pfx with
      | some p => p.sat
      | none => false }

/-- The threads that perform the operation: active and selected by the prefix (02 R27). -/
def laneSel (s : State) : W32 :=
  match s.ix.pfx with
  | some p => s.w.cur.active &&& s.w.kGet p.k
  | none => s.w.cur.active

/-- The threads that receive a clean zero (02 R27, Z = 1). -/
def laneZero (s : State) : W32 :=
  match s.ix.pfx with
  | some p => if p.z then s.w.cur.active &&& ~~~(s.w.kGet p.k) else 0
  | none => 0

/-- The result of every selected thread. -/
def laneResults (s : State) (f : LaneOp) (a b c : Src) : List (Nat × W32 × Exc) :=
  (maskThreads (laneSel s)).map (fun t => (t, f (laneEnv s) (a.val s.w t) (b.val s.w t) (c.val s.w t)))

/-- The threads that raised an exception enabled in FPE (04 R62). -/
def trapping (en : Exc) (l : List (Nat × W32 × Exc)) : List (Nat × W32 × Exc) := l.filter (fun r => r.2.2 &&& en != 0)

/-- A lane instruction (02 R27, 04 R62, 07 R145): one operator on every selected thread, poison from its operands,
flags into FPX, or ARITH with nothing written. -/
def laneInstr (srcs : List Src) (d : Nat) (f : LaneOp) (a b c : Src) (s : State) : State :=
  withRegs (srcs.flatMap Src.regs) [d] s fun s =>
    let res := laneResults s f a b c
    let bad := trapping s.w.enables res
    if bad.isEmpty then
      let poi := srcs.foldl (fun m x => m ||| x.pois s.w) 0
      let w1 := s.w.vSet d (laneSel s) (fun t => (tabGet (0, 0) t res).1) poi
      let w2 := if laneZero s = 0 then w1 else w1.vSet d (laneZero s) (fun _ => 0) 0
      finish { s with w := orFpx (joinExc (res.map (·.2.2))) w2 }
    else
      takeTrap (arithCause (maskOf (fun t => bad.any (fun r => r.1 == t)))
        (joinExc (bad.map (fun r => r.2.2 &&& s.w.enables)))) s

/-- One source. -/
def lane1 (d : Nat) (a : Src) (f : LaneOp) (s : State) : State := laneInstr [a] d f a (.imm 0) (.imm 0) s
/-- Two sources. -/
def lane2 (d : Nat) (a b : Src) (f : LaneOp) (s : State) : State := laneInstr [a, b] d f a b (.imm 0) s
/-- Three sources (02 R26). -/
def lane3 (d : Nat) (a b c : Src) (f : LaneOp) (s : State) : State := laneInstr [a, b, c] d f a b c s

/-- A comparison into a mask (07 R165): mask bits carry no poison, so a poisoned operand raises POISON; with an
enabled exception the lowest failing thread decides (04 R62). -/
def laneCmp (k : Nat) (a b : Src) (f : W32 → W32 → Bool × Exc) (s : State) : State :=
  withRegs (a.regs ++ b.regs) [] s fun s =>
    let sel := laneSel s
    let res := (maskThreads sel).map (fun t => (t, f (a.val s.w t) (b.val s.w t)))
    let poi := (a.pois s.w ||| b.pois s.w) &&& sel
    let ar := maskOf (fun t => res.any (fun r => r.1 == t && (r.2.2 &&& s.w.enables) != 0)) &&& ~~~poi
    match lowest (poi ||| ar) with
    | none =>
      let bits := maskOf (fun t => res.any (fun r => r.1 == t && r.2.1))
      finish { s with w := orFpx (joinExc (res.map (·.2.2))) (s.w.kSet k (sel ||| laneZero s) bits) }
    | some t =>
      if inMask poi t then takeTrap { code := 0x06, tsub := 0, tmask := poi } s
      else takeTrap (arithCause ar (joinExc ((res.filter (fun r => inMask ar r.1)).map (fun r => r.2.2 &&& s.w.enables)))) s

end Sys2Proof.Machine
end

