-- ==== Sys2Proof/Machine/Scalar.lean ====
section
/-! DEFINITION. Scalar instructions of majors 0x01 to 0x03 (07 R154 to R158). -/

namespace Sys2Proof.Machine

open Sys2Proof Host

/-! ## The scalar functions -/

/-- The high 64 bits of the signed product (07 R154). -/
def mulHighS (a b : W64) : W64 := ((a.signExtend 128) * (b.signExtend 128)).extractLsb' 64 64
/-- The high 64 bits of the unsigned product. -/
def mulHighU (a b : W64) : W64 := ((a.zeroExtend 128) * (b.zeroExtend 128)).extractLsb' 64 64
/-- Division truncates toward zero and never traps (07 R155). -/
def divS (a b : W64) : W64 := if b = 0 then -1 else a.sdiv b
def divU (a b : W64) : W64 := if b = 0 then -1 else a / b
def remS (a b : W64) : W64 := if b = 0 then a else a.srem b
def remU (a b : W64) : W64 := if b = 0 then a else a % b
/-- Shifts by b[7:0] (07 R154). -/
def shl64 (a b : W64) : W64 := if b.toNat % 256 ≥ 64 then 0 else a <<< (b.toNat % 256)
def shr64 (a b : W64) : W64 := if b.toNat % 256 ≥ 64 then 0 else a >>> (b.toNat % 256)
def sra64 (a b : W64) : W64 := a.sshiftRight (min (b.toNat % 256) 63)
def minS64 (a b : W64) : W64 := if a.slt b then a else b
def maxS64 (a b : W64) : W64 := if a.slt b then b else a
def minU64 (a b : W64) : W64 := if a.ult b then a else b
def maxU64 (a b : W64) : W64 := if a.ult b then b else a

/-- The meanings' outcome. -/
abbrev Out := Host.Outcome State Fault Refusal

/-! ## Major 0x01 (07 R154, R155) -/

/-- SADD: the sum modulo 2^64. -/
def execSadd (d a b : BitVec 6) (s : State) : Out := .next (putS d (sval s a + sval s b) s)
/-- SSUB: the difference modulo 2^64. -/
def execSsub (d a b : BitVec 6) (s : State) : Out := .next (putS d (sval s a - sval s b) s)
/-- SMUL: the low 64 bits of the product. -/
def execSmul (d a b : BitVec 6) (s : State) : Out := .next (putS d (sval s a * sval s b) s)
/-- SMULH. -/
def execSmulh (d a b : BitVec 6) (s : State) : Out := .next (putS d (mulHighS (sval s a) (sval s b)) s)
/-- SMULHN. -/
def execSmulhn (d a b : BitVec 6) (s : State) : Out := .next (putS d (mulHighU (sval s a) (sval s b)) s)
/-- SDIV. -/
def execSdiv (d a b : BitVec 6) (s : State) : Out := .next (putS d (divS (sval s a) (sval s b)) s)
/-- SDIVN. -/
def execSdivn (d a b : BitVec 6) (s : State) : Out := .next (putS d (divU (sval s a) (sval s b)) s)
/-- SREM. -/
def execSrem (d a b : BitVec 6) (s : State) : Out := .next (putS d (remS (sval s a) (sval s b)) s)
/-- SREMN. -/
def execSremn (d a b : BitVec 6) (s : State) : Out := .next (putS d (remU (sval s a) (sval s b)) s)
/-- SSHL. -/
def execSshl (d a b : BitVec 6) (s : State) : Out := .next (putS d (shl64 (sval s a) (sval s b)) s)
/-- SSHR. -/
def execSshr (d a b : BitVec 6) (s : State) : Out := .next (putS d (shr64 (sval s a) (sval s b)) s)
/-- SSRA. -/
def execSsra (d a b : BitVec 6) (s : State) : Out := .next (putS d (sra64 (sval s a) (sval s b)) s)
/-- SMIN. -/
def execSmin (d a b : BitVec 6) (s : State) : Out := .next (putS d (minS64 (sval s a) (sval s b)) s)
/-- SMAX. -/
def execSmax (d a b : BitVec 6) (s : State) : Out := .next (putS d (maxS64 (sval s a) (sval s b)) s)
/-- SMINN. -/
def execSminn (d a b : BitVec 6) (s : State) : Out := .next (putS d (minU64 (sval s a) (sval s b)) s)
/-- SMAXN. -/
def execSmaxn (d a b : BitVec 6) (s : State) : Out := .next (putS d (maxU64 (sval s a) (sval s b)) s)
/-- SAND. -/
def execSand (d a b : BitVec 6) (s : State) : Out := .next (putS d (sval s a &&& sval s b) s)
/-- SOR. -/
def execSor (d a b : BitVec 6) (s : State) : Out := .next (putS d (sval s a ||| sval s b) s)
/-- SXOR. -/
def execSxor (d a b : BitVec 6) (s : State) : Out := .next (putS d (sval s a ^^^ sval s b) s)
/-- SANDN. -/
def execSandn (d a b : BitVec 6) (s : State) : Out := .next (putS d (sval s a &&& ~~~(sval s b)) s)
/-- SCMP sets the flags and writes no register (R156). -/
def execScmp (a b : BitVec 6) (s : State) : Out := .next (finish (setCmp (sval s a) (sval s b) s))
/-- SCLZ: leading zero bits, 64 for 0. -/
def execSclz (d a : BitVec 6) (s : State) : Out := .next (putS d (w64 (clz 64 (sval s a).toNat)) s)
/-- SPOPC: set bits. -/
def execSpopc (d a : BitVec 6) (s : State) : Out := .next (putS d (w64 (popc 64 (sval s a).toNat)) s)
/-- SMOV. -/
def execSmov (d a : BitVec 6) (s : State) : Out := .next (putS d (sval s a) s)

/-! ## Major 0x02 (07 R157): i = SignExtend(IMM9), shifts by IMM9 in 0 to 63 -/

/-- SADDI. -/
def execSaddi (d a : BitVec 6) (i : BitVec 9) (s : State) : Out := .next (putS d (sval s a + sext64 i) s)
/-- SANDI. -/
def execSandi (d a : BitVec 6) (i : BitVec 9) (s : State) : Out := .next (putS d (sval s a &&& sext64 i) s)
/-- SORI. -/
def execSori (d a : BitVec 6) (i : BitVec 9) (s : State) : Out := .next (putS d (sval s a ||| sext64 i) s)
/-- SXORI. -/
def execSxori (d a : BitVec 6) (i : BitVec 9) (s : State) : Out := .next (putS d (sval s a ^^^ sext64 i) s)
/-- SMULI. -/
def execSmuli (d a : BitVec 6) (i : BitVec 9) (s : State) : Out := .next (putS d (sval s a * sext64 i) s)
/-- SSHLI; IMM9 above 63 raises ILLEGAL WHY 3. -/
def execSshli (d a : BitVec 6) (i : BitVec 9) (s : State) : Out :=
  .next (inRange (decide (i.toNat ≤ 63)) s (fun s => putS d (shl64 (sval s a) (i.setWidth 64)) s))
/-- SSHRI; IMM9 above 63 raises ILLEGAL WHY 3. -/
def execSshri (d a : BitVec 6) (i : BitVec 9) (s : State) : Out :=
  .next (inRange (decide (i.toNat ≤ 63)) s (fun s => putS d (shr64 (sval s a) (i.setWidth 64)) s))
/-- SSRAI; IMM9 above 63 raises ILLEGAL WHY 3. -/
def execSsrai (d a : BitVec 6) (i : BitVec 9) (s : State) : Out :=
  .next (inRange (decide (i.toNat ≤ 63)) s (fun s => putS d (sra64 (sval s a) (i.setWidth 64)) s))
/-- SCMPI (R156). -/
def execScmpi (a : BitVec 6) (i : BitVec 9) (s : State) : Out := .next (finish (setCmp (sval s a) (sext64 i) s))

/-! ## Major 0x03 (07 R158) -/

/-- SLI: the sign-extended IMM15. -/
def execSli (d : BitVec 6) (i : BitVec 15) (s : State) : Out := .next (putS d (sext64 i) s)
/-- SLIS: s[SD] shifted left by 15, OR IMM15. -/
def execSlis (d : BitVec 6) (i : BitVec 15) (s : State) : Out :=
  .next (putS d ((sval s d <<< 15) ||| i.setWidth 64) s)

end Sys2Proof.Machine
end

