-- ==== Sys2Proof/Machine/Control.lean ====
section
/-! DEFINITION. Control transfer, divergence and reconvergence (14 R305, R306, R308 to R310), TRAP, BKPT and ERET
(16 R347, R349). -/

namespace Sys2Proof.Machine

open Sys2Proof

/-- The target of a branch: address + 2 × SignExtend(OFF) (02 R13). -/
def branchTarget {n : Nat} (s : State) (o : BitVec n) : W64 := s.ix.addr + 2 * sext64 o

/-- Transfer to a register target; bit 0 set raises ALIGN (02 R12). -/
def jumpTo (t : W64) (s : State) (k : State → State) : State :=
  if t.getLsbD 0 then alignTrap t s.w.cur.active s else k s

/-- BRA (14 R305). -/
def execBra (c : BitVec 4) (o : BitVec 21) (s : State) : Out :=
  .next (if condFlags c.toNat s.w.fz s.w.fn s.w.fc s.w.fv then finishAt (branchTarget s o) s else finish s)

/-- CALL (01 R9): s63 receives the address after the CALL. -/
def execCall (o : BitVec 25) (s : State) : Out :=
  .next (notDawn s fun s => finishAt (branchTarget s o) { s with w := s.w.sSet 63 (s.ix.addr + 4) })

/-- JMP. -/
def execJmp (a : BitVec 6) (s : State) : Out :=
  .next (notDawn s fun s => jumpTo (sval s a) s fun s => finishAt (sval s a) s)

/-- CALLR: the target is read before s63 is written. -/
def execCallr (a : BitVec 6) (s : State) : Out :=
  .next (notDawn s fun s => jumpTo (sval s a) s fun s =>
    finishAt (sval s a) { s with w := s.w.sSet 63 (s.ix.addr + 4) })

/-- RET. -/
def execRet (s : State) : Out :=
  .next (notDawn s fun s => jumpTo (s.w.sGet 63) s fun s => finishAt (s.w.sGet 63) s)

/-- YIELD: not ready at the next issue opportunity unless no other split is (14 R306). -/
def execYield (s : State) : Out :=
  .next (notDawn s fun s => (finish s).modCur (fun p => { p with yielded := true }))

/-- NOP. -/
def execNop (s : State) : Out := .next (finish s)

/-- The upcall active in a warp: a revoked one is active no longer (10 R223). -/
def Warp.serving (w : Warp) : Option Upcall := w.upcall.filter (fun u => !u.revoked)

/-- STAGE (10 R223, 14 R308, R328): INFO holds the served walk's id. -/
def stageTrap (sub : Nat) (s : State) : State :=
  takeTrap { code := 0x0F, tsub := sub, info := ((s.w.serving.map (fun u => u.walk.toNat)).getD 0) % 2 ^ 35, tmask := s.w.cur.active } s

/-- BRD (14 R308). -/
def brd (k : Nat) (n : Bool) (o : BitVec 21) (s : State) : State :=
  let act := s.w.cur.active
  let taken := act &&& (if n then ~~~(s.w.kGet k) else s.w.kGet k)
  let rest := act &&& ~~~taken
  if taken = 0 then finish s
  else if rest = 0 then finishAt (branchTarget s o) s
  else if s.w.stack.length ≥ Config.stackLimit then stageTrap 0x12 s
  else
    let e : Entry := { members := act, dpriv := s.w.cur.priv }
    if s.w.splits.length < 4 then
      let q : Split := { num := freeNum s.w.splits, pc := branchTarget s o, active := taken, priv := s.w.cur.priv }
      let s1 := finish s
      { s1 with w := { s1.w with
          stack := e :: s1.w.stack, cur := { s1.w.cur with active := rest }
          others := s1.w.others.filter (fun p => p.active != 0) ++ [q] } }
    else
      let s1 := finishAt (branchTarget s o) s
      { s1 with w := { s1.w with
          stack := { e with defer := rest, defpc := s.ix.addr + 4 } :: s1.w.stack
          cur := { s1.w.cur with active := taken } } }

def execBrd (k : BitVec 3) (n : BitVec 1) (o : BitVec 21) (s : State) : Out :=
  .next (notDawn s (brd k.toNat (n == 1) o))

/-- Replace the newest entry that holds the threads m (14 R310). -/
def modEntry (m : W32) (f : Entry → Entry) (st : List Entry) : List Entry :=
  modFirst (fun e => (m &&& ~~~e.members) == 0) f st

/-- RCV (14 R310): the split parks at its entry's ADDR, goes on with the deferred threads, or merges. -/
def rcv (s : State) : State :=
  let act := s.w.cur.active
  match s.w.stack.find? (fun e => (act &&& ~~~e.members) == 0) with
  | none => finish s
  | some e0 =>
    let e := if e0.av then e0 else { e0 with addr := s.ix.addr, av := true, resume := s.ix.next }
    let s0 := { s with w := { s.w with stack := modEntry act (fun _ => e) s.w.stack } }
    if s.ix.addr ≠ e.addr then finish s0
    else
      let e1 := { e with arrived := e.arrived ||| act }
      if e.defer ≠ 0 then
        let s1 := finishAt e.defpc s0
        { s1 with w := { s1.w with
            stack := modEntry act (fun _ => { e1 with defer := 0 }) s1.w.stack
            cur := { s1.w.cur with active := e.defer, priv := e.dpriv } } }
      else if (e.members &&& ~~~e1.arrived) = 0 then
        let ps := ({ s0.w.cur with rcv := true } :: s0.w.others).filter (fun p => p.active != 0)
        let st := s0.w.stack.erase e
        let s1 := finish s0
        { s1 with w := { s1.w with stack := st }.putSplits (mergeSplits e1 ps) }
      else
        let s1 := finish s0
        { s1 with w := { s1.w with
            stack := modEntry act (fun _ => e1) s1.w.stack
            cur := { s1.w.cur with rcv := true, pc := s.ix.addr, since := some s.time } } }

def execRcv (s : State) : Out := .next (notDawn s rcv)

/-- BKPT n (16 R349): TPC is the BKPT. -/
def execBkpt (n : BitVec 9) (s : State) : Out :=
  .next (notDawn s fun s => takeTrap { code := 0x0B, tsub := n.toNat, tmask := s.w.cur.active } s)

/-- TRAP n (16 R349): the TRAP has completed, TPC is the next instruction. -/
def execTrap (n : BitVec 9) (s : State) : Out :=
  .next (notDawn s fun s => deliver { code := 0x0A, tsub := n.toNat, tmask := s.w.cur.active } s.ix.next false s)

/-- ERET (16 R347). -/
def execEret (s : State) : Out := .next (notDawn s eret)

end Sys2Proof.Machine
end

