-- ==== Sys2Proof/Machine/MemOps.lean ====
section
/-! DEFINITION. Shared operations of the memory instructions (06 R104 to R119, R127 to R129, R137, R138; 16 R353):
outstanding operations and their retirement, leases, writes on their way home, scratchpad places. -/

namespace Sys2Proof.Machine

open Sys2Proof

/-! ## Outstanding operations (00 R5, 06 R127, R128) -/

/-- A class at its limit stalls the issuing split (00 R5). -/
def withRoom (c : Cls) (s : State) (k : State → State) : State :=
  if s.w.count c ≥ Config.classLimit then parkHere s else k s

/-- Retire, in order within each class, every operation that has completed with all older ones of its class: its WCT
joins WMAX, its failure is kept until it is reported (06 R110, R128). -/
def retireFrom (w : Warp) : List Op → List Op → Warp
  | kept, [] => { w with ops := kept }
  | kept, o :: os =>
    if o.done && !kept.any (fun p => p.cls == o.cls) then
      let w1 := { w with wmax := max w.wmax o.wct, fpx := w.fpx ||| o.exc.setWidth 64 }
      let w2 := match o.fail with
        | some c =>
          let ch := match o.kind with
            | .record chain seq => some (chain, seq)
            | _ => none
          { w1 with fails := w1.fails ++ [{ id := o.id, cls := o.cls, ord := o.ord, chain := ch, cause := c }] }
        | none => w1
      retireFrom w2 kept os
    else retireFrom w (kept ++ [o]) os

def Warp.retire (w : Warp) : Warp := retireFrom w [] w.ops

/-- The number of operations of a class the warp has issued. -/
def Warp.issuedOf (w : Warp) (c : Cls) : Nat := tabGet 0 c.index w.issued

/-- Add an operation to the warp; an operation that is already done may retire at once. -/
def Warp.addOp (w : Warp) (id : Nat) (c : Cls) (kind : OpKind) (dests : List (Nat × W32)) (pend : Nat) (done : Bool)
    (wct : Nat) : Warp :=
  let o : Op := { id := id, cls := c, ord := w.issuedOf c + 1, kind := kind, dests := dests, mask := (dests.map (·.2)).headD 0, pend := pend, done := done, wct := wct }
  { w with ops := w.ops ++ [o], issued := tabSet 0 c.index (w.issuedOf c + 1) w.issued }.retire

/-- Change the operation with an id, in whichever warp holds it. -/
def Warp.modOp (w : Warp) (id : Nat) (f : Op → Op) : Warp := { w with ops := modFirst (fun o => o.id == id) f w.ops }

/-- Change the warp with a number, wherever it stands. -/
def State.modWarp (s : State) (uid : Nat) (f : Warp → Warp) : State :=
  if s.w.uid = uid then { s with w := f s.w } else { s with ws := modFirst (fun w => w.uid == uid) f s.ws }

def State.findWarp (s : State) (uid : Nat) : Option Warp :=
  if s.w.uid = uid then some s.w else s.ws.find? (fun w => w.uid == uid)

def State.findTeam (s : State) (uid : Nat) : Option Team :=
  if s.team.uid = uid then some s.team else s.teams.find? (fun t => t.uid == uid)

def State.modTeam (s : State) (uid : Nat) (f : Team → Team) : State :=
  if s.team.uid = uid then { s with team := f s.team } else { s with teams := modFirst (fun t => t.uid == uid) f s.teams }

def State.getCore (s : State) (n : Nat) : Core :=
  if s.core.num = n then s.core else (s.cores.find? (fun c => c.num == n)).getD { num := n }

def State.modCore (s : State) (n : Nat) (f : Core → Core) : State :=
  if s.core.num = n then { s with core := f s.core }
  else if s.cores.any (fun c => c.num == n) then { s with cores := modFirst (fun c => c.num == n) f s.cores }
  else { s with cores := f { num := n } :: s.cores }

/-- The power limiter's level of a die (17 R378). -/
def dieLevel (s : State) (die : Nat) : Nat := if die = 0 then s.dev.level0 else s.dev.level1

def State.findCtx (s : State) (asid : Nat) : Option Ctx :=
  if s.ctx.live ∧ s.ctx.asid = asid then some s.ctx else s.ctxs.find? (fun c => c.live && c.asid == asid)

def State.modCtx (s : State) (asid : Nat) (f : Ctx → Ctx) : State :=
  if s.ctx.live ∧ s.ctx.asid = asid then { s with ctx := f s.ctx }
  else { s with ctxs := modFirst (fun c => c.live && c.asid == asid) f s.ctxs }

/-- All warps. -/
def State.allWarps (s : State) : List Warp := s.w :: s.ws
/-- All teams. -/
def State.allTeams (s : State) : List Team := s.team :: s.teams

/-- An operation completes: done, with its WCT, and retires when its turn comes (06 R128). -/
def completeOp (uid id wct : Nat) (s : State) : State :=
  s.modWarp uid (fun w => (w.modOp id (fun o => { o with done := true, wct := max o.wct wct })).retire)

/-! ## Lines, leases and the L1 (06 R105 to R108) -/

/-- The line of a physical address. -/
def lineOf (pa : Nat) : Nat := pa / 128

/-- Drop a core's L1 copies of lines (06 R108). -/
def dropL1 (lines : List Nat) (c : Core) : Core := { c with l1 := c.l1.filter (fun l => !lines.contains l.line) }

/-- LEXP of a line. -/
def State.lexpOf (s : State) (line : Nat) : Nat := tabGet 0 line s.lexp

/-- The lease length of a lease class (06 R106). -/
def leaseLen (lc : Nat) : Nat := if lc = 0 then Config.leaseRead else Config.leaseShared

/-- The L1 copy that may serve a load of warp uid now (06 R107, R398); never a copy older than what the warp itself has
written to the line or read of it at home (R111). -/
def l1Hit (s : State) (c : Core) (uid ah line : Nat) : Option L1Line :=
  c.l1.find? (fun l => l.line == line && decide (s.time < l.x) && decide (ah < l.g) && !Config.l1Replaced s.tick line
    && !l.bar.contains uid)

/-- A core's copy of a line is older than what warp uid has written or read at home. -/
def barLine (uid line : Nat) (c : Core) : Core :=
  { c with l1 := c.l1.map (fun l => if l.line = line then { l with bar := uid :: l.bar.filter (· != uid) } else l) }

/-- The granules of a line that are poisoned. -/
def lineGrans (mp : List Nat) (line : Nat) : List Nat := mp.filter (fun g => g / 2 == line)

/-- A grant of a line at home (06 R106): LEXP rises, the core keeps the line. -/
def grantLine (lc line core : Nat) (s : State) : State :=
  let x := s.time + leaseLen lc
  let l : L1Line := { line := line, g := s.time, x := x
                      bytes := s.mem.filter (fun p => p.1 / 128 == line), pois := lineGrans s.mp line }
  { s with lexp := tabSet 0 line (max (s.lexpOf line) x) s.lexp }.modCore core
    (fun c => { c with l1 := l :: c.l1.filter (fun y => y.line != line) })

/-- The held value of a line in a speculative team (06 R137). -/
def specOverlay (t : Option Team) (pa n : Nat) (bs : List Byte) (poi : Bool) : List Byte × Bool :=
  match t with
  | none => (bs, poi)
  | some t =>
    match t.specLines.find? (fun l => l.line == lineOf pa) with
    | none => (bs, poi)
    | some l =>
      ((List.range n).map (fun i => match l.bytes.find? (fun p => p.1 == pa + i) with
          | some p => p.2
          | none => (bs[i]?).getD 0),
        if l.pois.contains (pa / 64) then true else if l.clean.contains (pa / 64) then false else poi)

/-- Read n bytes of one line for a warp: from the core's L1 where R107 allows, else at home with a grant (06 R106).
Answers the bytes and their poison. -/
def readLine (uid core team pa n lc : Nat) (pr useL1 : Bool) (s : State) : List Byte × Bool × State :=
  let ah := ((s.findWarp uid).map (·.ah)).getD 0
  let t := (s.findTeam team).filter (·.spec)
  let hit := if useL1 && decide (lc < 2) then l1Hit s (s.getCore core) uid ah (lineOf pa) else none
  match hit with
  | some l =>
    let r := specOverlay t pa n (memBytes l.bytes pa n) (granPoisoned l.pois pa n)
    (r.1, r.2 || pr, s)
  | none =>
    let r := specOverlay t pa n (memBytes s.mem pa n) (granPoisoned s.mp pa n)
    (r.1, r.2 || pr,
      if useL1 && decide (lc < 2) then grantLine lc (lineOf pa) core s else s.modCore core (barLine uid (lineOf pa)))

/-! ## Writes (06 R104, R110 to R113, R119, R122, R123) -/

/-- The functions of R122 on a location; none: nothing is written (a failed ACAS). -/
def rmwNew (fn : Rmw) (old x y : W32) : Option W32 :=
  match fn with
  | .add => some (old + x)
  | .min => some (if old.slt x then old else x)
  | .max => some (if old.slt x then x else old)
  | .minn => some (if old.ult x then old else x)
  | .maxn => some (if old.ult x then x else old)
  | .and => some (old &&& x)
  | .or => some (old ||| x)
  | .xor => some (old ^^^ x)
  | .xch => some x
  | .cas => if old = x then some y else none
  | .fadd => some (w32 (plainAdd fmtF32 old.toNat x.toNat))
  | .faddp => some (w32 (plainAdd fmtBF16 (old.toNat % 65536) (x.toNat % 65536)
      + 65536 * plainAdd fmtBF16 (old.toNat / 65536) (x.toNat / 65536)))
  | .inc => some (if x.ule old then 0 else old + 1)
  | .dec => some (if old = 0 ∨ x.ult old then x else old - 1)

/-- What applying parts changes: memory, poison, results of atomics, and whether anything was written. -/
structure Applied where
  mem  : List Host.Cell
  mp   : List Nat
  res  : List AtomRes := []
  did  : Bool := false
  deriving DecidableEq, Repr

/-- One read-modify-write of 4 bytes: a poisoned location stays as it is (06 R119). It counts as an applied write but for
an ACAS, which fails there as on an unequal value (log 99, DESIGN CHOICE). -/
def applyRmw (pa : Nat) (fn : Rmw) (x y : W32) (t : Nat) (r : Applied) : Applied :=
  let old := w32 (memNat r.mem pa 4)
  if granPoisoned r.mp pa 4 then { r with res := r.res ++ [⟨t, old, true⟩], did := r.did || fn != .cas }
  else match rmwNew fn old x y with
    | some n => { r with mem := memPut r.mem pa (toBytes 4 n.toNat), res := r.res ++ [⟨t, old, false⟩], did := true }
    | none => { r with res := r.res ++ [⟨t, old, false⟩] }

/-- The stored pieces of a write. -/
def storePieces (l : List WPart) : List Piece := l.filterMap (fun p => match p with
  | .store pa bs poi => some (pa, bs, poi)
  | .rmw _ _ _ _ _ => none)

/-- Apply the parts of a write in ascending thread order (06 R112). -/
def applyParts (l : List WPart) (mem : List Host.Cell) (mp : List Nat) : Applied :=
  let ps := storePieces l
  let a0 : Applied := { mem := putPieces mem ps, mp := putPoison mp ps, did := !ps.isEmpty }
  l.foldl (fun r p => match p with
    | .store _ _ _ => r
    | .rmw pa fn x y t => applyRmw pa fn x y t r) a0

/-- Group the parts of one instruction by line, keeping thread order within a line. -/
def groupLines (l : List (Nat × WPart)) : List (Nat × List WPart) :=
  l.foldl (fun acc p =>
    if acc.any (fun q => q.1 == p.1) then modFirst (fun q => q.1 == p.1) (fun q => (q.1, q.2 ++ [p.2])) acc
    else acc ++ [(p.1, [p.2])]) []

/-- Send an instruction's writes home: one write per line, one operation that waits for them all. -/
def sendWrites (c : Cls) (kind : OpKind) (dests : List (Nat × W32)) (parts : List (Nat × WPart)) (s : State) : State :=
  let gs := groupLines parts
  let op := s.nextId
  let ws := (List.range gs.length).map (fun i =>
    ({ id := op + 1 + i, warp := s.w.uid, op := op, line := (gs[i]?.map (·.1)).getD 0
       parts := (gs[i]?.map (·.2)).getD []
       by_ := { warp := some s.w.uid, asid := s.ctx.asid } } : Write))
  { s with
    nextId := op + 1 + gs.length
    writes := s.writes ++ ws
    core := dropL1 (gs.map (·.1)) s.core
    w := s.w.addOp op c kind dests gs.length gs.isEmpty 0 }

/-! ## The order of a warp's accesses to one location (06 R111) -/

/-- Bytes of one chip's memory: chip, physical address, number of bytes. -/
abbrev Span := Nat × Nat × Nat

/-- Whether some bytes are common to both lists. -/
def meets (a b : List Span) : Bool :=
  a.any (fun p => b.any (fun q => p.1 == q.1 && decide (p.2.1 < q.2.1 + q.2.2) && decide (q.2.1 < p.2.1 + p.2.2)))

/-- The bytes a part of a write names, on a chip. -/
def WPart.span (chip : Nat) : WPart → Span
  | .store pa bs _ => (chip, pa, bs.length)
  | .rmw pa _ _ _ _ => (chip, pa, 4)

/-- The bytes a write names; own is this chip. -/
def Write.spans (own : Nat) (x : Write) : List Span := x.parts.map (WPart.span (x.rank.getD own))

/-- The bytes that a load of size-byte parts has still to read. -/
def loadSpans (own size : Nat) (ps : List LoadPart) : List Span := ps.filterMap (fun p => match p.place with
  | .mem pa _ _ _ => some (own, pa, size)
  | .remote chip pa _ => some (chip, pa, size)
  | .got _ _ => none)

/-- A write of the warp, issued before a number, to some of the bytes has not been applied. -/
def olderWrite (s : State) (uid before : Nat) (l : List Span) : Bool :=
  s.writes.any (fun y => y.warp == uid && decide (y.id < before) && y.applied == none && meets (y.spans s.dev.chipId) l)

/-- A load of the warp, issued before a number, has still to read some of the bytes. -/
def olderLoad (own : Nat) (w : Warp) (before : Nat) (l : List Span) : Bool :=
  w.ops.any (fun o => decide (o.id < before) && !o.done && (match o.kind with
    | .load size _ _ _ _ ps => meets (loadSpans own size ps) l
    | _ => false))

/-- An acquire load of the warp is outstanding: no later load is performed before it (R121). -/
def Warp.acquiring (w : Warp) : Bool := w.ops.any (fun o => !o.done && (match o.kind with
  | .load _ _ _ _ acq _ => acq
  | _ => false))

/-- A load that is performed when it issues waits for the warp's outstanding acquire loads. -/
def afterAcquires (s : State) (k : State → State) : State := if s.w.acquiring then parkHere s else k s

/-- Whether the warp's older accesses let a load of some bytes be performed now: its own writes to them are applied, its
older loads have read them, and no older acquire load is outstanding (R121). -/
def loadMayRun (s : State) (uid before : Nat) (l : List Span) : Bool :=
  !olderWrite s uid before l
  && !(match s.findWarp uid with
    | some w => olderLoad s.dev.chipId w before l || w.ops.any (fun o => decide (o.id < before) && !o.done && (match o.kind with
        | .load _ _ _ _ acq _ => acq
        | _ => false))
    | none => false)

/-! ## Speculative teams (06 R137, R138) -/

def specTrap (sub : Nat) (s : State) : State := takeTrap { code := 0x12, tsub := sub, tmask := s.w.cur.active } s

/-- Instructions a speculative team may not perform (06 R138). -/
def notSpec (sub : Nat) (s : State) (k : State → State) : State := if s.team.spec then specTrap sub s else k s

/-- A speculative team performs no remote or peer access but reads. -/
def specReads (acc : Acc) (s : State) (k : State → State) : State := if acc = .read then k s else notSpec 1 s k

/-- Lines held by the speculative teams of a die (06 R137). -/
def specUsed (s : State) (die : Nat) : Nat :=
  (s.allTeams.filter (fun t => t.core / Config.coresPerDie == die)).foldl (fun n t => n + t.specLines.length) 0

/-- Hold one piece of a speculative store. -/
def holdPiece (p : Piece) (l : SpecLine) : SpecLine :=
  { l with
    bytes := (List.range p.2.1.length).foldl (fun b i =>
      tabIns (p.1 + i) ((p.2.1[i]?).getD 0) (tabDel (p.1 + i) b)) l.bytes
    pois := if p.2.2 then poisonGrans (granules p.1 p.2.1.length) l.pois else l.pois
    clean := if p.2.2 then cleanGrans (granules p.1 p.2.1.length) l.clean else l.clean }

/-- Hold one line's pieces; whole clean granules clear held poison (06 R119). -/
def holdLine (line : Nat) (ps : List Piece) (ls : List SpecLine) : List SpecLine :=
  let bad := pieceGrans (ps.filter (fun p => p.2.2))
  let cov := (pieceGrans ps).filter (fun g => !bad.contains g && granCovered ps g)
  let upd := fun (l : SpecLine) =>
    let l1 := ps.foldl (fun l p => holdPiece p l) l
    { l1 with pois := cleanGrans cov l1.pois, clean := poisonGrans cov l1.clean }
  if ls.any (fun l => l.line == line) then modFirst (fun l => l.line == line) upd ls
  else ls ++ [upd { line := line }]

/-- The page of an access, for a shoot-down: the line it writes, the page's first address and size under the leaf. -/
def pageOf (l : W64) (pa va : Nat) : Nat × Nat × Nat := (lineOf pa, va / 2 ^ pageSize l * 2 ^ pageSize l, pageSize l)

/-- A global store of a speculative team: held, not applied (06 R137); a full buffer raises SPEC 2. pages: the line and the
virtual page of each thread's access. -/
def specStore (pages : List (Nat × Nat × Nat)) (parts : List (Nat × WPart)) (s : State) : State :=
  let gs := groupLines parts
  let named := fun (l : SpecLine) => { l with
    pages := ((pages.filter (fun p => p.1 == l.line)).map (·.2)).foldl (fun ps p => if ps.contains p then ps else ps ++ [p]) l.pages }
  let new := (gs.filter (fun g => !s.team.specLines.any (fun l => l.line == g.1))).length
  if specUsed s s.die + new > Config.specLines then specTrap 2 s
  else finish { s with
    nextId := s.nextId + 1
    core := dropL1 (gs.map (·.1)) s.core
    team := { s.team with specLines := (gs.foldl (fun ls g => holdLine g.1 (storePieces g.2) ls) s.team.specLines).map named }
    w := s.w.addOp s.nextId .st .now [] 0 true 0 }

/-! ## Watchpoints on a core's own stores (16 R353) -/

/-- The first watched byte among bytes [pa, pa + n) and the lowest index of a range they hit: index and virtual address
(16 R353). -/
def watchHit (c : Ctx) (pa n : Nat) : Option (Nat × Nat) :=
  let us := (c.watch.flatMap (fun r => r.units.map (fun u => (r.idx, u)))).filter (fun u =>
    decide (pa < u.2.2.1 + u.2.2.2) && decide (u.2.2.1 < pa + n))
  match us with
  | [] => none
  | u :: t =>
    let first := fun (x : Nat × Nat × Nat × Nat) => max pa x.2.2.1
    let f := t.foldl (fun b x => if first x < first b then x else b) u
    some (t.foldl (fun m x => min m x.1) u.1, f.2.1 + (first f - f.2.2.1))

/-- The threads whose part of an instruction writes its location as memory stands now: all but those of a failing ACAS. -/
def writers (parts : List WPart) (s : State) : List Nat :=
  (parts.foldl (fun (acc : Applied × List Nat) p => match p with
    | .store _ _ _ => acc
    | .rmw pa fn x y t =>
      let r := applyRmw pa fn x y t { acc.1 with did := false }
      (r, if r.did then acc.2 ++ [t] else acc.2)) ({ mem := s.mem, mp := s.mp }, [])).2

/-- A store, atomic or reduction that hits an armed range raises WATCH, and no thread of it is performed. -/
def watchChecked (n : Nat) (pas : List (Nat × Nat)) (s : State) (k : State → State) : State :=
  if s.ctx.watch.isEmpty || s.w.cur.skip then k s
  else
    let hits := pas.filterMap (fun p => (watchHit s.ctx p.2 n).map (fun h => (p.1, h)))
    match hits with
    | [] => k s
    | (_, idx, va) :: _ =>
      takeTrap { code := 0x10, tsub := idx, taddr := w64 va, tmask := maskOf (fun t => hits.any (fun h => h.1 == t)) } s

/-! ## Scratchpad places (06 R114, R115; 09 R206; 10 R224) -/

/-- A place of a core's local memories: its SRAM or its accumulator store. -/
inductive Local where
  | sram (off : Nat)
  | acc (off : Nat)
  deriving DecidableEq, Repr

/-- The place of n bytes at a scratchpad address of a team, if the team may access them (03 R35, 10 R224). -/
def spadPlace (c : Core) (t : Team) (off n : Nat) : Option Local :=
  if off + n ≤ t.ssize then some (.sram (t.sbase + off))
  else if c.windows.any (fun w => w.1 == t.uid && decide (w.2.1 ≤ off) && decide (off + n ≤ w.2.1 + w.2.2)) then
    some (.acc (off - 0x1000000))
  else none

/-- A byte of the accumulator store; a byte of a lost part is free until it is written (10 R234). -/
def accByte (c : Core) (o : Nat) : Byte :=
  match c.acc.find? (fun p => p.1 == o) with
  | some p => p.2
  | none => match c.lost.find? (fun p => p.1 == o / 0x80000) with
    | some p => Config.freeByte p.2 o
    | none => 0

/-- The bytes of the accumulator store after a write: every byte written is listed. -/
def accPut (m : List Host.Cell) (a : Nat) : List Byte → List Host.Cell
  | [] => m
  | b :: bs => accPut (tabIns a b (tabDel a m)) (a + 1) bs

def readLocal (c : Core) (l : Local) (n : Nat) : List Byte × Bool :=
  match l with
  | .sram o => (memBytes c.sram o n, granPoisoned c.sp o n)
  | .acc o => ((List.range n).map (fun i => accByte c (o + i)), granPoisoned c.ap o n)

/-- Write pieces into a core's local memories (06 R119), all of one instruction. -/
def writeLocals (ps : List (Local × List Byte × Bool)) (c : Core) : Core :=
  let a := ps.filterMap (fun p => match p.1 with | .sram o => some (o, p.2) | .acc _ => none)
  let b := ps.filterMap (fun p => match p.1 with | .acc o => some (o, p.2) | .sram _ => none)
  { c with
    sram := putPieces c.sram a, sp := putPoison c.sp a
    acc := b.foldl (fun m p => accPut m p.1 p.2.1) c.acc, ap := putPoison c.ap b }

/-- An atomic at a local place. -/
def rmwLocal (l : Local) (fn : Rmw) (x y : W32) (t : Nat) (c : Core) : AtomRes × Core :=
  match l with
  | .sram o =>
    let r := applyRmw o fn x y t { mem := c.sram, mp := c.sp }
    ((r.res.head?).getD ⟨t, 0, false⟩, { c with sram := r.mem })
  | .acc o =>
    let r := applyRmw o fn x y t { mem := memPut [] o (readLocal c l 4).1, mp := c.ap }
    ((r.res.head?).getD ⟨t, 0, false⟩, if r.did then { c with acc := accPut c.acc o (memBytes r.mem o 4) } else c)

/-- The judgement of one scratchpad access: poison of the address, ALIGN, PROT WHY 4 with SPACE 1. -/
def chkSpad (s : State) (acc : Acc) (size off : Nat) (poi : Bool) : Chk :=
  if poi then .fail { code := 0x06, tsub := 4 }
  else if off % size ≠ 0 then .fail { code := 0x03, taddr := w64 off }
  else match spadPlace s.core s.team off size with
    | some _ => .ok 0 off
    | none => .fail { code := 0x05, taddr := w64 off, info := accInfo 1 4 0 0 acc }

/-! ## Waiting for one's own operations -/

/-- A fence of a scope is complete (06 R131). Scratchpad accesses are performed when they issue. -/
def fenceDone (scope : Nat) (s : State) : Bool :=
  if scope < 3 then true
  else
    (s.w.ops.all (fun o => o.cls != .st || o.done))
    && decide (s.time > s.w.wmax + (if scope ≥ 5 then Config.fabricSkew else 0))

/-- A release first does everything a FENCE of its scope does. -/
def afterFence (scope : Nat) (s : State) (k : State → State) : State :=
  if fenceDone scope s then k s else parkHere s

/-- A trap that consumes something (a failure report) only when it is delivered, not while another split's handler
makes the split wait (16 R342). -/
def trapOnce (c : Cause) (s : State) (used : State → State) : State :=
  if s.w.others.any Split.handler then parkHere s else takeTrap c (used s)

/-! ## Shoot-downs (03 R46) -/

/-- Whether a shoot-down invalidates an entry of an ASID for a page. -/
def shootHits (asid va : Option Nat) (a : Nat) (size v : Nat) : Bool :=
  (match asid with
    | some x => x == a
    | none => true) && (match va with
    | some x => decide (x / 2 ^ size = v / 2 ^ size)
    | none => true)

def shootTlb (asid va : Option Nat) (t : List TlbEntry) : List TlbEntry :=
  t.filter (fun e => !shootHits asid va e.asid e.size e.va)

/-- Fresh results of a page are dropped with the cached entries. -/
def shootFresh (va : Option Nat) (p : Split) : Split :=
  { p with fresh := p.fresh.filter (fun q => match va with
      | some x => let n := match q.2 with
          | .leaf l => pageSize l
          | .fail _ _ => 18
        decide (x / 2 ^ n ≠ q.1 * 2 ^ 18 / 2 ^ n)
      | none => false) }

/-- The lines that speculative teams of an ASID hold through a page that a shoot-down names: stores translated and not yet
applied (03 R46): team and line. -/
def heldThrough (asid va : Option Nat) (s : State) : List (Nat × Nat) :=
  s.allTeams.flatMap (fun t => if !t.spec then [] else
    (t.specLines.filter (fun l => l.pages.any (fun p => shootHits asid va t.asid p.2 p.1))).map (fun l => (t.uid, l.line)))

/-- The records in flight that translate through a page that a shoot-down names (03 R46; 05 R100): context, chain, number. -/
def recsThrough (asid va : Option Nat) (s : State) : List (Nat × Nat × Nat) :=
  (s.ctx :: s.ctxs).flatMap (fun c => if !c.live then [] else c.chains.flatMap (fun p =>
    (p.2.recs.filter (fun r => r.leaves.any (fun l => shootHits asid va c.asid (pageSize l.2) (l.1 * 2 ^ 18)))).map
      (fun r => (c.asid, p.1, r.seq))))

/-- Whether a record still translates through leaves that it read. -/
def recHolds (s : State) (p : Nat × Nat × Nat) : Bool :=
  ((s.findCtx p.1).map (fun c => c.chains.any (fun x => x.1 == p.2.1
    && x.2.recs.any (fun r => r.seq == p.2.2 && !r.leaves.isEmpty)))).getD false

/-- The page size that a walk's result covers, as a power of two. -/
def resultSize : WalkRes → Nat
  | .leaf l => pageSize l
  | .fail _ _ => 18

/-- A walk that has read, or is to read, what a shoot-down invalidates starts again. -/
def shootWalk (asid va : Option Nat) (k : Walk) : Walk :=
  if shootHits asid va k.asid ((k.res.map resultSize).getD 18) (k.va * 2 ^ 18) then
    { k with res := none, started := false, waiters := k.waiters ++ k.late, late := [] }
  else k

/-- Start a shoot-down: the entries go at once; it is complete when the accesses outstanding now have been
performed and their WCTs have passed, with every WCT produced so far, by whatever agent: none exceeds its line's leases
(R46; notes/assumptions/25.md). Frames that have lost their last mapping are freed when it is complete. -/
def startShoot (asid va : Option Nat) (who : Option (Nat × Nat)) (s : State) : State :=
  let fc := fun (c : Core) => { c with tlb := shootTlb asid va c.tlb }
  let fw := fun (w : Warp) => { w with cur := shootFresh va w.cur, others := w.others.map (shootFresh va) }
  let mine := fun (w : Warp) => match asid with
    | some a => ((s.findTeam w.team).map (·.asid)).getD 0 == a
    | none => true
  let ops := (s.allWarps.filter mine).flatMap (fun w => (w.ops.filter (fun o => !o.done && (match o.kind with
      | .load _ _ _ _ _ _ => true
      | .atomic _ _ => true
      | .write => true
      | _ => false))).map (fun o => (w.uid, o.id)))
  let ws := s.writes.filter (fun x => match asid with
    | some a => x.by_.asid == a
    | none => true)
  let seen := (s.allWarps.filter mine).foldl (fun m w => w.ops.foldl (fun n o => max n o.wct) (max m w.wmax))
    (s.lexp.foldl (fun m p => max m p.2) 0)
  { s with
    nextId := s.nextId + 1
    core := fc s.core, cores := s.cores.map fc
    dtlb0 := shootTlb asid va s.dtlb0, dtlb1 := shootTlb asid va s.dtlb1
    w := fw s.w, ws := s.ws.map fw
    walkQ := s.walkQ.map (shootWalk asid va)
    shoots := s.shoots ++ [{ id := s.nextId, asid := asid, va := va, ops := ops, writes := ws.map (·.id)
                             held := heldThrough asid va s, recs := recsThrough asid va s, frees := s.dev.doomed
                             wct := ws.foldl (fun m x => max m (x.applied.getD 0)) seen, who := who }] }

/-- The frames that lost their last mapping are with the shoot-downs of the command that took it. -/
def sentDoomed (s : State) : State := { s with dev := { s.dev with doomed := [] } }

/-- The WCT of a write that a shoot-down waits for (03 R46). -/
def Shoot.seen (id wct : Nat) (k : Shoot) : Shoot :=
  if k.writes.contains id then { k with wct := max k.wct wct } else k

/-- Whether a shoot-down is complete (03 R46). -/
def shootDone (k : Shoot) (s : State) : Bool :=
  k.ops.all (fun p => !((s.findWarp p.1).map (fun w => w.ops.any (fun o => o.id == p.2 && !o.done))).getD false)
  && k.writes.all (fun i => !s.writes.any (fun x => x.id == i))
  && k.held.all (fun p => !((s.findTeam p.1).map (fun t => t.spec && t.specLines.any (fun l => l.line == p.2))).getD false)
  && k.recs.all (fun p => !recHolds s p)
  && decide (s.time > k.wct)

/-! ## Snapshots (12 R267) -/

/-- Copy n bytes between physical addresses, both multiples of 64, poison with them. -/
def copyPhys (src dst n : Nat) (s : State) : State :=
  let inSrc := fun a => decide (src ≤ a) && decide (a < src + n)
  let inDst := fun a => decide (dst ≤ a) && decide (a < dst + n)
  wakeLines (fun l => decide (dst < 128 * l + 128) && decide (128 * l < dst + n)) { s with
    mem := (s.mem.filter (fun p => inSrc p.1)).foldl (fun m p => memWrite m (dst + (p.1 - src)) p.2)
      (s.mem.filter (fun p => !inDst p.1))
    mp := (s.mp.filter (fun g => inSrc (64 * g))).foldl (fun m g => setIns (dst / 64 + (g - src / 64)) m)
      (s.mp.filter (fun g => !inDst (64 * g))) }

/-- The granules of 4 KiB that a write touches are copied for every snapshot that has not copied them; whether any was. -/
def saveOld (touched : Nat → Bool) (s : State) : State × Bool :=
  let hit := fun (x : Snap) => match (s.findCtx x.asid).bind (fun c => ctxPA s c x.va) with
    | some pa => touched (pa / 4096)
    | none => false
  let hs := s.snaps.filter hit
  (hs.foldl (fun s x => match s.findCtx x.asid with
    | some c => match ctxPA s c x.va, ctxPA s c x.dst with
      | some a, some b => copyPhys a b 4096 s
      | _, _ => s
    | none => s) { s with snaps := s.snaps.filter (fun x => !hit x) }, !hs.isEmpty)

/-- What such a copy adds to a WCT. -/
def copyTime (s : State) (copied : Bool) : Nat := if copied then Config.granuleCopy s.tick else 0

end Sys2Proof.Machine
end

