-- ==== Sys2Proof/Machine/MemInstr.lean ====
section
/-! DEFINITION. Memory instructions of majors 0x20 to 0x25 and 0x05, and the peer accesses of major 0x26 (06 R116 to
R126). -/

namespace Sys2Proof.Machine

open Sys2Proof

/-! ## Addresses (06 R118) -/

/-- The global address of thread t. -/
def gAddr (s : State) (sb : BitVec 6) (va : BitVec 7) (t : Nat) : W64 :=
  sval s sb + sext64 (s.w.vGet va.toNat t)

/-- The scratchpad address of thread t, an unsigned 33-bit sum. -/
def spAddr (s : State) (sb : BitVec 6) (va : BitVec 7) (t : Nat) : Nat :=
  (sval s sb).toNat % 2 ^ 32 + (s.w.vGet va.toNat t).toNat

/-- The registers of a group of n that starts at d. -/
def regGroup (d n : Nat) : List Nat := (List.range n).map (· + d)

/-- The registers that data of a size takes. -/
def dataRegs (size : Nat) : Nat := if size ≤ 4 then 1 else size / 4

/-- Judge a global access of every active thread. -/
def chkAll (s : State) (acc : Acc) (size : Nat) (sb : BitVec 6) (va : BitVec 7) : List (Nat × Chk) :=
  (maskThreads s.w.cur.active).map (fun t => (t, chkGlobal s acc size (gAddr s sb va t) (s.w.pGet va.toNat t)))

/-- Leaf and physical address of each thread that passed. -/
def passed (l : List (Nat × Chk)) : List (Nat × W64 × Nat) := l.filterMap (fun p => match p.2 with
  | .ok leaf pa => some (p.1, leaf, pa)
  | _ => none)

/-! ## Loads (06 R120, R121) -/

/-- A vector load issues: its registers await its data (06 R127, 07 R143). -/
def issueLoad (size : Nat) (ext : Ext) (byHome acq : Bool) (d : Nat) (parts : List LoadPart) (lines : List Nat)
    (s : State) : State :=
  let regs := regGroup d (dataRegs size)
  let m := s.w.cur.active
  let w1 := regs.foldl (fun (w : Warp) r => { w with ops := dropDest r m w.ops }) s.w
  finish { s with
    nextId := s.nextId + 1
    core := if byHome || acq then dropL1 lines s.core else s.core
    w := w1.addOp s.nextId .ld (.load size ext d byHome acq parts) (regs.map (fun r => (r, m))) 0 false 0 }

/-- A global load. -/
def loadGlobal (ok : Bool) (size : Nat) (ext : Ext) (byHome acq : Bool) (d : BitVec 7) (sb : BitVec 6) (va : BitVec 7)
    (s : State) : State :=
  inRange ok s fun s => withRegs [va.toNat] (regGroup d.toNat (dataRegs size)) s fun s => withRoom .ld s fun s =>
    let l := chkAll s .read size sb va
    judged l s fun s =>
      let ps := passed l
      issueLoad size ext byHome acq d.toNat
        (ps.map (fun p => { t := p.1, place := .mem p.2.2 (leafLC p.2.1) (leafPR p.2.1) (gAddr s sb va p.1).toNat }))
        (ps.map (fun p => lineOf p.2.2)) s

/-- The value of word j of loaded bytes (06 R120). -/
def loadWord (size : Nat) (ext : Ext) (bs : List Byte) (j : Nat) : W32 :=
  if size < 4 then
    match ext with
    | .zero => w32 (ofBytes bs)
    | .sign => BitVec.ofInt 32 (signedOf (8 * size) (ofBytes bs))
  else w32 (ofBytes ((bs.drop (4 * j)).take 4))

/-- Write loaded data of several threads into a register group. -/
def putLoaded (size : Nat) (ext : Ext) (d : Nat) (vals : List (Nat × List Byte × Bool)) (w : Warp) : Warp :=
  let m := maskOf (fun t => vals.any (fun p => p.1 == t))
  let poi := maskOf (fun t => vals.any (fun p => p.1 == t && p.2.2))
  (List.range (dataRegs size)).foldl (fun w j =>
    w.vSet (d + j) m (fun t => loadWord size ext (((vals.find? (fun p => p.1 == t)).map (·.2.1)).getD []) j) poi) w

/-- A scratchpad load: performed when it issues (06 R115). -/
def loadSpad (ok : Bool) (size : Nat) (ext : Ext) (d : BitVec 7) (sb : BitVec 6) (va : BitVec 7) (s : State) : State :=
  inRange ok s fun s => withRegs [va.toNat] (regGroup d.toNat (dataRegs size)) s fun s => withRoom .ld s fun s => afterAcquires s fun s =>
    let ts := maskThreads s.w.cur.active
    judged (ts.map (fun t => (t, chkSpad s .read size (spAddr s sb va t) (s.w.pGet va.toNat t)))) s fun s =>
      let vals := ts.map (fun t =>
        (t, match spadPlace s.core s.team (spAddr s sb va t) size with
          | some p => readLocal s.core p size
          | none => ([], false)))
      finish { s with nextId := s.nextId + 1
                      w := putLoaded size ext d.toNat vals (s.w.addOp s.nextId .ld .now [] 0 true 0) }

/-! ## Stores -/

/-- The bytes thread t stores from a register group. -/
def storeBytes (w : Warp) (size d t : Nat) : List Byte :=
  if size < 4 then toBytes size (w.vGet d t).toNat
  else (List.range (size / 4)).flatMap (fun j => toBytes 4 (w.vGet (d + j) t).toNat)

/-- Whether thread t's store data is poisoned. -/
def storePois (w : Warp) (size d t : Nat) : Bool := (regGroup d (dataRegs size)).any (fun r => w.pGet r t)

/-- A global store (06 R118 to R120, R137; 16 R353); rel: first a FENCE 4 (06 R121). -/
def storeGlobal (ok rel : Bool) (size : Nat) (d : BitVec 7) (sb : BitVec 6) (va : BitVec 7) (s : State) : State :=
  inRange ok s fun s => heldRegs (va.toNat :: regGroup d.toNat (dataRegs size)) s fun s => notDawn s fun s => withRegs (va.toNat :: regGroup d.toNat (dataRegs size)) [] s fun s =>
    (if rel then afterFence 4 s else fun k => k s) fun s => withRoom .st s fun s =>
      let l := chkAll s .write size sb va
      judged l s fun s =>
        let ps := passed l
        watchChecked size (ps.map (fun p => (p.1, p.2.2))) s fun s =>
          let parts := ps.map (fun p => (lineOf p.2.2,
            WPart.store p.2.2 (storeBytes s.w size d.toNat p.1) (storePois s.w size d.toNat p.1)))
          if s.team.spec then specStore (ps.map (fun p => pageOf p.2.1 p.2.2 (gAddr s sb va p.1).toNat)) parts s
          else finish (sendWrites .st .write [] parts s)

/-- A scratchpad store: performed when it issues. -/
def storeSpad (ok : Bool) (size : Nat) (d : BitVec 7) (sb : BitVec 6) (va : BitVec 7) (s : State) : State :=
  inRange ok s fun s => heldRegs (va.toNat :: regGroup d.toNat (dataRegs size)) s fun s => notDawn s fun s => withRegs (va.toNat :: regGroup d.toNat (dataRegs size)) [] s fun s =>
    withRoom .st s fun s =>
      let ts := maskThreads s.w.cur.active
      judged (ts.map (fun t => (t, chkSpad s .write size (spAddr s sb va t) (s.w.pGet va.toNat t)))) s fun s =>
        let ps := ts.filterMap (fun t => (spadPlace s.core s.team (spAddr s sb va t) size).map (fun p =>
          (p, storeBytes s.w size d.toNat t, storePois s.w size d.toNat t)))
        finish { s with nextId := s.nextId + 1, core := writeLocals ps s.core
                        w := s.w.addOp s.nextId .st .now [] 0 true s.time }

/-! ## Atomics and reductions (06 R119, R122 to R124) -/

/-- Poisoned data of an atomic or reduction raises POISON, and no thread performs the access. -/
def dataClean (rs : List Nat) (s : State) (k : State → State) : State :=
  let m := rs.foldl (fun m r => m ||| s.w.vPois r) 0 &&& s.w.cur.active
  if m = 0 then k s else takeTrap { code := 0x06, tsub := 3, tmask := m } s

/-- The data registers of a function. -/
def rmwRegs (fn : Rmw) (d : Nat) : List Nat := if fn = .cas then [d, d + 1] else [d]

/-- A global atomic (ret) or reduction. Whether an ACAS would fail, and so be no watch hit (16 R352), is judged by memory as it
stands at issue (log 100, DESIGN CHOICE). -/
def rmwGlobal (ok ret : Bool) (fn : Rmw) (d : BitVec 7) (sb : BitVec 6) (va : BitVec 7) (s : State) : State :=
  inRange ok s fun s => heldRegs (d.toNat :: va.toNat :: rmwRegs fn d.toNat) s fun s => notDawn s fun s =>
    withRegs (va.toNat :: rmwRegs fn d.toNat) (if ret then [d.toNat] else []) s fun s => notSpec 1 s fun s =>
      withRoom (if ret then .ld else .st) s fun s =>
        let l := chkAll s .atomic 4 sb va
        judged l s fun s => dataClean (rmwRegs fn d.toNat) s fun s =>
          let ps := passed l
          let parts := ps.map (fun p => (lineOf p.2.2,
            WPart.rmw p.2.2 fn (s.w.vGet d.toNat p.1) (s.w.vGet (d.toNat + 1) p.1) p.1))
          let hit := if s.ctx.watch.isEmpty then [] else if fn = .cas then writers (parts.map (·.2)) s else ps.map (·.1)
          watchChecked 4 ((ps.filter (fun p => hit.contains p.1)).map (fun p => (p.1, p.2.2))) s fun s =>
            let m := s.w.cur.active
            if ret then
              finish (sendWrites .ld (.atomic d.toNat []) [(d.toNat, m)] parts
                { s with w := { s.w with ops := dropDest d.toNat m s.w.ops } })
            else finish (sendWrites .st .write [] parts s)

/-- The atomics of several threads on local places, in ascending order. -/
def rmwLocals (l : List (Nat × Local × W32 × W32)) (fn : Rmw) (c : Core) : List AtomRes × Core :=
  l.foldl (fun acc p =>
    let r := rmwLocal p.2.1 fn p.2.2.1 p.2.2.2 p.1 acc.2
    (acc.1 ++ [r.1], r.2)) ([], c)

/-- The WCT of local atomics: their arrival; none where every one is a failed ACAS (06 R110, R123). -/
def localWct (l : List (Nat × Local × W32 × W32)) (fn : Rmw) (res : List AtomRes) (time : Nat) : Nat :=
  if fn != .cas || l.any (fun p => res.any (fun r => r.t == p.1 && !r.poi && r.old == p.2.2.1)) then time else 0

/-- Write the old values an atomic returned. -/
def putOld (d : Nat) (res : List AtomRes) (w : Warp) : Warp :=
  w.vSet d (maskOf (fun t => res.any (fun r => r.t == t)))
    (fun t => ((res.find? (fun r => r.t == t)).map (·.old)).getD 0)
    (maskOf (fun t => res.any (fun r => r.t == t && r.poi)))

/-- A scratchpad atomic. -/
def rmwSpad (ok : Bool) (fn : Rmw) (d : BitVec 7) (sb : BitVec 6) (va : BitVec 7) (s : State) : State :=
  inRange ok s fun s => heldRegs ((va.toNat :: rmwRegs fn d.toNat) ++ [d.toNat]) s fun s => notDawn s fun s => withRegs (va.toNat :: rmwRegs fn d.toNat) [d.toNat] s fun s =>
    withRoom .ld s fun s => afterAcquires s fun s =>
      let ts := maskThreads s.w.cur.active
      judged (ts.map (fun t => (t, chkSpad s .atomic 4 (spAddr s sb va t) (s.w.pGet va.toNat t)))) s fun s =>
        dataClean (rmwRegs fn d.toNat) s fun s =>
          let ps := ts.filterMap (fun t => (spadPlace s.core s.team (spAddr s sb va t) 4).map (fun p =>
            (t, p, s.w.vGet d.toNat t, s.w.vGet (d.toNat + 1) t)))
          let r := rmwLocals ps fn s.core
          finish { s with nextId := s.nextId + 1, core := r.2
                          w := putOld d.toNat r.1 (s.w.addOp s.nextId .ld .now [] 0 true (localWct ps fn r.1 s.time)) }

/-! ## Peer windows (03 R35, 06 R116, R125) -/

/-- The team that a peer handle's rank names, if it exists. -/
def peerTeam (s : State) (h : W64) : Option Team :=
  let rank := h.toNat % 256
  s.allTeams.find? (fun t => t.launch == s.team.launch && !t.retired
    && t.index == s.team.index / s.team.csize * s.team.csize + rank)

/-- The judgement of one peer access. -/
def chkPeer (s : State) (acc : Acc) (h : W64) (off : Nat) (poi : Bool) : Chk :=
  let rank := h.toNat % 256
  if poi then .fail { code := 0x06, tsub := 4 }
  else if off % 4 ≠ 0 then .fail { code := 0x03, taddr := w64 off }
  else if bits h.toNat 63 24 ≠ 0 ∨ rank ≥ s.team.csize then
    .fail { code := 0x04, taddr := w64 off, info := accInfo 2 5 0 rank acc }
  else if bits h.toNat 23 8 ≠ s.team.pgen then .fail { code := 0x08, taddr := h }
  else match peerTeam s h with
    | none => .fail { code := 0x04, taddr := w64 off, info := accInfo 2 5 0 rank acc }
    | some t =>
      if off + 4 ≤ t.ssize then .ok 0 (t.sbase + off)
      else .fail { code := 0x05, taddr := w64 off, info := accInfo 2 4 0 rank acc }

/-- PEER_STALE names every active thread (06 R125). -/
def staleAll (act : W32) (l : List (Nat × Chk)) (s : State) (k : State → State) : State :=
  match verdict l with
  | .trap c => takeTrap (if c.code = 0x08 then { c with tmask := act } else c) s
  | .walks vas => awaitWalks vas s
  | .go => k s

/-- The offset operand of a peer or remote access. -/
def offVal (s : State) (va : BitVec 7) (t : Nat) : Nat := (s.w.vGet va.toNat t).toNat

/-- A peer access: performed at the peer core's SRAM when it issues. -/
def peerAccess (acc : Acc) (c : Cls) (reads writes : List Nat) (clean : List Nat) (sb : BitVec 6) (va : BitVec 7)
    (s : State) (k : Nat → List (Nat × Nat) → State → State) : State :=
  heldRegs ((va.toNat :: reads) ++ writes) s fun s => notDawn s fun s => withRegs (va.toNat :: reads) writes s fun s => specReads acc s fun s => withRoom c s fun s => (if c = .ld then afterAcquires s else fun k => k s) fun s =>
    let ts := maskThreads s.w.cur.active
    let l := ts.map (fun t => (t, chkPeer s acc (sval s sb) (offVal s va t) (s.w.pGet va.toNat t)))
    staleAll s.w.cur.active l s fun s => dataClean clean s fun s =>
      match peerTeam s (sval s sb) with
      | some t => k t.core ((passed l).map (fun p => (p.1, p.2.2))) s
      | none => finish s

/-- LDPW. -/
def execLdpw (d : BitVec 7) (sb : BitVec 6) (va : BitVec 7) (s : State) : Out :=
  .next (peerAccess .read .ld [] [d.toNat] [] sb va s fun core ps s =>
    let c := s.getCore core
    finish { s with nextId := s.nextId + 1
                    w := putLoaded 4 .zero d.toNat (ps.map (fun p => (p.1, readLocal c (.sram p.2) 4)))
                      (s.w.addOp s.nextId .ld .now [] 0 true 0) })

/-- STPW. -/
def execStpw (d : BitVec 7) (sb : BitVec 6) (va : BitVec 7) (s : State) : Out :=
  .next (peerAccess .write .st [d.toNat] [] [] sb va s fun core ps s =>
    let ws := ps.map (fun p => (Local.sram p.2, storeBytes s.w 4 d.toNat p.1, storePois s.w 4 d.toNat p.1))
    finish ({ s with nextId := s.nextId + 1, w := s.w.addOp s.nextId .st .now [] 0 true s.time }.modCore core (writeLocals ws)))

/-- APADD. -/
def execApadd (d : BitVec 7) (sb : BitVec 6) (va : BitVec 7) (s : State) : Out :=
  .next (peerAccess .atomic .ld [d.toNat] [d.toNat] [d.toNat] sb va s fun core ps s =>
    let r := rmwLocals (ps.map (fun p => (p.1, Local.sram p.2, s.w.vGet d.toNat p.1, 0))) .add (s.getCore core)
    finish ({ s with nextId := s.nextId + 1
                     w := putOld d.toNat r.1 (s.w.addOp s.nextId .ld .now [] 0 true s.time) }.modCore core (fun _ => r.2)))

/-! ## Scalar accesses (06 R126) -/

/-- The address of a scalar access. -/
def scAddr (s : State) (a : BitVec 6) (i : BitVec 9) (size : Nat) : W64 := sval s a + sext64 i * w64 size

/-- The judgement of a scalar access: a fault names every active thread. -/
def judgedScalar (acc : Acc) (size : Nat) (va : W64) (s : State) (k : W64 → Nat → State → State) : State :=
  match chkGlobal s acc size va false with
  | .ok l pa => k l pa s
  | .fail c => takeTrap { c with tmask := s.w.cur.active } s
  | .walk v => awaitWalks [v] s

/-- A load made for the issuing split itself, which waits for its data (06 R126): the bytes read, or POISON with
nothing changed. -/
def inlineLoad (useL1 acq : Bool) (size : Nat) (va : W64) (tsub : Nat) (s : State) (k : Nat → State → State) : State :=
  judgedScalar .read size va s fun l pa s =>
    if !loadMayRun s s.w.uid s.nextId [(s.dev.chipId, pa, size)] then parkHere s
    else
      let r := readLine s.w.uid s.core.num s.team.uid pa size (leafLC l) (leafPR l) useL1 s
      if r.2.1 then takeTrap { code := 0x06, tsub := tsub, taddr := va &&& ~~~63#64, tmask := s.w.cur.active } s
      else
        let s1 := if useL1 then r.2.2 else { r.2.2 with core := dropL1 [lineOf pa] r.2.2.core }
        let s2 := if acq then { s1 with w := { s1.w with ah := max s1.w.ah s.time } } else s1
        k (ofBytes r.1) s2

/-- A scalar load counts under LD and completes at once. -/
def scalarLoad (useL1 acq : Bool) (size : Nat) (d a : BitVec 6) (i : BitVec 9) (s : State) : State :=
  withRoom .ld s fun s => inlineLoad useL1 acq size (scAddr s a i size) 2 s fun x s =>
    putS d (w64 x) { s with nextId := s.nextId + 1, w := s.w.addOp s.nextId .ld .now [] 0 true 0 }

/-- A scalar store. -/
def scalarStore (rel : Bool) (size : Nat) (d a : BitVec 6) (i : BitVec 9) (s : State) : State :=
  notDawn s fun s => (if rel then afterFence 4 s else fun k => k s) fun s => withRoom .st s fun s =>
    judgedScalar .write size (scAddr s a i size) s fun l pa s =>
      watchChecked size ((maskThreads s.w.cur.active).map (fun t => (t, pa))) s fun s =>
        let parts := [(lineOf pa, WPart.store pa (toBytes size (sval s d).toNat) false)]
        if s.team.spec then specStore [pageOf l pa (scAddr s a i size).toNat] parts s else finish (sendWrites .st .write [] parts s)

def execSldw (d a : BitVec 6) (i : BitVec 9) (s : State) : Out := .next (scalarLoad true false 4 d a i s)
def execSldd (d a : BitVec 6) (i : BitVec 9) (s : State) : Out := .next (scalarLoad true false 8 d a i s)
def execSldda (d a : BitVec 6) (i : BitVec 9) (s : State) : Out := .next (scalarLoad false true 8 d a i s)
def execSstw (d a : BitVec 6) (i : BitVec 9) (s : State) : Out := .next (scalarStore false 4 d a i s)
def execSstd (d a : BitVec 6) (i : BitVec 9) (s : State) : Out := .next (scalarStore false 8 d a i s)
def execSstdl (d a : BitVec 6) (i : BitVec 9) (s : State) : Out := .next (scalarStore true 8 d a i s)

/-! ## Major 0x20: global loads -/

/-- LDB, with BY at home. -/
def execLdb (d : BitVec 7) (sb : BitVec 6) (va : BitVec 7) (y : BitVec 1) (s : State) : Out :=
  .next (loadGlobal true 1 .zero (y == 1) false d sb va s)
/-- LDBS, with BY at home. -/
def execLdbs (d : BitVec 7) (sb : BitVec 6) (va : BitVec 7) (y : BitVec 1) (s : State) : Out :=
  .next (loadGlobal true 1 .sign (y == 1) false d sb va s)
/-- LDH, with BY at home. -/
def execLdh (d : BitVec 7) (sb : BitVec 6) (va : BitVec 7) (y : BitVec 1) (s : State) : Out :=
  .next (loadGlobal true 2 .zero (y == 1) false d sb va s)
/-- LDHS, with BY at home. -/
def execLdhs (d : BitVec 7) (sb : BitVec 6) (va : BitVec 7) (y : BitVec 1) (s : State) : Out :=
  .next (loadGlobal true 2 .sign (y == 1) false d sb va s)
/-- LDW, with BY at home. -/
def execLdw (d : BitVec 7) (sb : BitVec 6) (va : BitVec 7) (y : BitVec 1) (s : State) : Out :=
  .next (loadGlobal true 4 .zero (y == 1) false d sb va s)
/-- LDD, with BY at home. -/
def execLdd (d : BitVec 7) (sb : BitVec 6) (va : BitVec 7) (y : BitVec 1) (s : State) : Out :=
  .next (loadGlobal (d.toNat % 2 == 0) 8 .zero (y == 1) false d sb va s)
/-- LDQ, with BY at home. -/
def execLdq (d : BitVec 7) (sb : BitVec 6) (va : BitVec 7) (y : BitVec 1) (s : State) : Out :=
  .next (loadGlobal (d.toNat % 4 == 0) 16 .zero (y == 1) false d sb va s)
/-- LDWA, acquire (R121). -/
def execLdwa (d : BitVec 7) (sb : BitVec 6) (va : BitVec 7) (s : State) : Out :=
  .next (loadGlobal true 4 .zero true true d sb va s)
/-- LDDA, acquire (R121). -/
def execLdda (d : BitVec 7) (sb : BitVec 6) (va : BitVec 7) (s : State) : Out :=
  .next (loadGlobal (d.toNat % 2 == 0) 8 .zero true true d sb va s)

/-! ## Major 0x21: global stores -/

/-- STB. -/
def execStb (d : BitVec 7) (sb : BitVec 6) (va : BitVec 7) (s : State) : Out :=
  .next (storeGlobal true false 1 d sb va s)
/-- STH. -/
def execSth (d : BitVec 7) (sb : BitVec 6) (va : BitVec 7) (s : State) : Out :=
  .next (storeGlobal true false 2 d sb va s)
/-- STW. -/
def execStw (d : BitVec 7) (sb : BitVec 6) (va : BitVec 7) (s : State) : Out :=
  .next (storeGlobal true false 4 d sb va s)
/-- STD. -/
def execStd (d : BitVec 7) (sb : BitVec 6) (va : BitVec 7) (s : State) : Out :=
  .next (storeGlobal (d.toNat % 2 == 0) false 8 d sb va s)
/-- STQ. -/
def execStq (d : BitVec 7) (sb : BitVec 6) (va : BitVec 7) (s : State) : Out :=
  .next (storeGlobal (d.toNat % 4 == 0) false 16 d sb va s)
/-- STWL. -/
def execStwl (d : BitVec 7) (sb : BitVec 6) (va : BitVec 7) (s : State) : Out :=
  .next (storeGlobal true true 4 d sb va s)
/-- STDL. -/
def execStdl (d : BitVec 7) (sb : BitVec 6) (va : BitVec 7) (s : State) : Out :=
  .next (storeGlobal (d.toNat % 2 == 0) true 8 d sb va s)

/-! ## Major 0x22: scratchpad -/

/-- LDSB. -/
def execLdsb (d : BitVec 7) (sb : BitVec 6) (va : BitVec 7) (s : State) : Out :=
  .next (loadSpad true 1 .zero d sb va s)
/-- LDSBS. -/
def execLdsbs (d : BitVec 7) (sb : BitVec 6) (va : BitVec 7) (s : State) : Out :=
  .next (loadSpad true 1 .sign d sb va s)
/-- LDSH. -/
def execLdsh (d : BitVec 7) (sb : BitVec 6) (va : BitVec 7) (s : State) : Out :=
  .next (loadSpad true 2 .zero d sb va s)
/-- LDSHS. -/
def execLdshs (d : BitVec 7) (sb : BitVec 6) (va : BitVec 7) (s : State) : Out :=
  .next (loadSpad true 2 .sign d sb va s)
/-- LDSW. -/
def execLdsw (d : BitVec 7) (sb : BitVec 6) (va : BitVec 7) (s : State) : Out :=
  .next (loadSpad true 4 .zero d sb va s)
/-- LDSD. -/
def execLdsd (d : BitVec 7) (sb : BitVec 6) (va : BitVec 7) (s : State) : Out :=
  .next (loadSpad (d.toNat % 2 == 0) 8 .zero d sb va s)
/-- LDSQ. -/
def execLdsq (d : BitVec 7) (sb : BitVec 6) (va : BitVec 7) (s : State) : Out :=
  .next (loadSpad (d.toNat % 4 == 0) 16 .zero d sb va s)
/-- STSB. -/
def execStsb (d : BitVec 7) (sb : BitVec 6) (va : BitVec 7) (s : State) : Out :=
  .next (storeSpad true 1 d sb va s)
/-- STSH. -/
def execStsh (d : BitVec 7) (sb : BitVec 6) (va : BitVec 7) (s : State) : Out :=
  .next (storeSpad true 2 d sb va s)
/-- STSW. -/
def execStsw (d : BitVec 7) (sb : BitVec 6) (va : BitVec 7) (s : State) : Out :=
  .next (storeSpad true 4 d sb va s)
/-- STSD. -/
def execStsd (d : BitVec 7) (sb : BitVec 6) (va : BitVec 7) (s : State) : Out :=
  .next (storeSpad (d.toNat % 2 == 0) 8 d sb va s)
/-- STSQ. -/
def execStsq (d : BitVec 7) (sb : BitVec 6) (va : BitVec 7) (s : State) : Out :=
  .next (storeSpad (d.toNat % 4 == 0) 16 d sb va s)

/-! ## Majors 0x23, 0x24, 0x25: atomics and reductions -/

/-- AADD. -/
def execAadd (d : BitVec 7) (sb : BitVec 6) (va : BitVec 7) (s : State) : Out :=
  .next (rmwGlobal true true .add d sb va s)
/-- AADD.s. -/
def execAaddS (d : BitVec 7) (sb : BitVec 6) (va : BitVec 7) (s : State) : Out :=
  .next (rmwSpad true .add d sb va s)
/-- AMIN. -/
def execAmin (d : BitVec 7) (sb : BitVec 6) (va : BitVec 7) (s : State) : Out :=
  .next (rmwGlobal true true .min d sb va s)
/-- AMIN.s. -/
def execAminS (d : BitVec 7) (sb : BitVec 6) (va : BitVec 7) (s : State) : Out :=
  .next (rmwSpad true .min d sb va s)
/-- AMAX. -/
def execAmax (d : BitVec 7) (sb : BitVec 6) (va : BitVec 7) (s : State) : Out :=
  .next (rmwGlobal true true .max d sb va s)
/-- AMAX.s. -/
def execAmaxS (d : BitVec 7) (sb : BitVec 6) (va : BitVec 7) (s : State) : Out :=
  .next (rmwSpad true .max d sb va s)
/-- AMINN. -/
def execAminn (d : BitVec 7) (sb : BitVec 6) (va : BitVec 7) (s : State) : Out :=
  .next (rmwGlobal true true .minn d sb va s)
/-- AMINN.s. -/
def execAminnS (d : BitVec 7) (sb : BitVec 6) (va : BitVec 7) (s : State) : Out :=
  .next (rmwSpad true .minn d sb va s)
/-- AMAXN. -/
def execAmaxn (d : BitVec 7) (sb : BitVec 6) (va : BitVec 7) (s : State) : Out :=
  .next (rmwGlobal true true .maxn d sb va s)
/-- AMAXN.s. -/
def execAmaxnS (d : BitVec 7) (sb : BitVec 6) (va : BitVec 7) (s : State) : Out :=
  .next (rmwSpad true .maxn d sb va s)
/-- AAND. -/
def execAand (d : BitVec 7) (sb : BitVec 6) (va : BitVec 7) (s : State) : Out :=
  .next (rmwGlobal true true .and d sb va s)
/-- AAND.s. -/
def execAandS (d : BitVec 7) (sb : BitVec 6) (va : BitVec 7) (s : State) : Out :=
  .next (rmwSpad true .and d sb va s)
/-- AOR. -/
def execAor (d : BitVec 7) (sb : BitVec 6) (va : BitVec 7) (s : State) : Out :=
  .next (rmwGlobal true true .or d sb va s)
/-- AOR.s. -/
def execAorS (d : BitVec 7) (sb : BitVec 6) (va : BitVec 7) (s : State) : Out :=
  .next (rmwSpad true .or d sb va s)
/-- AXOR. -/
def execAxor (d : BitVec 7) (sb : BitVec 6) (va : BitVec 7) (s : State) : Out :=
  .next (rmwGlobal true true .xor d sb va s)
/-- AXOR.s. -/
def execAxorS (d : BitVec 7) (sb : BitVec 6) (va : BitVec 7) (s : State) : Out :=
  .next (rmwSpad true .xor d sb va s)
/-- AXCH. -/
def execAxch (d : BitVec 7) (sb : BitVec 6) (va : BitVec 7) (s : State) : Out :=
  .next (rmwGlobal true true .xch d sb va s)
/-- AXCH.s. -/
def execAxchS (d : BitVec 7) (sb : BitVec 6) (va : BitVec 7) (s : State) : Out :=
  .next (rmwSpad true .xch d sb va s)
/-- ACAS. -/
def execAcas (d : BitVec 7) (sb : BitVec 6) (va : BitVec 7) (s : State) : Out :=
  .next (rmwGlobal (d.toNat % 2 == 0) true .cas d sb va s)
/-- ACAS.s. -/
def execAcasS (d : BitVec 7) (sb : BitVec 6) (va : BitVec 7) (s : State) : Out :=
  .next (rmwSpad (d.toNat % 2 == 0) .cas d sb va s)
/-- AFADD. -/
def execAfadd (d : BitVec 7) (sb : BitVec 6) (va : BitVec 7) (s : State) : Out :=
  .next (rmwGlobal true true .fadd d sb va s)
/-- AFADD.s. -/
def execAfaddS (d : BitVec 7) (sb : BitVec 6) (va : BitVec 7) (s : State) : Out :=
  .next (rmwSpad true .fadd d sb va s)
/-- AFADDP. -/
def execAfaddp (d : BitVec 7) (sb : BitVec 6) (va : BitVec 7) (s : State) : Out :=
  .next (rmwGlobal true true .faddp d sb va s)
/-- AFADDP.s. -/
def execAfaddpS (d : BitVec 7) (sb : BitVec 6) (va : BitVec 7) (s : State) : Out :=
  .next (rmwSpad true .faddp d sb va s)
/-- AINC. -/
def execAinc (d : BitVec 7) (sb : BitVec 6) (va : BitVec 7) (s : State) : Out :=
  .next (rmwGlobal true true .inc d sb va s)
/-- AINC.s. -/
def execAincS (d : BitVec 7) (sb : BitVec 6) (va : BitVec 7) (s : State) : Out :=
  .next (rmwSpad true .inc d sb va s)
/-- ADEC. -/
def execAdec (d : BitVec 7) (sb : BitVec 6) (va : BitVec 7) (s : State) : Out :=
  .next (rmwGlobal true true .dec d sb va s)
/-- ADEC.s. -/
def execAdecS (d : BitVec 7) (sb : BitVec 6) (va : BitVec 7) (s : State) : Out :=
  .next (rmwSpad true .dec d sb va s)
/-- GADD. -/
def execGadd (d : BitVec 7) (sb : BitVec 6) (va : BitVec 7) (s : State) : Out :=
  .next (rmwGlobal true false .add d sb va s)
/-- GMIN. -/
def execGmin (d : BitVec 7) (sb : BitVec 6) (va : BitVec 7) (s : State) : Out :=
  .next (rmwGlobal true false .min d sb va s)
/-- GMAX. -/
def execGmax (d : BitVec 7) (sb : BitVec 6) (va : BitVec 7) (s : State) : Out :=
  .next (rmwGlobal true false .max d sb va s)
/-- GMINN. -/
def execGminn (d : BitVec 7) (sb : BitVec 6) (va : BitVec 7) (s : State) : Out :=
  .next (rmwGlobal true false .minn d sb va s)
/-- GMAXN. -/
def execGmaxn (d : BitVec 7) (sb : BitVec 6) (va : BitVec 7) (s : State) : Out :=
  .next (rmwGlobal true false .maxn d sb va s)
/-- GAND. -/
def execGand (d : BitVec 7) (sb : BitVec 6) (va : BitVec 7) (s : State) : Out :=
  .next (rmwGlobal true false .and d sb va s)
/-- GOR. -/
def execGor (d : BitVec 7) (sb : BitVec 6) (va : BitVec 7) (s : State) : Out :=
  .next (rmwGlobal true false .or d sb va s)
/-- GXOR. -/
def execGxor (d : BitVec 7) (sb : BitVec 6) (va : BitVec 7) (s : State) : Out :=
  .next (rmwGlobal true false .xor d sb va s)
/-- GFADD. -/
def execGfadd (d : BitVec 7) (sb : BitVec 6) (va : BitVec 7) (s : State) : Out :=
  .next (rmwGlobal true false .fadd d sb va s)
/-- GFADDP. -/
def execGfaddp (d : BitVec 7) (sb : BitVec 6) (va : BitVec 7) (s : State) : Out :=
  .next (rmwGlobal true false .faddp d sb va s)

end Sys2Proof.Machine
end

