-- ==== Sys2Proof/Machine/VectorInt.lean ====
section
/-! DEFINITION. Vector integer instructions of majors 0x10, 0x11, 0x1A, 0x1C and 0x1D, VMOV, and the compact forms of
the integer operators (02 R16; 07 R146, R159 to R164). -/

namespace Sys2Proof.Machine

open Sys2Proof

/-! ## The operators on 32-bit values -/

def mulHighS32 (a b : W32) : W32 := ((a.signExtend 64) * (b.signExtend 64)).extractLsb' 32 32
def mulHighU32 (a b : W32) : W32 := ((a.zeroExtend 64) * (b.zeroExtend 64)).extractLsb' 32 32
def minS32 (a b : W32) : W32 := if a.slt b then a else b
def maxS32 (a b : W32) : W32 := if a.slt b then b else a
def minU32 (a b : W32) : W32 := if a.ult b then a else b
def maxU32 (a b : W32) : W32 := if a.ult b then b else a
/-- Shifts by b[7:0] (07 R159). -/
def shl32 (a b : W32) : W32 := if b.toNat % 256 ≥ 32 then 0 else a <<< (b.toNat % 256)
def shr32 (a b : W32) : W32 := if b.toNat % 256 ≥ 32 then 0 else a >>> (b.toNat % 256)
/-- a >> min(b[7:0], 31) with sign fill (07 R161). -/
def sra32 (a b : W32) : W32 := a.sshiftRight (min (b.toNat % 256) 31)
def rot32 (a b : W32) : W32 := a.rotateLeft (b.toNat % 32)
def absd32 (a b : W32) : W32 := w32 (a.toInt - b.toInt).natAbs
/-- A signed value held within [−2^31, 2^31 − 1]. -/
def satS32 (x : Int) : W32 :=
  if x > 2147483647 then 0x7FFFFFFF else if x < -2147483648 then 0x80000000 else BitVec.ofInt 32 x
def avg32 (a b : W32) : W32 := BitVec.ofInt 32 ((a.toInt + b.toInt) / 2)
/-- The field width and position of VBFX and VBFI (07 R162). -/
def bfPos (b : W32) : Nat := b.toNat % 32
def bfWidth (b : W32) : Nat := min (bits b.toNat 13 8) 32
def bfx32 (a b : W32) : W32 := w32 ((a.toNat / 2 ^ bfPos b) % 2 ^ bfWidth b)
def bfi32 (a b c : W32) : W32 :=
  let f := w32 (2 ^ bfWidth b - 1)
  (c &&& ~~~(f <<< bfPos b)) ||| ((a &&& f) <<< bfPos b)
def pack32 (a b : W32) : W32 := w32 ((b.toNat % 65536) * 65536 + a.toNat % 65536)
/-- Byte i of VPERMB's result (07 R163). -/
def permByte (a b : W32) (i : Nat) : Nat :=
  let sel := (b.toNat / 16 ^ i) % 16
  let x := (a.toNat / 256 ^ (sel % 4)) % 256
  if sel / 8 = 1 then (if x ≥ 128 then 255 else 0) else if sel / 4 % 2 = 1 then 0 else x
def permb32 (a b : W32) : W32 :=
  w32 (permByte a b 0 + 256 * permByte a b 1 + 65536 * permByte a b 2 + 16777216 * permByte a b 3)
def clz32 (a : W32) : W32 := w32 (clz 32 a.toNat)
def popc32 (a : W32) : W32 := w32 (popc 32 a.toNat)
def brev32 (a : W32) : W32 := w32 (brev 32 a.toNat)
def abs32 (a : W32) : W32 := if a.msb then 0 - a else a

/-! ## Major 0x10: vector operands (07 R159) -/

/-- VADD. -/
def execVadd (d a b : BitVec 7) (s : State) : Out :=
  .next (lane2 d.toNat (vsrc a) (vsrc b) (pureOp fun a b _ => a + b) s)
/-- VSUB. -/
def execVsub (d a b : BitVec 7) (s : State) : Out :=
  .next (lane2 d.toNat (vsrc a) (vsrc b) (pureOp fun a b _ => a - b) s)
/-- VMUL. -/
def execVmul (d a b : BitVec 7) (s : State) : Out :=
  .next (lane2 d.toNat (vsrc a) (vsrc b) (pureOp fun a b _ => a * b) s)
/-- VMULH. -/
def execVmulh (d a b : BitVec 7) (s : State) : Out :=
  .next (lane2 d.toNat (vsrc a) (vsrc b) (pureOp fun a b _ => mulHighS32 a b) s)
/-- VMULHN. -/
def execVmulhn (d a b : BitVec 7) (s : State) : Out :=
  .next (lane2 d.toNat (vsrc a) (vsrc b) (pureOp fun a b _ => mulHighU32 a b) s)
/-- VMAD: a × b + c with the third source of R26. -/
def execVmad (d a b : BitVec 7) (s : State) : Out :=
  .next (lane3 d.toNat (vsrc a) (vsrc b) (thirdSrc s d) (pureOp fun a b c => a * b + c) s)
/-- VMIN. -/
def execVmin (d a b : BitVec 7) (s : State) : Out :=
  .next (lane2 d.toNat (vsrc a) (vsrc b) (pureOp fun a b _ => minS32 a b) s)
/-- VMAX. -/
def execVmax (d a b : BitVec 7) (s : State) : Out :=
  .next (lane2 d.toNat (vsrc a) (vsrc b) (pureOp fun a b _ => maxS32 a b) s)
/-- VMINN. -/
def execVminn (d a b : BitVec 7) (s : State) : Out :=
  .next (lane2 d.toNat (vsrc a) (vsrc b) (pureOp fun a b _ => minU32 a b) s)
/-- VMAXN. -/
def execVmaxn (d a b : BitVec 7) (s : State) : Out :=
  .next (lane2 d.toNat (vsrc a) (vsrc b) (pureOp fun a b _ => maxU32 a b) s)
/-- VAND. -/
def execVand (d a b : BitVec 7) (s : State) : Out :=
  .next (lane2 d.toNat (vsrc a) (vsrc b) (pureOp fun a b _ => a &&& b) s)
/-- VOR. -/
def execVor (d a b : BitVec 7) (s : State) : Out :=
  .next (lane2 d.toNat (vsrc a) (vsrc b) (pureOp fun a b _ => a ||| b) s)
/-- VXOR. -/
def execVxor (d a b : BitVec 7) (s : State) : Out :=
  .next (lane2 d.toNat (vsrc a) (vsrc b) (pureOp fun a b _ => a ^^^ b) s)
/-- VANDN. -/
def execVandn (d a b : BitVec 7) (s : State) : Out :=
  .next (lane2 d.toNat (vsrc a) (vsrc b) (pureOp fun a b _ => a &&& ~~~b) s)
/-- VSHL. -/
def execVshl (d a b : BitVec 7) (s : State) : Out :=
  .next (lane2 d.toNat (vsrc a) (vsrc b) (pureOp fun a b _ => shl32 a b) s)
/-- VSHR. -/
def execVshr (d a b : BitVec 7) (s : State) : Out :=
  .next (lane2 d.toNat (vsrc a) (vsrc b) (pureOp fun a b _ => shr32 a b) s)

/-! ## Major 0x1A: the scalar operand (07 R159) -/

/-- VADD with the scalar half that H selects. -/
def execVaddScalar (d a : BitVec 7) (x : BitVec 6) (h : BitVec 1) (s : State) : Out :=
  .next (lane2 d.toNat (vsrc a) (ssrc s x h) (pureOp fun a b _ => a + b) s)
/-- VSUB with the scalar half that H selects. -/
def execVsubScalar (d a : BitVec 7) (x : BitVec 6) (h : BitVec 1) (s : State) : Out :=
  .next (lane2 d.toNat (vsrc a) (ssrc s x h) (pureOp fun a b _ => a - b) s)
/-- VMUL with the scalar half that H selects. -/
def execVmulScalar (d a : BitVec 7) (x : BitVec 6) (h : BitVec 1) (s : State) : Out :=
  .next (lane2 d.toNat (vsrc a) (ssrc s x h) (pureOp fun a b _ => a * b) s)
/-- VMULH with the scalar half that H selects. -/
def execVmulhScalar (d a : BitVec 7) (x : BitVec 6) (h : BitVec 1) (s : State) : Out :=
  .next (lane2 d.toNat (vsrc a) (ssrc s x h) (pureOp fun a b _ => mulHighS32 a b) s)
/-- VMULHN with the scalar half that H selects. -/
def execVmulhnScalar (d a : BitVec 7) (x : BitVec 6) (h : BitVec 1) (s : State) : Out :=
  .next (lane2 d.toNat (vsrc a) (ssrc s x h) (pureOp fun a b _ => mulHighU32 a b) s)
/-- VMAD with the scalar half that H selects. -/
def execVmadScalar (d a : BitVec 7) (x : BitVec 6) (h : BitVec 1) (s : State) : Out :=
  .next (lane3 d.toNat (vsrc a) (ssrc s x h) (thirdSrc s d) (pureOp fun a b c => a * b + c) s)
/-- VMIN with the scalar half that H selects. -/
def execVminScalar (d a : BitVec 7) (x : BitVec 6) (h : BitVec 1) (s : State) : Out :=
  .next (lane2 d.toNat (vsrc a) (ssrc s x h) (pureOp fun a b _ => minS32 a b) s)
/-- VMAX with the scalar half that H selects. -/
def execVmaxScalar (d a : BitVec 7) (x : BitVec 6) (h : BitVec 1) (s : State) : Out :=
  .next (lane2 d.toNat (vsrc a) (ssrc s x h) (pureOp fun a b _ => maxS32 a b) s)
/-- VMINN with the scalar half that H selects. -/
def execVminnScalar (d a : BitVec 7) (x : BitVec 6) (h : BitVec 1) (s : State) : Out :=
  .next (lane2 d.toNat (vsrc a) (ssrc s x h) (pureOp fun a b _ => minU32 a b) s)
/-- VMAXN with the scalar half that H selects. -/
def execVmaxnScalar (d a : BitVec 7) (x : BitVec 6) (h : BitVec 1) (s : State) : Out :=
  .next (lane2 d.toNat (vsrc a) (ssrc s x h) (pureOp fun a b _ => maxU32 a b) s)
/-- VAND with the scalar half that H selects. -/
def execVandScalar (d a : BitVec 7) (x : BitVec 6) (h : BitVec 1) (s : State) : Out :=
  .next (lane2 d.toNat (vsrc a) (ssrc s x h) (pureOp fun a b _ => a &&& b) s)
/-- VOR with the scalar half that H selects. -/
def execVorScalar (d a : BitVec 7) (x : BitVec 6) (h : BitVec 1) (s : State) : Out :=
  .next (lane2 d.toNat (vsrc a) (ssrc s x h) (pureOp fun a b _ => a ||| b) s)
/-- VXOR with the scalar half that H selects. -/
def execVxorScalar (d a : BitVec 7) (x : BitVec 6) (h : BitVec 1) (s : State) : Out :=
  .next (lane2 d.toNat (vsrc a) (ssrc s x h) (pureOp fun a b _ => a ^^^ b) s)
/-- VANDN with the scalar half that H selects. -/
def execVandnScalar (d a : BitVec 7) (x : BitVec 6) (h : BitVec 1) (s : State) : Out :=
  .next (lane2 d.toNat (vsrc a) (ssrc s x h) (pureOp fun a b _ => a &&& ~~~b) s)
/-- VSHL with the scalar half that H selects. -/
def execVshlScalar (d a : BitVec 7) (x : BitVec 6) (h : BitVec 1) (s : State) : Out :=
  .next (lane2 d.toNat (vsrc a) (ssrc s x h) (pureOp fun a b _ => shl32 a b) s)
/-- VSHR with the scalar half that H selects. -/
def execVshrScalar (d a : BitVec 7) (x : BitVec 6) (h : BitVec 1) (s : State) : Out :=
  .next (lane2 d.toNat (vsrc a) (ssrc s x h) (pureOp fun a b _ => shr32 a b) s)

/-! ## Major 0x1C: SignExtend(IMM7) (07 R160) -/

/-- VADDI. -/
def execVaddi (d a i : BitVec 7) (s : State) : Out :=
  .next (lane2 d.toNat (vsrc a) (isrc i) (pureOp fun a b _ => a + b) s)
/-- VANDI. -/
def execVandi (d a i : BitVec 7) (s : State) : Out :=
  .next (lane2 d.toNat (vsrc a) (isrc i) (pureOp fun a b _ => a &&& b) s)
/-- VORI. -/
def execVori (d a i : BitVec 7) (s : State) : Out :=
  .next (lane2 d.toNat (vsrc a) (isrc i) (pureOp fun a b _ => a ||| b) s)
/-- VXORI. -/
def execVxori (d a i : BitVec 7) (s : State) : Out :=
  .next (lane2 d.toNat (vsrc a) (isrc i) (pureOp fun a b _ => a ^^^ b) s)
/-- VMULI. -/
def execVmuli (d a i : BitVec 7) (s : State) : Out :=
  .next (lane2 d.toNat (vsrc a) (isrc i) (pureOp fun a b _ => a * b) s)
/-- VSHLI; IMM7 outside 0 to 31 raises ILLEGAL WHY 3. -/
def execVshli (d a i : BitVec 7) (s : State) : Out :=
  .next (inRange (decide (i.toNat ≤ 31)) s (lane2 d.toNat (vsrc a) (isrc i) (pureOp fun a b _ => shl32 a b)))
/-- VSHRI; IMM7 outside 0 to 31 raises ILLEGAL WHY 3. -/
def execVshri (d a i : BitVec 7) (s : State) : Out :=
  .next (inRange (decide (i.toNat ≤ 31)) s (lane2 d.toNat (vsrc a) (isrc i) (pureOp fun a b _ => shr32 a b)))
/-- VSRAI; IMM7 outside 0 to 31 raises ILLEGAL WHY 3. -/
def execVsrai (d a i : BitVec 7) (s : State) : Out :=
  .next (inRange (decide (i.toNat ≤ 31)) s (lane2 d.toNat (vsrc a) (isrc i) (pureOp fun a b _ => sra32 a b)))

/-! ## Major 0x11 (07 R161 to R163) -/

/-- VSRA. -/
def execVsra (d a b : BitVec 7) (s : State) : Out :=
  .next (lane2 d.toNat (vsrc a) (vsrc b) (pureOp fun a b _ => sra32 a b) s)
/-- VROT. -/
def execVrot (d a b : BitVec 7) (s : State) : Out :=
  .next (lane2 d.toNat (vsrc a) (vsrc b) (pureOp fun a b _ => rot32 a b) s)
/-- VABSD. -/
def execVabsd (d a b : BitVec 7) (s : State) : Out :=
  .next (lane2 d.toNat (vsrc a) (vsrc b) (pureOp fun a b _ => absd32 a b) s)
/-- VADDS. -/
def execVadds (d a b : BitVec 7) (s : State) : Out :=
  .next (lane2 d.toNat (vsrc a) (vsrc b) (pureOp fun a b _ => satS32 (a.toInt + b.toInt)) s)
/-- VSUBS. -/
def execVsubs (d a b : BitVec 7) (s : State) : Out :=
  .next (lane2 d.toNat (vsrc a) (vsrc b) (pureOp fun a b _ => satS32 (a.toInt - b.toInt)) s)
/-- VAVG. -/
def execVavg (d a b : BitVec 7) (s : State) : Out :=
  .next (lane2 d.toNat (vsrc a) (vsrc b) (pureOp fun a b _ => avg32 a b) s)
/-- VBFX. -/
def execVbfx (d a b : BitVec 7) (s : State) : Out :=
  .next (lane2 d.toNat (vsrc a) (vsrc b) (pureOp fun a b _ => bfx32 a b) s)
/-- VPACK. -/
def execVpack (d a b : BitVec 7) (s : State) : Out :=
  .next (lane2 d.toNat (vsrc a) (vsrc b) (pureOp fun a b _ => pack32 a b) s)
/-- VPERMB. -/
def execVpermb (d a b : BitVec 7) (s : State) : Out :=
  .next (lane2 d.toNat (vsrc a) (vsrc b) (pureOp fun a b _ => permb32 a b) s)
/-- VBFI inserts into the third source of R26. -/
def execVbfi (d a b : BitVec 7) (s : State) : Out :=
  .next (lane3 d.toNat (vsrc a) (vsrc b) (thirdSrc s d) (pureOp fun a b c => bfi32 a b c) s)
/-- VCLZ. -/
def execVclz (d a : BitVec 7) (s : State) : Out :=
  .next (lane1 d.toNat (vsrc a) (pureOp fun a _ _ => clz32 a) s)
/-- VPOPC. -/
def execVpopc (d a : BitVec 7) (s : State) : Out :=
  .next (lane1 d.toNat (vsrc a) (pureOp fun a _ _ => popc32 a) s)
/-- VBREV. -/
def execVbrev (d a : BitVec 7) (s : State) : Out :=
  .next (lane1 d.toNat (vsrc a) (pureOp fun a _ _ => brev32 a) s)
/-- VNOT. -/
def execVnot (d a : BitVec 7) (s : State) : Out :=
  .next (lane1 d.toNat (vsrc a) (pureOp fun a _ _ => ~~~a) s)
/-- VABS. -/
def execVabs (d a : BitVec 7) (s : State) : Out :=
  .next (lane1 d.toNat (vsrc a) (pureOp fun a _ _ => abs32 a) s)
/-- VNEG. -/
def execVneg (d a : BitVec 7) (s : State) : Out :=
  .next (lane1 d.toNat (vsrc a) (pureOp fun a _ _ => 0 - a) s)

/-! ## Major 0x1D, VMOV and VKILL (07 R146, R164) -/

/-- VLI: the sign-extended IMM14. -/
def execVli (d : BitVec 7) (i : BitVec 14) (s : State) : Out :=
  .next (laneInstr [] d.toNat (pureOp fun a _ _ => a) (.imm (sext32 i)) (.imm 0) (.imm 0) s)
/-- VLIS: v[VD] shifted left by 14, OR IMM14. -/
def execVlis (d : BitVec 7) (i : BitVec 14) (s : State) : Out :=
  .next (lane1 d.toNat (vsrc d) (pureOp fun a _ _ => (a <<< 14) ||| i.setWidth 32) s)
/-- VMOV copies values and poison. -/
def execVmov (d a : BitVec 7) (s : State) : Out := .next (lane1 d.toNat (vsrc a) (pureOp fun a _ _ => a) s)

/-- Registers whose entries are freed read 0 with poison clear (07 R143). -/
def freeRegs (rs : List Nat) (w : Warp) : Warp :=
  rs.foldl (fun w r =>
    let w' := w.vSet r 0xFFFFFFFF (fun _ => 0) 0
    { w' with bound := setDel r w'.bound, spilled := setDel r w'.spilled }) w

/-- VKILL frees v[VD] to v[VA] where SPLITS reads 1, one split and an empty stack; in a divergent warp only the active threads' values become 0 (07 R146). It waits
for outstanding writes to those registers. -/
def execVkill (d a : BitVec 7) (s : State) : Out :=
  let rs := (List.range (a.toNat + 1 - d.toNat)).map (· + d.toNat)
  .next (inRange (decide (d.toNat ≤ a.toNat)) s fun s => heldRegs rs s fun s => notDawn s fun s =>
    withRegs rs [] s fun s =>
      if s.w.splits.length = 1 ∧ s.w.stack = [] then finish { s with w := freeRegs rs s.w }
      else finish { s with w := rs.foldl (fun w r => w.vSet r s.w.cur.active (fun _ => 0) 0) s.w })

/-! ## Compact lane operations (02 R16): vd ← vd op va, as the 32-bit form without a prefix -/

/-- Compact VADD. -/
def execVaddCompact (d a : BitVec 5) (s : State) : Out :=
  .next (lane2 d.toNat (vsrc d) (vsrc a) (pureOp fun a b _ => a + b) s)
/-- Compact VSUB. -/
def execVsubCompact (d a : BitVec 5) (s : State) : Out :=
  .next (lane2 d.toNat (vsrc d) (vsrc a) (pureOp fun a b _ => a - b) s)
/-- Compact VAND. -/
def execVandCompact (d a : BitVec 5) (s : State) : Out :=
  .next (lane2 d.toNat (vsrc d) (vsrc a) (pureOp fun a b _ => a &&& b) s)
/-- Compact VOR. -/
def execVorCompact (d a : BitVec 5) (s : State) : Out :=
  .next (lane2 d.toNat (vsrc d) (vsrc a) (pureOp fun a b _ => a ||| b) s)
/-- Compact VXOR. -/
def execVxorCompact (d a : BitVec 5) (s : State) : Out :=
  .next (lane2 d.toNat (vsrc d) (vsrc a) (pureOp fun a b _ => a ^^^ b) s)
/-- Compact VSHL. -/
def execVshlCompact (d a : BitVec 5) (s : State) : Out :=
  .next (lane2 d.toNat (vsrc d) (vsrc a) (pureOp fun a b _ => shl32 a b) s)
/-- Compact VSHR. -/
def execVshrCompact (d a : BitVec 5) (s : State) : Out :=
  .next (lane2 d.toNat (vsrc d) (vsrc a) (pureOp fun a b _ => shr32 a b) s)
/-- Compact VMIN. -/
def execVminCompact (d a : BitVec 5) (s : State) : Out :=
  .next (lane2 d.toNat (vsrc d) (vsrc a) (pureOp fun a b _ => minS32 a b) s)
/-- Compact VMAX. -/
def execVmaxCompact (d a : BitVec 5) (s : State) : Out :=
  .next (lane2 d.toNat (vsrc d) (vsrc a) (pureOp fun a b _ => maxS32 a b) s)
/-- Compact VMUL. -/
def execVmulCompact (d a : BitVec 5) (s : State) : Out :=
  .next (lane2 d.toNat (vsrc d) (vsrc a) (pureOp fun a b _ => a * b) s)
/-- Compact VMOV. -/
def execVmovCompact (d a : BitVec 5) (s : State) : Out :=
  .next (lane1 d.toNat (vsrc a) (pureOp fun a _ _ => a) s)
/-- NOP16 (R17). -/
def execNop16 (s : State) : Out := .next (finish s)

end Sys2Proof.Machine
end

