-- ==== Sys2Proof/Machine/Waits.lean ====
section
/-! DEFINITION. Waits, fences, monitors, speculative commits, extended blocks, barriers, TLBI and MSPILL (06 R129, R131
to R135, R139; 07 R141, R142; 14 R327 to R329; 16 R356, R357). -/

namespace Sys2Proof.Machine

open Sys2Proof

/-! ## WAITC and FENCE (06 R129, R131) -/

/-- The limits of WAITC by class. -/
def waitLimits (l s p t c : BitVec 5) : List (Cls × Nat) :=
  [(.ld, l.toNat), (.st, s.toNat), (.cp, p.toNat), (.tl, t.toNat), (.cl, c.toNat)].filter (fun x => x.2 != 31)

/-- The failures that a WAITC with these limits must report (05 R101): those of operations whose retirement it
required. -/
def dueFailures (lims : List (Cls × Nat)) (w : Warp) : List Failure :=
  w.fails.filter (fun f => lims.any (fun x => x.1 == f.cls && decide (f.ord + x.2 ≤ w.issuedOf x.1)))

/-- Raise the oldest of some failures; each is reported once. -/
def reportOldest (fs : List Failure) (s : State) (k : State → State) : State :=
  match fs.foldl (fun (b : Option Failure) f => match b with
      | some x => if x.id ≤ f.id then some x else some f
      | none => some f) none with
  | none => k s
  | some f => trapOnce { f.cause with tmask := s.w.cur.active } s
      (fun s => { s with w := { s.w with fails := s.w.fails.filter (fun g => g.id != f.id) } })

/-- A TL limit that requires the retirement of the walk being served, which this warp posted (10 R223). -/
def waitsOnServed (lims : List (Cls × Nat)) (w : Warp) : Bool :=
  match w.serving with
  | none => false
  | some u => lims.any (fun x => x.1 == .tl && w.ops.any (fun o => o.cls == .tl && o.kind == .walk u.walk.toNat
      && decide (o.ord + x.2 ≤ w.issuedOf .tl)))

/-- WAITC. -/
def execWaitc (l x p t c : BitVec 5) (s : State) : Out :=
  let lims := waitLimits l x p t c
  .next (notDawn s fun s =>
    if waitsOnServed lims s.w then stageTrap 0x02 s
    else if lims.all (fun y => decide (s.w.count y.1 ≤ y.2)) then reportOldest (dueFailures lims s.w) s finish
    else parkHere s)

/-- FENCE; scope 7 names no scope (00 R6) and raises ILLEGAL WHY 3. -/
def execFence (c : BitVec 3) (s : State) : Out :=
  .next (inRange (decide (c.toNat ≤ 6)) s fun s => notDawn s fun s => afterFence c.toNat s finish)

/-- PREF (06 R132): a line into the L1 under R106; never a fault. -/
def execPref (a : BitVec 6) (i : BitVec 9) (s : State) : Out :=
  .next (notDawn s fun s =>
    let va := sval s a + i.setWidth 64 * 128
    match ctxWalk s s.ctx va.toNat with
    | .leaf l =>
      let line := lineOf (leafPA l va.toNat)
      if (permWhy l .read s.w.cur.priv).isSome || decide (leafLC l ≥ 2) || (l1Hit s s.core s.w.uid s.w.ah line).isSome then finish s
      else finish (grantLine (leafLC l) line s.core.num s)
    | .fail _ _ => finish s)

/-- INVL1 (06 R133): every line, or the line at s[SA]. -/
def execInvl1 (a : BitVec 6) (s : State) : Out :=
  .next (notDawn s fun s =>
    if a = 0 then finish { s with core := { s.core with l1 := [] } }
    else judgedScalar .read 1 (sval s a) s fun _ pa s => finish { s with core := dropL1 [lineOf pa] s.core })

/-! ## Monitors (06 R134, R135) -/

/-- MON. The monitor watches the physical line that its address names now; a page that moves to another frame takes no
monitor with it (log 101, DESIGN CHOICE). -/
def execMon (a : BitVec 6) (s : State) : Out :=
  .next (notDawn s fun s => judgedScalar .read 1 (sval s a) s fun _ pa s =>
    finish { s with w := { s.w with mon := some (sval s a &&& ~~~127#64, lineOf pa, false) } })

/-- The timeout of a parked MWAIT: disarm and raise (06 R135). -/
def mwaitTimeout (va : W64) (s : State) : State :=
  trapOnce { code := 0x09, taddr := va, tmask := s.w.cur.active } s (fun s => { s with w := { s.w with mon := none } })

/-- MWAIT. -/
def execMwait (a : BitVec 6) (s : State) : Out :=
  .next (notDawn s fun s =>
    match s.w.mon with
    | none => finish s
    | some (va, _, woken) =>
      let t := ((sampled [sval s a] s).headD 0)
      let limit := s.w.cur.deadline.getD (s.time + t.toNat)
      if woken then finish { s with w := { s.w with mon := none } }
      else if t ≠ 0 ∧ s.time ≥ limit then mwaitTimeout va s
      else (parkWith [t] s).modCur (fun p => { p with
        deadline := if t = 0 then none else some limit, dict := s.ix.dict }))

/-! ## Speculative tasks (06 R139) -/

/-- The held lines applied at their homes, all in one step, after the copies that snapshots want of them; the largest WCT. -/
def commitLines (s : State) : State :=
  s.team.specLines.foldl (fun s l =>
    let o := saveOld (· == l.line / 32) s
    let s1 := { o.1 with
      mem := l.bytes.foldl (fun m p => memWrite m p.1 p.2) o.1.mem
      mp := poisonGrans l.pois (cleanGrans l.clean o.1.mp)
      w := { o.1.w with wmax := max s.w.wmax (max s.time (s.lexpOf l.line) + copyTime s o.2) } }
    wakeMonitors l.line s1) s

def execTcommit (s : State) : Out :=
  .next (notDawn s fun s =>
    if !s.team.spec then specTrap 3 s
    else if s.w.count .st ≠ 0 ∨ !fenceDone 4 s then parkHere s
    else
      let s1 := commitLines s
      finish { s1 with
        core := dropL1 (s.team.specLines.map (·.line)) s1.core, team := { s1.team with spec := false, specLines := [] } })

def execTdiscard (s : State) : Out :=
  .next (notDawn s fun s =>
    if !s.team.spec then specTrap 3 s
    else if s.w.count .st ≠ 0 ∨ !fenceDone 4 s then parkHere s
    else finish { s with team := { s.team with spec := false, specLines := [] } })

/-! ## Extended blocks (07 R141, R142) -/

/-- Blocks held on a core. -/
def blocksHeld (s : State) (core : Nat) : Nat :=
  (s.allWarps.filter (fun w => w.core == core && w.saved == none)).foldl (fun n w => n + w.blocks) 0

def blocksFit (s : State) (n : Nat) : Bool := decide (blocksHeld s s.core.num + n ≤ Config.blockQuota)

/-- A split's own request in the core's queue. -/
def myReq (s : State) (r : XReq) : Bool := r.warp == s.w.uid && r.split == s.w.cur.num

/-- XACQ: granted strictly in issue order. Its n is judged whenever it is considered: a parked one whose warp has been
granted other blocks meanwhile raises ILLEGAL WHY 3 (log 102, DESIGN CHOICE). -/
def execXacq (n : BitVec 9) (s : State) : Out :=
  .next (inRange (decide (1 ≤ n.toNat) && decide (n.toNat + s.w.blocks ≤ 6)) s fun s => notDawn s fun s =>
    let q := if s.core.xq.any (myReq s) then s.core.xq else s.core.xq ++ [{ warp := s.w.uid, split := s.w.cur.num, n := n.toNat }]
    match q with
    | r :: rest =>
      if myReq s r && blocksFit s n.toNat then
        finish { s with core := { s.core with xq := rest }, w := { s.w with blocks := s.w.blocks + n.toNat } }
      else parkHere { s with core := { s.core with xq := q } }
    | [] => parkHere s)

/-- XTRY. -/
def execXtry (d : BitVec 6) (n : BitVec 9) (s : State) : Out :=
  .next (inRange (decide (1 ≤ n.toNat) && decide (n.toNat + s.w.blocks ≤ 6)) s fun s => notDawn s fun s =>
    if s.core.xq.isEmpty && blocksFit s n.toNat then
      putS d 1 { s with w := { s.w with blocks := s.w.blocks + n.toNat } }
    else putS d 0 s)

/-- XREL. -/
def execXrel (n : BitVec 9) (s : State) : Out :=
  .next (inRange (decide (1 ≤ n.toNat) && decide (n.toNat ≤ s.w.blocks)) s fun s => notDawn s fun s =>
    let m := s.w.blocks - n.toNat
    let rs := regGroup (32 + 16 * m) (16 * n.toNat)
    if s.w.anyAwaits rs then parkHere s
    else finish { s with w := { freeRegs rs s.w with blocks := m } })

/-! ## Barriers (14 R327 to R329) -/

/-- PROT WHY 7 of a Meridian group not granted; else the barrier's number. -/
def withBarrier (b : BitVec 9) (s : State) (k : State → State) : State :=
  inRange (decide (b.toNat ≤ 271)) s fun s => notDawn s fun s =>
    if b.toNat ≥ 16 ∧ !s.ctx.groups.contains (b.toNat - 16) then
      takeTrap { code := 0x05, info := accInfo 0 7 0 0 .read, tmask := s.w.cur.active } s
    else k s

def groupKey (s : State) (b : Nat) : Nat := s.ctx.part * 256 + (b - 16)

def getBarrier (s : State) (b : BitVec 9) : Barrier :=
  if b.toNat < 16 then tabGet {} b.toNat s.team.barriers else tabGet {} (groupKey s b.toNat) s.meridian

def setBarrier (b : BitVec 9) (x : Barrier) (s : State) : State :=
  if b.toNat < 16 then { s with team := { s.team with barriers := tabSet {} b.toNat x s.team.barriers } }
  else { s with meridian := tabSet {} (groupKey s b.toNat) x s.meridian }

/-- M + DJ as a scalar. -/
def memberSum (x : Barrier) : W64 := BitVec.ofInt 64 ((x.m : Int) + x.dj)

/-- BINIT; M outside its range raises ILLEGAL WHY 3. -/
def execBinit (d a : BitVec 6) (b : BitVec 9) (s : State) : Out :=
  .next (withBarrier b s fun s =>
    let m := (sval s a).toNat % 65536
    if m = 0 ∨ (b.toNat < 16 ∧ m > 32) then illegal 3 s
    else putS d 1 (setBarrier b { gen := 0, m := m, a := 0, dj := 0 } s))

def execBjoin (d : BitVec 6) (b : BitVec 9) (s : State) : Out :=
  .next (withBarrier b s fun s =>
    let x := getBarrier s b
    putS d (memberSum { x with dj := x.dj + 1 }) (setBarrier b { x with dj := x.dj + 1 } s))

def execBleave (d : BitVec 6) (b : BitVec 9) (s : State) : Out :=
  .next (withBarrier b s fun s =>
    let x := getBarrier s b
    putS d (memberSum { x with dj := x.dj - 1 }) (setBarrier b { x with dj := x.dj - 1 } s))

/-- An arrival (14 R328). -/
def arrive (x : Barrier) : Barrier :=
  if x.a + 1 = x.m then
    { gen := x.gen + 1, m := ((x.m : Int) + x.dj).toNat, a := 0, dj := 0, emptied := decide ((x.m : Int) + x.dj ≤ 0) }
  else { x with a := x.a + 1 }

/-- BARA: first FENCE 2 (team) or FENCE 4 (Meridian) (14 R329). -/
def execBara (d : BitVec 6) (b : BitVec 9) (s : State) : Out :=
  .next (withBarrier b s fun s =>
    let x := getBarrier s b
    if x.emptied then stageTrap 0x13 s
    else afterFence (if b.toNat < 16 then 2 else 4) s fun s =>
      putS d (x.gen.setWidth 64) (setBarrier b (arrive x) s))

/-- The acquire of BARW and BART: AH as LDDA sets it. -/
def acquireNow (s : State) : State := { s with w := { s.w with ah := max s.w.ah s.time } }

/-- BARW: parks until the generation has passed s[SA]. -/
def execBarw (d a : BitVec 6) (b : BitVec 9) (s : State) : Out :=
  .next (withBarrier b s fun s =>
    let x := getBarrier s b
    let y := (sampled [sval s a] s).headD 0
    let diff := (x.gen - y.setWidth 32).toNat
    if 1 ≤ diff ∧ diff < 2 ^ 31 then putS d (x.gen.setWidth 64) (acquireNow s) else parkWith [y] s)

def execBart (d : BitVec 6) (b : BitVec 9) (s : State) : Out :=
  .next (withBarrier b s fun s => putS d ((getBarrier s b).gen.setWidth 64) (acquireNow s))

/-! ## TLBI and MSPILL (16 R356, R357) -/

/-- A TLBI starts a shoot-down and completes when that is complete. -/
def tlbi (va : Option Nat) (s : State) : State :=
  notDawn s fun s => privileged s fun s =>
    let me := some (s.w.uid, s.w.cur.num)
    match s.shoots.find? (fun k => k.who == me) with
    | none => parkHere (startShoot (some s.ctx.asid) va me s)
    | some k =>
      if k.done then finish { s with shoots := s.shoots.filter (fun x => x.id != k.id) } else parkHere s

def execTlbiPage (a : BitVec 6) (s : State) : Out := .next (tlbi (some ((sval s a).toNat % 2 ^ 57)) s)
def execTlbiAsid (s : State) : Out := .next (tlbi none s)

/-- The bytes that spilling register r of warp w of context c writes into its record in a save area: values and the
poison word. -/
def recordPieces (s : State) (c : Ctx) (spill : W64) (w : Warp) (r : Nat) : List Piece :=
  let base := warpRecord spill w.slot
  let val := (ctxPA s c (base + 128 * r)).map (fun pa =>
    (pa, threads.flatMap (fun t => toBytes 4 (w.vGet r t).toNat), false))
  let poi := (ctxPA s c (base + 0x4000 + 4 * r)).map (fun pa => (pa, toBytes 4 (w.vPois r).toNat, false))
  [val, poi].filterMap id

/-- The bytes MSPILL writes for one register. -/
def spillPieces (s : State) (r : Nat) : List Piece := recordPieces s s.ctx s.core.spill s.w r

/-- MSPILL: every bound register goes to the warp's record and is unbound; it completes when the writes have
returned their WCTs. -/
def execMspill (s : State) : Out :=
  .next (notDawn s fun s => privileged s fun s =>
    if s.w.anyAwaits (List.range 128) then parkHere s
    else
      let rs := s.w.bound
      let ps := rs.flatMap (spillPieces s)
      let lines := (ps.map (fun p => lineOf p.1)).eraseDups
      let wct := lines.foldl (fun m l => max m (max s.time (s.lexpOf l))) s.w.wmax
      let s1 := { s with
        mem := putPieces s.mem ps, mp := putPoison s.mp ps, core := dropL1 lines s.core
        w := { s.w with wmax := wct, bound := [], spilled := rs ++ s.w.spilled.filter (fun r => !rs.contains r) } }
      finish (lines.foldl (fun s l => wakeMonitors l s) s1))

end Sys2Proof.Machine
end

