-- ==== Sys2Proof/Machine/MemEvents.lean ====
section
/-! DEFINITION. The memory system's own steps (03 R34, R43 to R46; 06 R104 to R113; 16 R354): page walks, loads' data,
writes applied at home and their acknowledgements, shoot-downs, memory errors. -/

namespace Sys2Proof.Machine

open Sys2Proof

/-! ## Page walks -/

/-- Change a split of a warp. -/
def Warp.modSplit (w : Warp) (num : Nat) (f : Split → Split) : Warp :=
  let g := fun (p : Split) => if p.num = num ∧ p.active ≠ 0 then f p else p
  { w with cur := g w.cur, others := w.others.map g }

/-- PAGE_WALK (R44): the oldest queued miss of a die goes to a free walker, which reads the tables. -/
def pageWalkEvent (die : Nat) (s : State) : State :=
  if (s.walkQ.filter (fun k => k.die == die && k.started)).length ≥ Config.walkers then s
  else
    let walked := fun (k : Walk) => { k with
      started := true
      res := some (match s.findCtx k.asid with
        | some c => ctxWalk s c (k.va * 2 ^ 18)
        | none => .fail 1 1) }
    { s with walkQ := modFirst (fun k => k.die == die && !k.started) walked s.walkQ }

def execPageWalk (die : Nat) (s : State) : Out := .next (pageWalkEvent die s)

/-- Install a leaf in the caches of a die and of the waiting warps' cores. -/
def installLeaf (k : Walk) (l : W64) (s : State) : State :=
  let e := tlbEntryOf k.asid (k.va * 2 ^ 18) l
  let s1 := s.setDtlb k.die ((e :: s.dtlb k.die).take Config.dieTlbEntries)
  (k.waiters ++ k.late).foldl (fun s p => match s.findWarp p.1 with
    | some w => if w.saved = none then s.modCore w.core (fun c => { c with tlb := (e :: c.tlb.filter (· != e)).take Config.l1TlbEntries }) else s
    | none => s) s1

/-- PAGE_WALK_DONE (R40, R45): the result goes to every split that waits for it; only a success is cached. -/
def pageWalkDone (die id : Nat) (s : State) : State :=
  match s.walkQ.find? (fun k => k.id == id && k.die == die) with
  | some k => match k.res with
    | some r =>
      let s1 := match r with
        | .leaf l => installLeaf k l s
        | .fail _ _ => s
      let s2 := k.waiters.foldl (fun s p => s.modWarp p.1 (fun w => w.modSplit p.2 (fun q =>
        { q with fresh := (k.va, r) :: q.fresh.filter (fun x => x.1 != k.va) }))) s1
      { s2 with walkQ := s2.walkQ.filter (fun x => x.id != id) }
    | none => s
  | none => s

def execPageWalkDone (die k : Nat) (s : State) : Out := .next (pageWalkDone die k s)

/-! ## Loads -/

/-- Read the parts of a load for the threads of m (06 R106, R107, R119). -/
def readParts (w : Warp) (size : Nat) (useL1 : Bool) (m : W32) (ps : List LoadPart) (s : State) : List LoadPart × State :=
  ps.foldl (fun acc p => match p.place with
    | .mem pa lc pr _ =>
      if !inMask m p.t then (acc.1 ++ [p], acc.2)
      else
        let r := readLine w.uid w.core w.team pa size lc pr useL1 acc.2
        (acc.1 ++ [{ p with place := .got r.1 r.2.1 }], r.2.2)
    | _ => (acc.1 ++ [p], acc.2)) ([], s)

/-- The values that a load's parts have read. -/
def partValues (ps : List LoadPart) : List (Nat × List Byte × Bool) := ps.filterMap (fun p => match p.place with
  | .got bs poi => some (p.t, bs, poi)
  | _ => none)

/-- A part of a load that has still to be read. -/
def unreadPart (p : LoadPart) : Bool := match p.place with
  | .got _ _ => false
  | _ => true

/-- A part of a load that has not been performed on its remote chip. -/
def remotePart (p : LoadPart) : Bool := match p.place with
  | .remote _ _ _ => true
  | _ => false

/-- Write only the threads for which a load is still the last writer of a register (07 R143). -/
def putAwaited (o : Op) (size : Nat) (ext : Ext) (d : Nat) (vals : List (Nat × List Byte × Bool)) (w : Warp) : Warp :=
  (List.range (dataRegs size)).foldl (fun w j =>
    let m := tabGet 0 (d + j) o.dests
    let poi := maskOf (fun t => vals.any (fun p => p.1 == t && p.2.2))
    if m = 0 then w
    else { w.vSet (d + j) m (fun t => loadWord size ext (((vals.find? (fun p => p.1 == t)).map (·.2.1)).getD []) j) poi with
      ops := w.ops }) w

/-- A load's data arrive (06 R106, R111, R121, R128): the lines for the threads of m are read now; when no thread's data
are awaited any more, they reach the registers and the load is done. -/
def loadReturn (id : Nat) (m : W32) (s : State) : State :=
  match s.allWarps.find? (fun w => w.ops.any (fun o => o.id == id)) with
  | none => s
  | some w => match w.ops.find? (fun o => o.id == id && !o.done) with
    | none => s
    | some o => match o.kind with
      | .load size ext d byHome acq ps =>
        let l := loadSpans s.dev.chipId size (ps.filter (fun p => inMask m p.t && !remotePart p))
        if !loadMayRun s w.uid id l then s
        else
          let r := readParts w size (!byHome && !acq) m ps s
          let f := fun (w : Warp) =>
            let w1 := if acq && !l.isEmpty then { w with ah := max w.ah s.time } else w
            if r.1.any unreadPart then w1.modOp id (fun o => { o with kind := .load size ext d byHome acq r.1 })
            else
              let w2 := if w.ended then w1 else putAwaited o size ext d (partValues r.1) w1
              ((w2.modOp id (fun o => { o with done := true, dests := [] })).retire).freeSlot
          r.2.modWarp w.uid f
      | .atomic d res =>
        if o.pend ≠ 0 then s
        else s.modWarp w.uid (fun w =>
          let keep := tabGet 0 d o.dests
          let w1 := if w.ended then w else { putOld d (res.filter (fun x => inMask keep x.t)) w with ops := w.ops }
          ((w1.modOp id (fun o => { o with done := true, dests := [] })).retire).freeSlot)
      | _ => s

def execLoadDataReturn (op : Nat) (m : BitVec 32) (s : State) : Out := .next (loadReturn op m s)

/-! ## Watched writes of other writers (16 R354) -/

/-- The INFO field of an asynchronous WATCH event. -/
def watchInfo (b : Writer) : Nat := b.kind * 2 ^ 48 + b.eng * 2 ^ 41 + b.rank * 2 ^ 29 + b.seq % 2 ^ 29

/-- The address of record n mod 32 of a context's watch log. -/
def watchRecordVA (c : Ctx) (n : Nat) : Nat := (bits c.dbgctl.toNat 56 7) * 128 + 128 + 32 * (n % 32)

/-- Write one watch-log record at n mod 32. -/
def logWatch (c : Ctx) (va idx : Nat) (b : Writer) (s : State) : State :=
  let rec_ := toBytes 8 va ++ toBytes 8 (watchInfo b) ++ toBytes 8 s.time ++ toBytes 8 idx
  let s1 := s.modCtx c.asid (fun c => { c with watchCount := c.watchCount + 1 })
  match ctxPA s c (watchRecordVA c c.watchCount) with
  | some pa => putHome pa rec_ s1
  | none => s1

/-- A write of another writer that hits an armed range: logged, and delivered to the issuing warp if it has not
ended. -/
def noteWatch (pa n : Nat) (b : Writer) (s : State) : State :=
  if b.kind = 0 then s
  else (s.ctx :: s.ctxs).foldl (fun s c => if !c.live then s else match watchHit c pa n with
    | none => s
    | some (idx, va) =>
      let s1 := logWatch c va idx b s
      match b.warp with
      | some u => s1.modWarp u (fun w => if w.ended then w else { w with watchEvents := w.watchEvents ++
          [{ code := 0x10, tsub := idx, taddr := w64 va, info := watchInfo b }] })
      | none => s1) s

/-- A write made at home by another agent (engine, Orrery, service, host): applied in the location's order, with its
WCT (06 R104, R110), monitors and watches. -/
def homeWrite (ps : List Piece) (b : Writer) (s : State) : State × Nat :=
  let lines := (ps.flatMap (fun p => linesOf p.1 p.2.1.length)).eraseDups
  let o := saveOld (fun g => ps.any (fun p => p.1 / 4096 == g)) s
  let wct := lines.foldl (fun m l => max m (max s.time (s.lexpOf l) + copyTime s o.2)) 0
  let s1 := { o.1 with mem := putPieces o.1.mem ps, mp := putPoison o.1.mp ps }
  let s2 := lines.foldl (fun s l => wakeMonitors l s) s1
  (ps.foldl (fun s p => noteWatch p.1 p.2.1.length b s) s2, wct)

/-! ## Writes -/

/-- Whether a write may be applied now: the warp's older writes to its bytes have been, and its older loads of them have
read them (06 R111). -/
def writeMayRun (x : Write) (s : State) : Bool :=
  !olderWrite s x.warp x.id (x.spans s.dev.chipId)
  && !(((s.findWarp x.warp).map (fun w => olderLoad s.dev.chipId w x.op (x.spans s.dev.chipId))).getD false)

/-- The warp that wrote a line, or read it at home, hits no older copy of its core. -/
def barHome (uid line : Nat) (s : State) : State := match s.findWarp uid with
  | some w => s.modCore w.core (barLine uid line)
  | none => s

/-- WRITE_APPLIED_AT_HOME (06 R104, R110): the write's parts are applied in one step and it gets its WCT. -/
def writeApplied (id : Nat) (s : State) : Out :=
  match s.writes.find? (fun x => x.id == id && x.applied == none && x.rank == none) with
  | none => .next s
  | some x =>
    if !writeMayRun x s then .next s
    else if !memExists (x.line * 128) then .fault (.noMemory (x.line * 128))
    else
      let o := if (applyParts x.parts s.mem s.mp).did then saveOld (· == x.line / 32) s else (s, false)
      let r := applyParts x.parts o.1.mem o.1.mp
      let wct := if r.did then max s.time (s.lexpOf x.line) + copyTime s o.2 else 0
      let s1 := { o.1 with
        mem := r.mem, mp := r.mp
        shoots := s.shoots.map (Shoot.seen id wct)
        writes := modFirst (fun y => y.id == id) (fun y => { y with applied := some wct }) s.writes }
      let s2 := if r.did then wakeMonitors x.line s1 else s1
      .next ((barHome x.warp x.line s2).modWarp x.warp (fun w => w.modOp x.op (fun o => match o.kind with
        | .atomic d res => { o with kind := .atomic d (res ++ r.res) }
        | _ => o)))

def execWriteAppliedAtHome (k : Nat) (s : State) : Out := writeApplied k s

/-- WRITE_ACK (06 R110, R128): the WCT reaches the warp's WMAX; with its last acknowledgement a store or reduction
completes. -/
def writeAck (id : Nat) (s : State) : State :=
  match s.writes.find? (fun x => x.id == id) with
  | none => s
  | some x => match x.applied with
    | none => s
    | some wct =>
      { s with writes := s.writes.filter (fun y => y.id != id) }.modWarp x.warp (fun w =>
        let w1 := { w with wmax := max w.wmax wct }
        ((w1.modOp x.op (fun o =>
          { o with pend := o.pend - 1, wct := max o.wct wct
                   done := o.done || (o.pend ≤ 1 && (match o.kind with
                    | .write => true
                    | _ => false)) })).retire).freeSlot)

def execWriteAck (k : Nat) (s : State) : Out := .next (writeAck k s)

/-! ## Shoot-downs, errors, monitors' timeouts -/

/-- A context's watched ranges are translated again after a shoot-down of its ASID (16 R352): the mapped pieces of a
range, page by page. -/
def watchUnits (s : State) (c : Ctx) (va len : Nat) : List (Nat × Nat × Nat) :=
  if len = 0 then [] else
  (List.range ((va + len - 1) / 2 ^ 18 + 1 - va / 2 ^ 18)).filterMap (fun i =>
    let lo := max va ((va / 2 ^ 18 + i) * 2 ^ 18)
    let hi := min (va + len) ((va / 2 ^ 18 + i + 1) * 2 ^ 18)
    (ctxPA s c lo).map (fun pa => (lo, pa, hi - lo)))

def rewatch (s : State) (c : Ctx) : Ctx :=
  { c with watch := c.watch.map (fun r => { r with units := watchUnits s c r.va r.len }) }

/-- A frame is cleared and freed (03 R49). -/
def releaseFrame (f : Nat) (s : State) : State :=
  wakeFrame f { s with
    mem := s.mem.filter (fun p => p.1 / 2 ^ 18 != f)
    mp := s.mp.filter (fun g => g / 2 ^ 12 != f)
    dev := { s.dev with used := setDel f s.dev.used } }

/-- SHOOT_DOWN_COMPLETE (03 R46): with the last of its command's shoot-downs a frame that lost its mappings is freed. -/
def shootComplete (id : Nat) (s : State) : State :=
  match s.shoots.find? (fun k => k.id == id && !k.done) with
  | none => s
  | some k =>
    if !shootDone k s then s
    else
      let s1 := { s with
        ctx := if k.asid = none ∨ k.asid = some s.ctx.asid then rewatch s s.ctx else s.ctx
        ctxs := s.ctxs.map (fun (c : Ctx) => if k.asid = none ∨ k.asid = some c.asid then rewatch s c else c) }
      let s2 := if k.who = none then { s1 with shoots := s1.shoots.filter (fun x => x.id != id) }
        else { s1 with shoots := modFirst (fun x => x.id == id) (fun x => { x with done := true }) s1.shoots }
      (k.frees.filter (fun f => !s2.shoots.any (fun x => !x.done && x.frees.contains f))).foldl (fun s f => releaseFrame f s) s2

def execShootDownComplete (k : Nat) (s : State) : Out := .next (shootComplete k s)

/-- UNCORRECTABLE_ERROR (03 R34): the granule is poisoned. -/
def execUncorrectableError (pa : Nat) (s : State) : Out :=
  .next (if memExists pa then { s with mp := setIns (pa / 64) s.mp, uncorrected := s.uncorrected + 1 } else s)

/-- CORRECTED_ERROR (03 R34): Ablas logs it, code 0 with the address in the model's log, and counts it for TELEM. -/
def execCorrectedError (pa : Nat) (s : State) : Out :=
  .next (if memExists pa then { s with corrected := s.corrected + 1, errLog := (0, w64 pa, 0) :: s.errLog } else s)

/-- MWAIT_TIMEOUT (06 R135): a parked MWAIT whose time has come. -/
def execMwaitTimeout (core slot split : Nat) (s : State) : Out :=
  .next (match focus core slot split s with
    | none => s
    | some s1 => match s1.w.cur.deadline, s1.w.mon with
      | some t, some (va, _, woken) =>
        if s1.time ≥ t ∧ !woken then
          mwaitTimeout va { s1 with ix := { addr := s1.w.cur.pc, next := s1.w.cur.pc + 4, dict := s1.w.cur.dict } }
        else s
      | _, _ => s)

end Sys2Proof.Machine
end

