-- ==== Sys2Proof/Machine/Tables.lean ====
section
/-! DEFINITION. The page tables as Ablas and the engines change them (03 R36 to R39, R48 to R50): leaves by frame,
leaves written, frames given out and freed. -/

namespace Sys2Proof.Machine

open Sys2Proof

/-- The entries of a table of 8,192 entries at a physical address that are not zero: index and entry. -/
def tableEntries (m : List Host.Cell) (base : Nat) : List (Nat × Nat) :=
  (((m.filter (fun p => decide (base ≤ p.1) && decide (p.1 < base + 65536))).map (fun p => (p.1 - base) / 8)).eraseDups).map
    (fun i => (i, memNat m (base + 8 * i) 8))

/-- The present leaves of a context: virtual address, address of the leaf, leaf. -/
def ctxLeaves (m : List Host.Cell) (root : Nat) : List (Nat × Nat × W64) :=
  (tableEntries m root).flatMap (fun e1 => if !bit e1.2 0 then [] else
    (tableEntries m (bits e1.2 51 16 * 2 ^ 16)).flatMap (fun e2 => if !bit e2.2 0 then [] else
      (tableEntries m (bits e2.2 51 16 * 2 ^ 16)).filterMap (fun e3 => if !bit e3.2 0 then none else
        some (e1.1 * 2 ^ 44 + e2.1 * 2 ^ 31 + e3.1 * 2 ^ 18, bits e2.2 51 16 * 2 ^ 16 + 8 * e3.1, w64 e3.2))))

/-- The live contexts. -/
def State.liveCtxs (s : State) : List Ctx := (s.ctx :: s.ctxs).filter (·.live)

/-- Every leaf that maps a 256 KiB frame: ASID, virtual address, address of the leaf, leaf. -/
def leavesOf (s : State) (frame : Nat) : List (Nat × Nat × Nat × W64) :=
  s.liveCtxs.flatMap (fun c => ((ctxLeaves s.mem c.root).filter (fun l => leafFrame l.2.2 == frame)).map
    (fun l => (c.asid, l.1, l.2.1, l.2.2)))

/-- The address of the level-3 entry of a virtual address, where its tables are present. -/
def leafAddr (s : State) (c : Ctx) (va : Nat) : Option Nat :=
  let e1 := memNat s.mem (c.root + bits va 56 44 * 8) 8
  let e2 := memNat s.mem (bits e1 51 16 * 2 ^ 16 + bits va 43 31 * 8) 8
  if bit e1 0 && bit e2 0 then some (bits e2 51 16 * 2 ^ 16 + bits va 30 18 * 8) else none

/-- Write a leaf. -/
def putLeaf (addr : Nat) (l : W64) (s : State) : State := putHome addr (toBytes 8 l.toNat) s

/-- A leaf with some of its fields replaced (03 R38). -/
def leafPut (l : W64) (hi lo x : Nat) : W64 :=
  w64 (l.toNat - bits l.toNat hi lo * 2 ^ lo + (x % 2 ^ (hi + 1 - lo)) * 2 ^ lo)
def leafSetM (l : W64) (m : Bool) : W64 := leafPut l 11 11 (bitOf m)
def leafSetSC (l : W64) (n : Nat) : W64 := leafPut l 19 12 n
def leafSetW (l : W64) (w : Bool) : W64 := leafPut l 2 2 (bitOf w)
def leafSetFrame (l : W64) (f : Nat) (tier : Nat) : W64 := leafPut (leafPut l 53 20 f) 5 5 tier

/-- Change every leaf of a frame. -/
def mapLeaves (frame : Nat) (f : W64 → W64) (s : State) : State :=
  (leavesOf s frame).foldl (fun s l => putLeaf l.2.2.1 (f l.2.2.2) s) s

/-- The first frame of a tier in a partition's quarters (03 R31). -/
def tierBase (r : PartRange) (tier : Nat) : Nat :=
  if tier = 0 then r.quarter * 2 ^ 19 else 2 ^ 22 + r.quarter * 0x180000
/-- Frames of a tier in a partition. -/
def tierFrames (r : PartRange) (tier : Nat) : Nat := r.count * (if tier = 0 then 2 ^ 19 else 0x180000)

/-- The lowest frame of a tier of a partition that Ablas has not given out (notes/assumptions/36.md). -/
def freeFrame (s : State) (r : PartRange) (tier : Nat) : Option Nat :=
  ((List.range (min (s.dev.used.length + 1) (tierFrames r tier))).map (· + tierBase r tier)).find?
    (fun f => !s.dev.used.contains f)

/-- A frame is given out. -/
def takeFrame (f : Nat) (s : State) : State := { s with dev := { s.dev with used := setIns f s.dev.used } }

/-- A frame has lost its last mapping: it is cleared and freed with the command's shoot-downs (03 R46, R49). -/
def doomFrame (f : Nat) (s : State) : State := { s with dev := { s.dev with doomed := setIns f s.dev.doomed } }

/-- A frame handed out: cleared. -/
def giveFrame (f : Nat) (s : State) : State := takeFrame f (releaseFrame f s)

/-- The table below an entry, made where it is absent. -/
def needTable (s : State) (r : PartRange) (entry : Nat) : Option (Nat × State) :=
  if bit (memNat s.mem entry 8) 0 then some (bits (memNat s.mem entry 8) 51 16 * 2 ^ 16, s)
  else (freeFrame s r 0).map (fun f =>
    (f * 2 ^ 18, putHome entry (toBytes 8 (f * 2 ^ 18 + 1)) (giveFrame f s)))

/-- The address of the level-3 entry of a virtual address, the tables above it made where they are absent. -/
def needLeaf (s : State) (c : Ctx) (va : Nat) : Option (Nat × State) :=
  let r := rangeOf s.parts c
  (needTable s r (c.root + bits va 56 44 * 8)).bind (fun x =>
    (needTable x.2 r (x.1 + bits va 43 31 * 8)).map (fun y => (y.1 + bits va 30 18 * 8, y.2)))

/-- The tables above some virtual addresses, where there are frames for them. -/
def needLeaves (c : Ctx) (vas : List Nat) (s : State) : Option State :=
  vas.foldlM (fun s va => (needLeaf s c va).map (·.2)) s

/-- The bytes of memory with one frame's copied to another. -/
def copyCells (src dst : Nat) (m : List Host.Cell) : List Host.Cell :=
  (m.filter (fun p => p.1 / 2 ^ 18 == src)).foldl (fun m p => memWrite m (dst * 2 ^ 18 + p.1 % 2 ^ 18) p.2)
    (m.filter (fun p => p.1 / 2 ^ 18 != dst))

/-- The contents of one frame copied to another, poison with it; the instruction paths hold what they held of it (02 R15). -/
def copyFrame (src dst : Nat) (s : State) : State :=
  wakeFrame dst { s with
    mem := copyCells src dst s.mem
    launches := s.launches.map (fun l => { l with code := copyCells src dst l.code })
    mp := (s.mp.filter (fun g => g / 2 ^ 12 == src)).foldl (fun m g => setIns (dst * 2 ^ 12 + g % 2 ^ 12) m)
      (s.mp.filter (fun g => g / 2 ^ 12 != dst)) }

/-- Clear n bytes from a physical address on. -/
def clearPhys (a n : Nat) (s : State) : State :=
  wakeLines (fun l => decide (a < 128 * l + 128) && decide (128 * l < a + n)) { s with
    mem := s.mem.filter (fun p => !(decide (a ≤ p.1) && decide (p.1 < a + n)))
    mp := s.mp.filter (fun g => !(decide (a ≤ 64 * g) && decide (64 * g + 64 ≤ a + n))) }

/-- A mapping is removed (03 R49): the share count of the frame's other leaves falls, or the frame is to be freed. -/
def dropMapping (addr : Nat) (l : W64) (s : State) : State :=
  let s1 := putLeaf addr 0 s
  let f := leafFrame l
  if leafSC l = 255 then s1
  else if leafSC l ≤ 1 then doomFrame f s1
  else mapLeaves f (fun x => leafSetSC x (leafSC l - 1)) s1

end Sys2Proof.Machine
end

