-- ==== Sys2Proof/Machine/VectorFloat.lean ====
section
/-! DEFINITION. Compare and floating-point lane instructions of majors 0x12 to 0x15 and 0x1B, and the compact f32
forms (02 R16; 07 R165 to R170). -/

namespace Sys2Proof.Machine

open Sys2Proof

/-! ## Operations on one value of a format (07 R166) -/

/-- An operation on encodings of one format. -/
abbrev FOp := FFmt → LaneEnv → Nat → Nat → Nat → Nat × Exc

/-- An input after FI (04 R63). -/
def finVal (f : FFmt) (env : LaneEnv) (x : Nat) : FVal := fdecode f (flushIn env.fi f x)

/-- Round an exact result and join the exceptions of the operation and of the rounding. -/
def fresult (f : FFmt) (env : LaneEnv) (r : Exact × Exc) : Nat × Exc :=
  let q := fround f env.mode env.sat env.fo r.1
  (q.bits, q.exc ||| r.2)

def opAdd : FOp := fun f env a b _ => fresult f env (fadd env.mode (finVal f env a) (finVal f env b))
def opSub : FOp := fun f env a b _ => fresult f env (fadd env.mode (finVal f env a) (fneg (finVal f env b)))
def opMul : FOp := fun f env a b _ => fresult f env (fmul (finVal f env a) (finVal f env b))
def opFma : FOp := fun f env a b c => fresult f env (ffma env.mode (finVal f env a) (finVal f env b) (finVal f env c))
/-- A result that no rounding touches: FO only (07 R167, R166). -/
def funrounded (f : FFmt) (env : LaneEnv) (x : Nat) (e : Exc) : Nat × Exc :=
  let q := flushOut env.fo f ⟨x, 0⟩
  (q.bits, q.exc ||| e)
def opMin : FOp := fun f env a b _ =>
  funrounded f env (fminBits f (flushIn env.fi f a) (flushIn env.fi f b)) (sigExc [finVal f env a, finVal f env b])
def opMax : FOp := fun f env a b _ =>
  funrounded f env (fmaxBits f (flushIn env.fi f a) (flushIn env.fi f b)) (sigExc [finVal f env a, finVal f env b])
/-- FABS, FNEG and FCOPYS change only the sign bit (07 R166). -/
def opAbs : FOp := fun f env a _ _ => funrounded f env (flushIn env.fi f a % signBit f) 0
def opNeg : FOp := fun f env a _ _ =>
  let x := flushIn env.fi f a
  funrounded f env (if bit x (f.width - 1) then x % signBit f else x % signBit f + signBit f) 0
def opCopys : FOp := fun f env a b _ =>
  funrounded f env (flushIn env.fi f a % signBit f + (if bit b (f.width - 1) then signBit f else 0)) 0
/-- FSCALE: n is the signed operand b, which FI never touches. -/
def opScale : FOp := fun f env a b _ => fresult f env (fscale (finVal f env a) (signedOf f.width b))
/-- FRND: an integral value, without NX. -/
def opRnd : FOp := fun f env a _ _ =>
  let r := frnd env.mode (finVal f env a)
  ((fround f env.mode env.sat env.fo r.1).bits, r.2)
def opClass : FOp := fun f env a _ _ => (fclassBits f (flushIn env.fi f a), 0)

/-- An f32 operation on lanes. -/
def onF32 (g : FOp) : LaneOp := fun env a b c =>
  let r := g fmtF32 env a.toNat b.toNat c.toNat
  (w32 r.1, r.2)

/-- A packed operation: both halves, exceptions joined (04 R61, 07 R166). -/
def onPacked (f : FFmt) (g : FOp) : LaneOp := fun env a b c =>
  let lo := g f env (a.toNat % 65536) (b.toNat % 65536) (c.toNat % 65536)
  let hi := g f env (a.toNat / 65536) (b.toNat / 65536) (c.toNat / 65536)
  (w32 (lo.1 % 65536 + 65536 * (hi.1 % 65536)), lo.2 ||| hi.2)

/-- Whether a value is an infinity of a sign. -/
def isInf (neg : Bool) : FVal → Bool
  | .inf n => n == neg
  | _ => false

/-- FDOT2 (07 R169): c + a.lo × b.lo + a.hi × b.hi with one rounding to f32. -/
def dot2 (f : FFmt) : LaneOp := fun env a b c =>
  let al := finVal f env (a.toNat % 65536)
  let ah := finVal f env (a.toNat / 65536)
  let bl := finVal f env (b.toNat % 65536)
  let bh := finVal f env (b.toNat / 65536)
  let cv := finVal fmtF32 env c.toNat
  let p := fmul al bl
  let q := fmul ah bh
  let terms := [exactVal p.1, exactVal q.1, cv]
  let opp := terms.any (isInf true) && terms.any (isInf false)
  let s1 := fadd env.mode (exactVal p.1) (exactVal q.1)
  let s2 := fadd env.mode (exactVal s1.1) cv
  let r := fresult fmtF32 env (if opp then .nan else s2.1,
    p.2 ||| q.2 ||| sigExc [al, ah, bl, bh, cv] ||| (if opp then excNV else 0))
  (w32 r.1, r.2)

/-! ## Compare (07 R165) -/

/-- VCMP: conditions 0 to 9 on integers, 10 to 15 on f32. -/
def execVcmp (c : BitVec 4) (k : BitVec 3) (a b : BitVec 7) (s : State) : Out :=
  .next (laneCmp k.toNat (vsrc a) (vsrc b)
    (fun x y => if c.toNat < 10 then (condInt c.toNat x y, 0) else condF32 c.toNat x y) s)

/-! ## Major 0x13: f32 (07 R166 to R169) -/

/-- FADD on f32. -/
def execFadd (d a b : BitVec 7) (s : State) : Out :=
  .next (lane2 d.toNat (vsrc a) (vsrc b) (onF32 opAdd) s)
/-- FSUB on f32. -/
def execFsub (d a b : BitVec 7) (s : State) : Out :=
  .next (lane2 d.toNat (vsrc a) (vsrc b) (onF32 opSub) s)
/-- FMUL on f32. -/
def execFmul (d a b : BitVec 7) (s : State) : Out :=
  .next (lane2 d.toNat (vsrc a) (vsrc b) (onF32 opMul) s)
/-- FMIN on f32. -/
def execFmin (d a b : BitVec 7) (s : State) : Out :=
  .next (lane2 d.toNat (vsrc a) (vsrc b) (onF32 opMin) s)
/-- FMAX on f32. -/
def execFmax (d a b : BitVec 7) (s : State) : Out :=
  .next (lane2 d.toNat (vsrc a) (vsrc b) (onF32 opMax) s)
/-- FSCALE on f32. -/
def execFscale (d a b : BitVec 7) (s : State) : Out :=
  .next (lane2 d.toNat (vsrc a) (vsrc b) (onF32 opScale) s)
/-- FCOPYS on f32. -/
def execFcopys (d a b : BitVec 7) (s : State) : Out :=
  .next (lane2 d.toNat (vsrc a) (vsrc b) (onF32 opCopys) s)
/-- FFMA on f32, third source of R26. -/
def execFfma (d a b : BitVec 7) (s : State) : Out :=
  .next (lane3 d.toNat (vsrc a) (vsrc b) (thirdSrc s d) (onF32 opFma) s)
/-- FABS on f32. -/
def execFabs (d a : BitVec 7) (s : State) : Out :=
  .next (lane1 d.toNat (vsrc a) (onF32 opAbs) s)
/-- FNEG on f32. -/
def execFneg (d a : BitVec 7) (s : State) : Out :=
  .next (lane1 d.toNat (vsrc a) (onF32 opNeg) s)
/-- FRND on f32. -/
def execFrnd (d a : BitVec 7) (s : State) : Out :=
  .next (lane1 d.toNat (vsrc a) (onF32 opRnd) s)
/-- FCLASS on f32. -/
def execFclass (d a : BitVec 7) (s : State) : Out :=
  .next (lane1 d.toNat (vsrc a) (onF32 opClass) s)

/-! ## Major 0x14: packed bf16 (07 R166 to R169) -/

/-- FADD on packed bf16. -/
def execFaddBf16x2 (d a b : BitVec 7) (s : State) : Out :=
  .next (lane2 d.toNat (vsrc a) (vsrc b) (onPacked fmtBF16 opAdd) s)
/-- FSUB on packed bf16. -/
def execFsubBf16x2 (d a b : BitVec 7) (s : State) : Out :=
  .next (lane2 d.toNat (vsrc a) (vsrc b) (onPacked fmtBF16 opSub) s)
/-- FMUL on packed bf16. -/
def execFmulBf16x2 (d a b : BitVec 7) (s : State) : Out :=
  .next (lane2 d.toNat (vsrc a) (vsrc b) (onPacked fmtBF16 opMul) s)
/-- FMIN on packed bf16. -/
def execFminBf16x2 (d a b : BitVec 7) (s : State) : Out :=
  .next (lane2 d.toNat (vsrc a) (vsrc b) (onPacked fmtBF16 opMin) s)
/-- FMAX on packed bf16. -/
def execFmaxBf16x2 (d a b : BitVec 7) (s : State) : Out :=
  .next (lane2 d.toNat (vsrc a) (vsrc b) (onPacked fmtBF16 opMax) s)
/-- FSCALE on packed bf16. -/
def execFscaleBf16x2 (d a b : BitVec 7) (s : State) : Out :=
  .next (lane2 d.toNat (vsrc a) (vsrc b) (onPacked fmtBF16 opScale) s)
/-- FCOPYS on packed bf16. -/
def execFcopysBf16x2 (d a b : BitVec 7) (s : State) : Out :=
  .next (lane2 d.toNat (vsrc a) (vsrc b) (onPacked fmtBF16 opCopys) s)
/-- FFMA on packed bf16, third source of R26. -/
def execFfmaBf16x2 (d a b : BitVec 7) (s : State) : Out :=
  .next (lane3 d.toNat (vsrc a) (vsrc b) (thirdSrc s d) (onPacked fmtBF16 opFma) s)
/-- FABS on packed bf16. -/
def execFabsBf16x2 (d a : BitVec 7) (s : State) : Out :=
  .next (lane1 d.toNat (vsrc a) (onPacked fmtBF16 opAbs) s)
/-- FNEG on packed bf16. -/
def execFnegBf16x2 (d a : BitVec 7) (s : State) : Out :=
  .next (lane1 d.toNat (vsrc a) (onPacked fmtBF16 opNeg) s)
/-- FRND on packed bf16. -/
def execFrndBf16x2 (d a : BitVec 7) (s : State) : Out :=
  .next (lane1 d.toNat (vsrc a) (onPacked fmtBF16 opRnd) s)
/-- FCLASS on packed bf16. -/
def execFclassBf16x2 (d a : BitVec 7) (s : State) : Out :=
  .next (lane1 d.toNat (vsrc a) (onPacked fmtBF16 opClass) s)
/-- FDOT2 on packed bf16 with an f32 third source (R169). -/
def execFdot2Bf16x2 (d a b : BitVec 7) (s : State) : Out :=
  .next (lane3 d.toNat (vsrc a) (vsrc b) (thirdSrc s d) (dot2 fmtBF16) s)

/-! ## Major 0x15: packed f16 (07 R166 to R169) -/

/-- FADD on packed f16. -/
def execFaddF16x2 (d a b : BitVec 7) (s : State) : Out :=
  .next (lane2 d.toNat (vsrc a) (vsrc b) (onPacked fmtF16 opAdd) s)
/-- FSUB on packed f16. -/
def execFsubF16x2 (d a b : BitVec 7) (s : State) : Out :=
  .next (lane2 d.toNat (vsrc a) (vsrc b) (onPacked fmtF16 opSub) s)
/-- FMUL on packed f16. -/
def execFmulF16x2 (d a b : BitVec 7) (s : State) : Out :=
  .next (lane2 d.toNat (vsrc a) (vsrc b) (onPacked fmtF16 opMul) s)
/-- FMIN on packed f16. -/
def execFminF16x2 (d a b : BitVec 7) (s : State) : Out :=
  .next (lane2 d.toNat (vsrc a) (vsrc b) (onPacked fmtF16 opMin) s)
/-- FMAX on packed f16. -/
def execFmaxF16x2 (d a b : BitVec 7) (s : State) : Out :=
  .next (lane2 d.toNat (vsrc a) (vsrc b) (onPacked fmtF16 opMax) s)
/-- FSCALE on packed f16. -/
def execFscaleF16x2 (d a b : BitVec 7) (s : State) : Out :=
  .next (lane2 d.toNat (vsrc a) (vsrc b) (onPacked fmtF16 opScale) s)
/-- FCOPYS on packed f16. -/
def execFcopysF16x2 (d a b : BitVec 7) (s : State) : Out :=
  .next (lane2 d.toNat (vsrc a) (vsrc b) (onPacked fmtF16 opCopys) s)
/-- FFMA on packed f16, third source of R26. -/
def execFfmaF16x2 (d a b : BitVec 7) (s : State) : Out :=
  .next (lane3 d.toNat (vsrc a) (vsrc b) (thirdSrc s d) (onPacked fmtF16 opFma) s)
/-- FABS on packed f16. -/
def execFabsF16x2 (d a : BitVec 7) (s : State) : Out :=
  .next (lane1 d.toNat (vsrc a) (onPacked fmtF16 opAbs) s)
/-- FNEG on packed f16. -/
def execFnegF16x2 (d a : BitVec 7) (s : State) : Out :=
  .next (lane1 d.toNat (vsrc a) (onPacked fmtF16 opNeg) s)
/-- FRND on packed f16. -/
def execFrndF16x2 (d a : BitVec 7) (s : State) : Out :=
  .next (lane1 d.toNat (vsrc a) (onPacked fmtF16 opRnd) s)
/-- FCLASS on packed f16. -/
def execFclassF16x2 (d a : BitVec 7) (s : State) : Out :=
  .next (lane1 d.toNat (vsrc a) (onPacked fmtF16 opClass) s)
/-- FDOT2 on packed f16 with an f32 third source (R169). -/
def execFdot2F16x2 (d a b : BitVec 7) (s : State) : Out :=
  .next (lane3 d.toNat (vsrc a) (vsrc b) (thirdSrc s d) (dot2 fmtF16) s)

/-! ## Major 0x1B: f32 with the scalar operand (07 R170) -/

/-- FADD with the scalar half that H selects. -/
def execFaddScalar (d a : BitVec 7) (x : BitVec 6) (h : BitVec 1) (s : State) : Out :=
  .next (lane2 d.toNat (vsrc a) (ssrc s x h) (onF32 opAdd) s)
/-- FSUB with the scalar half that H selects. -/
def execFsubScalar (d a : BitVec 7) (x : BitVec 6) (h : BitVec 1) (s : State) : Out :=
  .next (lane2 d.toNat (vsrc a) (ssrc s x h) (onF32 opSub) s)
/-- FMUL with the scalar half that H selects. -/
def execFmulScalar (d a : BitVec 7) (x : BitVec 6) (h : BitVec 1) (s : State) : Out :=
  .next (lane2 d.toNat (vsrc a) (ssrc s x h) (onF32 opMul) s)
/-- FMIN with the scalar half that H selects. -/
def execFminScalar (d a : BitVec 7) (x : BitVec 6) (h : BitVec 1) (s : State) : Out :=
  .next (lane2 d.toNat (vsrc a) (ssrc s x h) (onF32 opMin) s)
/-- FMAX with the scalar half that H selects. -/
def execFmaxScalar (d a : BitVec 7) (x : BitVec 6) (h : BitVec 1) (s : State) : Out :=
  .next (lane2 d.toNat (vsrc a) (ssrc s x h) (onF32 opMax) s)
/-- FSCALE with the scalar half that H selects. -/
def execFscaleScalar (d a : BitVec 7) (x : BitVec 6) (h : BitVec 1) (s : State) : Out :=
  .next (lane2 d.toNat (vsrc a) (ssrc s x h) (onF32 opScale) s)
/-- FCOPYS with the scalar half that H selects. -/
def execFcopysScalar (d a : BitVec 7) (x : BitVec 6) (h : BitVec 1) (s : State) : Out :=
  .next (lane2 d.toNat (vsrc a) (ssrc s x h) (onF32 opCopys) s)
/-- FFMA with the scalar half that H selects. -/
def execFfmaScalar (d a : BitVec 7) (x : BitVec 6) (h : BitVec 1) (s : State) : Out :=
  .next (lane3 d.toNat (vsrc a) (ssrc s x h) (thirdSrc s d) (onF32 opFma) s)

/-! ## Compact f32 forms (02 R16) -/

/-- Compact FADD.f32. -/
def execFaddCompact (d a : BitVec 5) (s : State) : Out :=
  .next (lane2 d.toNat (vsrc d) (vsrc a) (onF32 opAdd) s)
/-- Compact FSUB.f32. -/
def execFsubCompact (d a : BitVec 5) (s : State) : Out :=
  .next (lane2 d.toNat (vsrc d) (vsrc a) (onF32 opSub) s)
/-- Compact FMUL.f32. -/
def execFmulCompact (d a : BitVec 5) (s : State) : Out :=
  .next (lane2 d.toNat (vsrc d) (vsrc a) (onF32 opMul) s)
/-- Compact FMIN.f32. -/
def execFminCompact (d a : BitVec 5) (s : State) : Out :=
  .next (lane2 d.toNat (vsrc d) (vsrc a) (onF32 opMin) s)
/-- Compact FMAX.f32. -/
def execFmaxCompact (d a : BitVec 5) (s : State) : Out :=
  .next (lane2 d.toNat (vsrc d) (vsrc a) (onF32 opMax) s)

end Sys2Proof.Machine
end

