-- ==== Sys2Proof/Machine/AcrossLanes.lean ====
section
/-! DEFINITION. Instructions across lanes (08 R171 to R175): shuffles, votes, BALLOT, MATCH, broadcast, reductions,
scans, lane identity, select and scalar moves. -/

namespace Sys2Proof.Machine

open Sys2Proof

/-- The partition tile width (07 R151). -/
def Warp.width (w : Warp) : Nat := w.part.toNat % 64
/-- The tile base of thread t. -/
def tileBase (w t : Nat) : Nat := w * (t / w)
/-- The tile index of thread t. -/
def tileIdx (w t : Nat) : Nat := t % w
/-- The active threads of t's tile, ascending. -/
def tileActive (act : W32) (w t : Nat) : List Nat := (maskThreads act).filter (fun u => u / w == t / w)

/-- An instruction that writes every active thread with a value and a poison bit of its own. -/
def perThread (reads : List Nat) (d : Nat) (f : State → Nat → W32 × Bool) (s : State) : State :=
  withRegs reads [d] s fun s =>
    let act := s.w.cur.active
    let res := (maskThreads act).map (fun t => (t, f s t))
    let poi := maskOf (fun t => (tabGet (0, false) t res).2)
    finish { s with w := s.w.vSet d act (fun t => (tabGet (0, false) t res).1) poi }

/-! ## Shuffles (08 R173) -/

/-- The source thread of a shuffle. -/
abbrev ShflSrc := (w t d : Nat) → Nat

def srcIdx : ShflSrc := fun w t d => tileBase w t + d % w
def srcUp : ShflSrc := fun w t d => if d < w ∧ tileIdx w t ≥ d then t - d else t
def srcDown : ShflSrc := fun w t d => if d < w ∧ tileIdx w t + d < w then t + d else t
def srcXor : ShflSrc := fun w t d => tileBase w t + (tileIdx w t ^^^ (d % 32 &&& (w - 1)))

def shuffle (src : ShflSrc) (d a b : BitVec 7) (s : State) : State :=
  heldRegs [a.toNat, b.toNat, d.toNat] s fun s => notDawn s fun s => perThread [a.toNat, b.toNat] d.toNat (fun s t =>
    let u := src s.w.width t (s.w.vGet b.toNat t).toNat
    (s.w.vGet a.toNat u, s.w.pGet a.toNat u || s.w.pGet b.toNat t)) s

def execShfli (d a b : BitVec 7) (s : State) : Out := .next (shuffle srcIdx d a b s)
def execShflu (d a b : BitVec 7) (s : State) : Out := .next (shuffle srcUp d a b s)
def execShfld (d a b : BitVec 7) (s : State) : Out := .next (shuffle srcDown d a b s)
def execShflx (d a b : BitVec 7) (s : State) : Out := .next (shuffle srcXor d a b s)

/-- BCAST: the lane number stands in the field. -/
def execBcast (d a : BitVec 7) (l : BitVec 5) (s : State) : Out :=
  .next (heldRegs [a.toNat, d.toNat] s fun s => notDawn s (perThread [a.toNat] d.toNat (fun s t =>
    let u := tileBase s.w.width t + l.toNat % s.w.width
    (s.w.vGet a.toNat u, s.w.pGet a.toNat u))))

/-! ## Votes, BALLOT, MATCH -/

/-- Whether a contributing value of the tile is poisoned. -/
def tilePois (s : State) (a t : Nat) : Bool := (tileActive s.w.cur.active s.w.width t).any (fun u => s.w.pGet a u)

def execVoteany (d a : BitVec 7) (s : State) : Out :=
  .next (heldRegs [a.toNat, d.toNat] s fun s => notDawn s (perThread [a.toNat] d.toNat (fun s t =>
    (if (tileActive s.w.cur.active s.w.width t).any (fun u => s.w.vGet a.toNat u != 0) then 1 else 0, tilePois s a.toNat t))))

def execVoteall (d a : BitVec 7) (s : State) : Out :=
  .next (heldRegs [a.toNat, d.toNat] s fun s => notDawn s (perThread [a.toNat] d.toNat (fun s t =>
    (if (tileActive s.w.cur.active s.w.width t).all (fun u => s.w.vGet a.toNat u != 0) then 1 else 0, tilePois s a.toNat t))))

/-- A word whose bit l(u) is set for the active threads u of the tile that satisfy p. -/
def tileBits (s : State) (t : Nat) (p : Nat → Bool) : W32 :=
  w32 ((tileActive s.w.cur.active s.w.width t).foldl (fun n u => if p u then n + 2 ^ tileIdx s.w.width u else n) 0)

def execBallot (d a b : BitVec 7) (s : State) : Out :=
  .next (heldRegs [a.toNat, b.toNat, d.toNat] s fun s => notDawn s (perThread [a.toNat, b.toNat] d.toNat (fun s t =>
    (tileBits s t (fun u => (s.w.vGet a.toNat u).getLsbD ((s.w.vGet b.toNat t).toNat % 32)),
      tilePois s a.toNat t || s.w.pGet b.toNat t))))

def execMatchLanes (d a : BitVec 7) (s : State) : Out :=
  .next (heldRegs [a.toNat, d.toNat] s fun s => notDawn s (perThread [a.toNat] d.toNat (fun s t =>
    (tileBits s t (fun u => s.w.vGet a.toNat u == s.w.vGet a.toNat t), tilePois s a.toNat t))))

/-! ## Integer reductions and SCANADD (08 R174) -/

/-- Reduce the active values of t's tile. -/
def tileFold (s : State) (a : Nat) (f : W32 → W32 → W32) (id : W32) (t : Nat) : W32 :=
  (tileActive s.w.cur.active s.w.width t).foldl (fun x u => f x (s.w.vGet a u)) id

def reduceInt (f : W32 → W32 → W32) (id : W32) (d a : BitVec 7) (s : State) : State :=
  heldRegs [a.toNat, d.toNat] s fun s => notDawn s (perThread [a.toNat] d.toNat (fun s t => (tileFold s a.toNat f id t, tilePois s a.toNat t)))

def execRedadd (d a : BitVec 7) (s : State) : Out := .next (reduceInt (· + ·) 0 d a s)
def execRedmin (d a : BitVec 7) (s : State) : Out := .next (reduceInt minS32 0x7FFFFFFF d a s)
def execRedmax (d a : BitVec 7) (s : State) : Out := .next (reduceInt maxS32 0x80000000 d a s)
def execRedand (d a : BitVec 7) (s : State) : Out := .next (reduceInt (· &&& ·) 0xFFFFFFFF d a s)
def execRedor (d a : BitVec 7) (s : State) : Out := .next (reduceInt (· ||| ·) 0 d a s)
def execRedxor (d a : BitVec 7) (s : State) : Out := .next (reduceInt (· ^^^ ·) 0 d a s)

/-- SCANADD: the inclusive prefix. -/
def execScanadd (d a : BitVec 7) (s : State) : Out :=
  .next (heldRegs [a.toNat, d.toNat] s fun s => notDawn s (perThread [a.toNat] d.toNat (fun s t =>
    let us := (tileActive s.w.cur.active s.w.width t).filter (fun u => decide (u ≤ t))
    (us.foldl (fun x u => x + s.w.vGet a.toNat u) 0, us.any (fun u => s.w.pGet a.toNat u)))))

/-! ## Floating reductions and SCANFADD (04 R74, R75; 08 R174) -/

/-- A lane's value as the tree takes it: a NaN is the canonical one, and signalling it raises invalid (R53). -/
def treeLeaf (x : Nat) : FRes :=
  match fdecode fmtF32 x with
  | .nan _ => ⟨canonNaN fmtF32, sigExc [fdecode fmtF32 x]⟩
  | _ => ⟨x, 0⟩

/-- A node of the tree: level n covers 2^n lanes from l; its exceptions join those below it. -/
def redNode (op : Nat → Nat → FRes) (leaf : Nat → Nat) : Nat → Nat → FRes
  | 0, l => treeLeaf (leaf l)
  | n + 1, l =>
    let x := redNode op leaf n l
    let y := redNode op leaf n (l + 2 ^ n)
    let r := op x.bits y.bits
    ⟨r.bits, x.exc ||| y.exc ||| r.exc⟩

/-- FMAX and FMIN at a node (07 R167). -/
def nodeMax (x y : Nat) : FRes := ⟨fmaxBits fmtF32 x y, sigExc [fdecode fmtF32 x, fdecode fmtF32 y]⟩
def nodeMin (x y : Nat) : FRes := ⟨fminBits fmtF32 x y, sigExc [fdecode fmtF32 x, fdecode fmtF32 y]⟩

/-- The value of lane l of t's tile after FI, or the identity where its thread is not active. -/
def laneLeaf (s : State) (a id t l : Nat) : Nat :=
  let u := tileBase s.w.width t + l
  if inMask s.w.cur.active u then flushIn s.w.fi fmtF32 (s.w.vGet a u).toNat else id

/-- A floating instruction across lanes: results and exceptions per active thread, ARITH as R62. -/
def floatAcross (a d : Nat) (f : State → Nat → FRes) (poi : State → Nat → Bool) (s : State) : State :=
  withRegs [a] [d] s fun s =>
    let act := s.w.cur.active
    let res := (maskThreads act).map (fun t => (t, w32 (f s t).bits, (f s t).exc))
    let bad := trapping s.w.enables res
    if bad.isEmpty then
      let w1 := s.w.vSet d act (fun t => (tabGet (0, 0) t res).1) (maskOf (fun t => inMask act t && poi s t))
      finish { s with w := orFpx (joinExc (res.map (·.2.2))) w1 }
    else takeTrap (arithCause (maskOf (fun t => bad.any (fun r => r.1 == t)))
      (joinExc (bad.map (fun r => r.2.2 &&& s.w.enables)))) s

/-- A reduction of R74 over t's tile. -/
def redFloat (op : Nat → Nat → FRes) (id a : Nat) (s : State) (t : Nat) : FRes :=
  flushOut s.w.fo fmtF32 (redNode op (laneLeaf s a id t) (Nat.log2 s.w.width) 0)

def execRedfadd (d a : BitVec 7) (s : State) : Out :=
  .next (heldRegs [a.toNat, d.toNat] s fun s => notDawn s (floatAcross a.toNat d.toNat (redFloat addRne 0x80000000 a.toNat) (fun s t => tilePois s a.toNat t)))
def execRedfmax (d a : BitVec 7) (s : State) : Out :=
  .next (heldRegs [a.toNat, d.toNat] s fun s => notDawn s (floatAcross a.toNat d.toNat (redFloat nodeMax 0xFF800000 a.toNat) (fun s t => tilePois s a.toNat t)))
def execRedfmin (d a : BitVec 7) (s : State) : Out :=
  .next (heldRegs [a.toNat, d.toNat] s fun s => notDawn s (floatAcross a.toNat d.toNat (redFloat nodeMin 0x7F800000 a.toNat) (fun s t => tilePois s a.toNat t)))

/-- The prefix of R75: the tree nodes of the binary digits of n, high to low, added from the left. -/
def scanBlocks (leaf : Nat → Nat) (n : Nat) : Nat → Nat → Option FRes → Option FRes
  | 0, start, acc =>
    if n % 2 = 1 then
      let x := redNode addRne leaf 0 start
      match acc with
      | none => some x
      | some y => let r := addRne y.bits x.bits; some ⟨r.bits, y.exc ||| x.exc ||| r.exc⟩
    else acc
  | b + 1, start, acc =>
    if bit n (b + 1) then
      let x := redNode addRne leaf (b + 1) start
      let acc' := match acc with
        | none => x
        | some y => let r := addRne y.bits x.bits; ⟨r.bits, y.exc ||| x.exc ||| r.exc⟩
      scanBlocks leaf n b (start + 2 ^ (b + 1)) (some acc')
    else scanBlocks leaf n b start acc

/-- SCANFADD's value of thread t before FO. -/
def scanValue (s : State) (a t : Nat) : FRes :=
  (scanBlocks (laneLeaf s a 0x80000000 t) (tileIdx s.w.width t + 1) 5 0 none).getD ⟨0x80000000, 0⟩

/-- The exceptions of a tile's tree and of its active threads' prefixes. -/
def scanExc (s : State) (a t : Nat) : Exc :=
  (redNode addRne (laneLeaf s a 0x80000000 t) (Nat.log2 s.w.width) 0).exc
    ||| joinExc ((tileActive s.w.cur.active s.w.width t).map (fun u => (scanValue s a u).exc))

def execScanfadd (d a : BitVec 7) (s : State) : Out :=
  .next (heldRegs [a.toNat, d.toNat] s fun s => notDawn s (floatAcross a.toNat d.toNat
    (fun s t => flushOut s.w.fo fmtF32 ⟨(scanValue s a.toNat t).bits, scanExc s a.toNat t⟩)
    (fun s t => ((tileActive s.w.cur.active s.w.width t).filter (fun u => decide (u ≤ t))).any (fun u => s.w.pGet a.toNat u))))

/-! ## Lane identity, select, scalar moves (08 R175) -/

def execVlane (d : BitVec 7) (s : State) : Out :=
  .next (perThread [] d.toNat (fun s t => (w32 (tileIdx s.w.width t), false)) s)

def execVthr (d : BitVec 7) (s : State) : Out :=
  .next (perThread [] d.toNat (fun s t => (w32 (s.w.wid * 32 + t), false)) s)

/-- VSEL: k[K] of its prefix, else k0; poison follows the selected operand. -/
def execVsel (d a b : BitVec 7) (s : State) : Out :=
  .next (perThread [a.toNat, b.toNat] d.toNat (fun s t =>
    let k := match s.ix.pfx with
      | some p => p.k
      | none => 0
    if inMask (s.w.kGet k) t then (s.w.vGet a.toNat t, s.w.pGet a.toNat t)
    else (s.w.vGet b.toNat t, s.w.pGet b.toNat t)) s)

def execVmovs (d : BitVec 7) (x : BitVec 6) (h : BitVec 1) (s : State) : Out :=
  .next (perThread [] d.toNat (fun s t => ((ssrc s x h).val s.w t, false)) s)

end Sys2Proof.Machine
end

