-- ==== Sys2Proof/Machine/Convert.lean ====
section
/-! DEFINITION. FCVT (08 R176 to R179) and the dyadic formats (04 R56 to R58). -/

namespace Sys2Proof.Machine

open Sys2Proof

/-! ## Dyadic values, in units of 2^−6 -/

/-- A term of R56. -/
def dyTerm (neg : Bool) (c : Nat) : Int :=
  if c = 7 then 0 else if neg then -((2 ^ (6 - c) : Nat) : Int) else ((2 ^ (6 - c) : Nat) : Int)

/-- The value of a d8 encoding (04 R56). -/
def d8Value (x : Nat) : Int := dyTerm (bit x 7) (bits x 6 4) + dyTerm (bit x 3) (bits x 2 0)
/-- The value of a d4 encoding. -/
def d4Value (x : Nat) : Int := dyTerm (bit x 3) (bits x 2 0)

/-- The canonical d8 encoding with first term sign s1 = 0, C1 = a and second term (s2, b) (04 R57). -/
def d8Code (a s2 b : Nat) : Nat := a * 16 + s2 * 8 + b

/-- The canonical positive d8 encodings of R57: single terms, 2, sums of two distinct terms, differences
2^−a − 2^−b with b ≥ a + 3. -/
def d8Positive : List Nat :=
  (List.range 7).map (fun a => d8Code a 0 7) ++ [0x00]
    ++ (List.range 7).flatMap (fun a => ((List.range 7).filter (fun b => decide (a < b))).map (fun b => d8Code a 0 b))
    ++ (List.range 7).flatMap (fun a => ((List.range 7).filter (fun b => decide (a + 3 ≤ b))).map (fun b => d8Code a 1 b))

/-- The canonical positive d4 encodings. -/
def d4Positive : List Nat := List.range 7

/-- Whether m × 2^e is nearer to the magnitude c (in units of 2^−6) than best is: ties keep the smaller magnitude. -/
def dyBetter (m : Nat) (e : Int) (best c : Nat) : Bool :=
  let u := e + 6
  let x : Nat := if 0 ≤ u then m * 2 ^ u.toNat else m
  let k : Nat := if 0 ≤ u then 1 else 2 ^ (-u).toNat
  let db := if x < best * k then best * k - x else x - best * k
  let dc := if x < c * k then c * k - x else x - c * k
  decide (dc < db) || (decide (dc = db) && decide (c < best))

/-- The encoding, among codes and zero, whose magnitude is nearest to m × 2^e (04 R58), with its magnitude. -/
def dyNearest (value : Nat → Int) (zc : Nat) (codes : List Nat) (m : Nat) (e : Int) : Nat × Nat :=
  codes.foldl (fun b c => if dyBetter m e b.2 (value c).natAbs then (c, (value c).natAbs) else b) (zc, 0)

/-- Whether m × 2^e equals n × 2^−6. -/
def dyEqual (m : Nat) (e : Int) (n : Nat) : Bool :=
  let u := e + 6
  if 0 ≤ u then m * 2 ^ u.toNat == n else m == n * 2 ^ (-u).toNat

/-- The canonical encoding of the negative of a positive one: both signs change, but a single term keeps S2 = 0
(04 R57). -/
def d8Neg (x : Nat) : Nat := if x % 8 = 7 then x + 0x80 else (x + 0x80) ^^^ 8

/-- Rounding of a sum's value into d8 (04 R58): encoding and whether it differs from the exact value. -/
def toD8 (x : FVal) : Nat × Exc :=
  match x with
  | .nan _ => (0x77, excNV)
  | .inf n => (if n then d8Neg 0 else 0, excNX)
  | .fin n m e =>
    if decide (m ≠ 0) && decide ((Nat.log2 m : Int) + e > 3) then (if n then d8Neg 0 else 0, excNX)
    else
      let r := dyNearest d8Value 0x77 d8Positive m e
      (if n && r.2 != 0 then d8Neg r.1 else r.1, if dyEqual m e r.2 then 0 else excNX)

/-- Rounding into d4 (04 R58). -/
def toD4 (x : FVal) : Nat × Exc :=
  match x with
  | .nan _ => (0x7, excNV)
  | .inf n => (if n then 0x8 else 0, excNX)
  | .fin n m e =>
    if decide (m ≠ 0) && decide ((Nat.log2 m : Int) + e > 3) then (if n then 0x8 else 0, excNX)
    else
      let r := dyNearest d4Value 0x7 d4Positive m e
      (if n && r.2 != 0 then r.1 + 8 else r.1, if dyEqual m e r.2 then 0 else excNX)

/-! ## Type codes (00 R4) -/

/-- Width of a type in bits. -/
def typeWidth : Nat → Nat
  | 0 => 32 | 1 => 16 | 2 => 16 | 3 => 8 | 4 => 8 | 5 => 8 | 6 => 4 | 7 => 32 | 8 => 32
  | 9 => 16 | 10 => 16 | 11 => 8 | 12 => 8 | _ => 32

/-- The floating format of a type code, if it is one. -/
def typeFloat : Nat → Option FFmt
  | 0 => some fmtF32 | 1 => some fmtBF16 | 2 => some fmtF16 | 3 => some fmtE4 | 4 => some fmtE5
  | _ => none

/-- The range of an integer type. -/
def typeRange : Nat → Option (Int × Int)
  | 7 => some (-2147483648, 2147483647) | 8 => some (0, 4294967295) | 9 => some (-32768, 32767)
  | 10 => some (0, 65535) | 11 => some (-128, 127) | 12 => some (0, 255)
  | _ => none

/-- A signed integer as a finite value. -/
def intVal (x : Int) (e : Int) : FVal := .fin (decide (x < 0)) x.natAbs e

/-- The exact value of an element of a type, in its own bits. -/
def typeValue (ty x : Nat) : FVal :=
  match typeFloat ty with
  | some f => fdecode f x
  | none =>
    match ty with
    | 5 => intVal (d8Value x) (-6)
    | 6 => intVal (d4Value x) (-6)
    | 7 => intVal (signedOf 32 x) 0
    | 9 => intVal (signedOf 16 x) 0
    | 11 => intVal (signedOf 8 x) 0
    | _ => .fin false x 0

/-- FI on a source of FCVT (04 R63): not where the source is narrower than the destination. -/
def cvtFlush (fi : Bool) (dst src x : Nat) : Nat :=
  match typeFloat src with
  | some f => flushIn (fi && decide (typeWidth dst ≤ typeWidth src)) f x
  | none => x

/-- Float or dyadic to integer (08 R178). -/
def cvtToInt (env : LaneEnv) (lo hi : Int) (w : Nat) (v : FVal) : Nat × Exc :=
  match v with
  | .nan _ => (0, excNV)
  | .inf n => (wrapInt w (if n then lo else hi), if env.sat then 0 else excNV)
  | .fin n m e =>
    let far := decide (m ≠ 0) && decide ((Nat.log2 m : Int) + e > 40)
    let r := if far then (2 ^ 40, true)
      else if decide (m ≠ 0) && decide ((Nat.log2 m : Int) + e < -2) then roundUnits env.mode n 1 (-3) 0 true
      else roundUnits env.mode n m e 0 false
    let x : Int := if n then -(r.1 : Int) else (r.1 : Int)
    let out := if env.sat then excNX else excNV
    if x < lo then (wrapInt w (lo), out)
    else if hi < x then (wrapInt w (hi), out)
    else (wrapInt w x, if r.2 then excNX else 0)

/-- Integer to integer (08 R178). -/
def cvtIntInt (env : LaneEnv) (lo hi : Int) (w : Nat) (x : Int) : Nat :=
  if !env.sat then wrapInt w x
  else if x < lo then wrapInt w lo else if hi < x then wrapInt w hi else wrapInt w x

/-- The signed integer of a finite value with exponent 0. -/
def intOf : FVal → Int
  | .fin n m _ => if n then -(m : Int) else (m : Int)
  | _ => 0

/-- Any value into a floating format (08 R177, R178). -/
def cvtToFloat (env : LaneEnv) (f : FFmt) (v : FVal) : Nat × Exc :=
  match v with
  | .nan s => (canonNaN f, if s then excNV else 0)
  | .inf n =>
    let q := fround f env.mode env.sat env.fo (.inf n)
    (q.bits, if !f.inf && !env.sat then excNV else 0)
  | .fin n m e =>
    let q := fround f env.mode env.sat env.fo (.fin n m e false)
    (q.bits, q.exc)

/-- One element converted from type src to type dst (08 R177 to R179). -/
def convert (env : LaneEnv) (dst src x : Nat) : Nat × Exc :=
  if dst = 13 ∨ src = 13 then (x, 0)
  else
    let v := typeValue src (cvtFlush env.fi dst src x)
    match typeFloat dst with
    | some f => cvtToFloat env f v
    | none =>
      match typeRange dst with
      | some (lo, hi) =>
        match typeRange src with
        | some _ => (cvtIntInt env lo hi (typeWidth dst) (intOf v), 0)
        | none => cvtToInt env lo hi (typeWidth dst) v
      | none => if dst = 5 then toD8 v else toD4 v

/-- The bit position of element p of width w (08 R176). -/
def elemPos (w p : Nat) : Nat := w * (p % (32 / w))

/-- FCVT on one thread: the source element, and the result in its place in the old register. -/
def cvtLane (dst src p : Nat) : LaneOp := fun env a _ c =>
  let ws := typeWidth src
  let wd := typeWidth dst
  let r := convert env dst src ((a.toNat / 2 ^ elemPos ws p) % 2 ^ ws)
  if wd = 32 then (w32 r.1, r.2)
  else
    let at_ := elemPos wd p
    let old := (c.toNat / 2 ^ at_) % 2 ^ wd
    (w32 (c.toNat - old * 2 ^ at_ + (r.1 % 2 ^ wd) * 2 ^ at_), r.2)

/-- The operands FCVT accepts (08 R176, R179). -/
def cvtOk (dst src p : Nat) : Bool :=
  decide (dst < 14) && decide (src < 14)
    && (decide (p = 0) || decide (typeWidth dst < 32) || decide (typeWidth src < 32))
    && ((dst != 13 && src != 13) || (typeWidth dst == 32 && typeWidth src == 32))

/-- FCVT. -/
def execFcvt (t : BitVec 4) (d a : BitVec 7) (y : BitVec 4) (p : BitVec 2) (s : State) : Out :=
  .next (inRange (cvtOk t.toNat y.toNat p.toNat) s fun s =>
    if typeWidth t.toNat = 32 then lane1 d.toNat (vsrc a) (cvtLane t.toNat y.toNat p.toNat) s
    else laneInstr [vsrc a, vsrc d] d.toNat (cvtLane t.toNat y.toNat p.toNat) (vsrc a) (.imm 0) (vsrc d) s)

end Sys2Proof.Machine
end

