-- ==== Sys2Proof/Machine/SpecialFn.lean ====
section
/-! DEFINITION. The special functions (08 R180, R181). A transcendental value is enclosed in fixed point with 704
fraction bits; where both ends of the enclosure round alike, that is the correctly rounded result
(notes/assumptions/9.md says what stands in where they do not). -/

namespace Sys2Proof.Machine

open Sys2Proof

/-! ## Fixed point: naturals in units of 2^−704 -/

/-- One. -/
def fxOne : Nat := 2 ^ 704
/-- How far the computed value may lie from the exact one, in units. -/
def fxMargin : Nat := 2 ^ 220
def fxMul (a b : Nat) : Nat := a * b / fxOne
def fxDiv (a b : Nat) : Nat := a * fxOne / b

/-- Floor of the square root of n below 4^i. -/
def isqrt (n : Nat) : Nat → Nat → Nat
  | 0, r => r
  | i + 1, r => isqrt n i (if (r + 2 ^ i) * (r + 2 ^ i) ≤ n then r + 2 ^ i else r)

/-- A square root in fixed point. -/
def fxSqrt (a : Nat) : Nat := isqrt (a * fxOne) 720 0

/-- Σ 1 / (k 2^k): the natural logarithm of 2. -/
def ln2Sum : Nat → Nat → Nat → Nat
  | 0, _, acc => acc
  | n + 1, k, acc => ln2Sum n (k + 1) (acc + fxOne / (k * 2 ^ k))
def fxLn2 : Nat := ln2Sum 720 1 0

/-- The sums of the positive and negative terms of arctan (1 / x). -/
def atanSum (x : Nat) : Nat → Nat → Nat → Nat → Nat → Nat
  | 0, _, _, pos, neg => pos - neg
  | n + 1, k, p, pos, neg =>
    if k % 4 = 1 then atanSum x n (k + 2) (p / (x * x)) (pos + p / k) neg
    else atanSum x n (k + 2) (p / (x * x)) pos (neg + p / k)
/-- π = 16 arctan (1/5) − 4 arctan (1/239). -/
def fxPi : Nat := 16 * atanSum 5 160 1 (fxOne / 5) 0 0 - 4 * atanSum 239 50 1 (fxOne / 239) 0 0

/-- Σ r^k / k!, r below one. -/
def expSum (r : Nat) : Nat → Nat → Nat → Nat → Nat
  | 0, _, _, acc => acc
  | n + 1, k, t, acc =>
    let t' := fxMul t r / k
    expSum r n (k + 1) t' (acc + t')
def fxExp (r : Nat) : Nat := expSum r 150 1 fxOne fxOne

/-- e^−y. -/
def fxExpNeg (y : Nat) : Nat :=
  let n := y / fxLn2
  fxDiv fxOne (fxExp (y - n * fxLn2)) / 2 ^ n

/-- Σ z^(2j+1) / (2j+1). -/
def atanhSum (z2 : Nat) : Nat → Nat → Nat → Nat → Nat
  | 0, _, _, acc => acc
  | n + 1, k, p, acc => atanhSum z2 n (k + 2) (fxMul p z2) (acc + p / k)

/-- The logarithm to base 2 of m / 2^l, for m from 2^l up to 2^(l+1). -/
def fxLog2 (m l : Nat) : Nat :=
  let z := (m - 2 ^ l) * fxOne / (m + 2 ^ l)
  fxDiv (2 * atanhSum (fxMul z z) 240 1 z 0) fxLn2

/-- The positive and negative terms of the sine series. -/
def sinSum (x2 : Nat) : Nat → Nat → Nat → Nat → Nat → Nat
  | 0, _, _, pos, neg => pos - neg
  | n + 1, k, t, pos, neg =>
    let t' := fxMul t x2 / ((k + 1) * (k + 2))
    if k % 4 = 1 then sinSum x2 n (k + 2) t' (pos + t) neg else sinSum x2 n (k + 2) t' pos (neg + t)
/-- sin (π r) for r up to one half. -/
def fxSinPi (r : Nat) : Nat :=
  let x := fxMul fxPi r
  sinSum (fxMul x x) 100 1 x 0 0

/-- Σ u^n / (2n+1)!!. -/
def erfSum (u : Nat) : Nat → Nat → Nat → Nat → Nat
  | 0, _, _, acc => acc
  | n + 1, k, t, acc =>
    let t' := fxMul t u / k
    erfSum u n (k + 2) t' (acc + t')
/-- erf (x / √2), from x and u = x². -/
def fxErfHalf (x u : Nat) : Nat :=
  fxMul (fxMul (fxSqrt (fxDiv (2 * fxOne) fxPi)) x) (fxMul (fxExpNeg (u / 2)) (erfSum u 800 3 fxOne fxOne))

/-- m × 2^e in fixed point: exact for e ≥ −704, which every value of a format meets. -/
def fxOf (m : Nat) (e : Int) : Nat := m * 2 ^ (e + 704).toNat

/-! ## Results -/

/-- What a special function gives before rounding. -/
inductive SpVal where
  /-- an exact result with the exceptions it raises -/
  | exact (x : Exact) (e : Exc)
  /-- a value strictly between v − 2^−484 and v + 2^−484, never representable -/
  | near (neg : Bool) (v : Nat)

/-- A value so small that it only rounds: below every format's smallest subnormal. -/
def spTiny (neg : Bool) : SpVal := .exact (.fin neg 1 (-2000) true) 0
/-- A little below m × 2^e in magnitude. -/
def spBelow (neg : Bool) (m : Nat) (e : Int) : SpVal := .exact (.fin neg (m * 2 ^ 64 - 1) (e - 64) true) 0
def spNaN : SpVal := .exact .nan excNV
def spZero (neg : Bool) : SpVal := .exact (.fin neg 0 0 false) 0
def spOne (neg : Bool) : SpVal := .exact (.fin neg 1 0 false) 0

/-- 2^x. -/
def spExp2 : FVal → SpVal
  | .nan _ => spNaN
  | .inf true => spZero false
  | .inf false => .exact (.inf false) 0
  | .fin n m e =>
    if m = 0 then spOne false
    else if (Nat.log2 m : Int) + e ≥ 12 then (if n then spTiny false else .exact (.fin false 1 4096 false) 0)
    else
      let x : Int := if n then -(fxOf m e : Int) else (fxOf m e : Int)
      let k := x / (fxOne : Int)
      let f := (x % (fxOne : Int)).toNat
      if f = 0 then .exact (.fin false 1 k false) 0
      else if k < -300 then spTiny false
      else if k > 200 then .exact (.fin false 1 4096 false) 0
      else
        let y := fxExp (fxMul f fxLn2)
        .near false (if 0 ≤ k then y * 2 ^ k.toNat else y / 2 ^ (-k).toNat)

/-- log2 x. -/
def spLog2 : FVal → SpVal
  | .nan _ => spNaN
  | .inf n => if n then spNaN else .exact (.inf false) 0
  | .fin n m e =>
    if m = 0 then .exact (.inf true) excDZ
    else if n then spNaN
    else
      let l := Nat.log2 m
      let k : Int := (l : Int) + e
      if m = 2 ^ l then .exact (.fin (decide (k < 0)) k.natAbs 0 false) 0
      else
        let v : Int := k * (fxOne : Int) + (fxLog2 m l : Int)
        .near (decide (v < 0)) v.natAbs

/-- 1 / x. -/
def spRcp : FVal → SpVal
  | .nan _ => spNaN
  | .inf n => spZero n
  | .fin n m e =>
    if m = 0 then .exact (.inf n) excDZ
    else .exact (.fin n (2 ^ 96 / m) (-96 - e) (decide (2 ^ 96 % m ≠ 0))) 0

/-- √x. -/
def spSqrt : FVal → SpVal
  | .nan _ => spNaN
  | .inf n => if n then spNaN else .exact (.inf false) 0
  | .fin n m e =>
    if m = 0 then spZero n
    else if n then spNaN
    else
      let m1 := if e % 2 = 0 then m else 2 * m
      let e1 := if e % 2 = 0 then e else e - 1
      let r := isqrt (m1 * 2 ^ 64) 60 0
      .exact (.fin false r (e1 / 2 - 32) (decide (r * r ≠ m1 * 2 ^ 64))) 0

/-- 1 / √x. -/
def spRsq : FVal → SpVal
  | .nan _ => spNaN
  | .inf n => if n then spNaN else spZero false
  | .fin n m e =>
    if m = 0 then .exact (.inf n) excDZ
    else if n then spNaN
    else
      let m1 := if e % 2 = 0 then m else 2 * m
      let e1 := if e % 2 = 0 then e else e - 1
      let r := isqrt (2 ^ 128 / m1) 65 0
      .exact (.fin false r (-(e1 / 2) - 64) (decide (r * r * m1 ≠ 2 ^ 128))) 0

/-- sin (π x) for x = q / 2^704, x from 0 up to 2; a zero has the sign zneg. -/
def spSinOf (neg zneg : Bool) (q : Nat) : SpVal :=
  let neg' := neg != decide (q ≥ fxOne)
  let r := q % fxOne
  let r' := if 2 * r > fxOne then fxOne - r else r
  if r = 0 then spZero zneg
  else if 2 * r' = fxOne then spOne neg'
  else .near neg' (fxSinPi r')

/-- x mod 2 in fixed point. -/
def fxMod2 (m : Nat) (e : Int) : Nat := if e ≥ 1 then 0 else fxOf m e % (2 * fxOne)

def spSinPi : FVal → SpVal
  | .nan _ => spNaN
  | .inf _ => spNaN
  | .fin n m e => spSinOf n n (fxMod2 m e)

def spCosPi : FVal → SpVal
  | .nan _ => spNaN
  | .inf _ => spNaN
  | .fin _ m e => spSinOf false false ((fxMod2 m e + fxOne / 2) % (2 * fxOne))

def spTanh : FVal → SpVal
  | .nan _ => spNaN
  | .inf n => spOne n
  | .fin n m e =>
    if m = 0 then spZero n
    else if (Nat.log2 m : Int) + e ≥ 6 then spBelow n 1 0
    else
      let q := fxExpNeg (2 * fxOf m e)
      .near n (fxDiv (fxOne - q) (fxOne + q))

def spSigm : FVal → SpVal
  | .nan _ => spNaN
  | .inf n => if n then spZero false else spOne false
  | .fin n m e =>
    if m = 0 then .exact (.fin false 1 (-1) false) 0
    else if (Nat.log2 m : Int) + e ≥ 8 then (if n then spTiny false else spBelow false 1 0)
    else
      let q := fxExpNeg (fxOf m e)
      .near false (if n then fxDiv q (fxOne + q) else fxDiv fxOne (fxOne + q))

def spErf : FVal → SpVal
  | .nan _ => spNaN
  | .inf n => spOne n
  | .fin n m e =>
    if m = 0 then spZero n
    else if (Nat.log2 m : Int) + e ≥ 3 then spBelow n 1 0
    else
      let x := fxOf m e
      .near n (fxErfHalf (fxMul x (fxSqrt (2 * fxOne))) (2 * fxMul x x))

def spGelu : FVal → SpVal
  | .nan _ => spNaN
  | .inf n => if n then spZero true else .exact (.inf false) 0
  | .fin n m e =>
    if m = 0 then spZero n
    else if (Nat.log2 m : Int) + e ≥ 4 then (if n then spTiny true else spBelow false m e)
    else
      let x := fxOf m e
      let y := fxErfHalf x (fxMul x x)
      .near n (fxMul x (if n then fxOne - y else fxOne + y) / 2)

/-- The function numbers are those of R180. -/
def spFn : Nat → FVal → SpVal
  | 0 => spExp2 | 1 => spLog2 | 2 => spRcp | 3 => spRsq | 4 => spSqrt | 5 => spSinPi | 6 => spCosPi
  | 7 => spTanh | 8 => spSigm | 9 => spGelu | _ => spErf

/-- A special function in a format (08 R180, R181): f32 results take the nearer value whatever the mode. -/
def spOp (fn : Nat) : FOp := fun f env a _ _ =>
  let mode := if f.width = 32 then 1 else env.mode
  match finVal f env a with
  | .nan s => (canonNaN f, if s then excNV else 0)
  | x =>
    match spFn fn x with
    | .exact r e =>
      let q := fround f mode env.sat env.fo r
      (q.bits, q.exc ||| e)
    | .near neg v =>
      let lo := fround f mode env.sat env.fo (.fin neg (v - fxMargin) (-704) true)
      let hi := fround f mode env.sat env.fo (.fin neg (v + fxMargin) (-704) true)
      if lo = hi then (lo.bits, lo.exc)
      else (Config.special fn (f.width * 64 + f.mant) (a + 2 ^ 32 * mode) % 2 ^ f.width, excNX)

/-- A special function: the type code 3 names none (08 R180). -/
def specialFn (fn : Nat) (d a : BitVec 7) (y : BitVec 2) (s : State) : State :=
  inRange (y != 3) s (lane1 d.toNat (vsrc a)
    (if y = 0 then onF32 (spOp fn) else if y = 1 then onPacked fmtBF16 (spOp fn) else onPacked fmtF16 (spOp fn)))

def execFexp2 (d a : BitVec 7) (y : BitVec 2) (s : State) : Out := .next (specialFn 0 d a y s)
def execFlog2 (d a : BitVec 7) (y : BitVec 2) (s : State) : Out := .next (specialFn 1 d a y s)
def execFrcp (d a : BitVec 7) (y : BitVec 2) (s : State) : Out := .next (specialFn 2 d a y s)
def execFrsq (d a : BitVec 7) (y : BitVec 2) (s : State) : Out := .next (specialFn 3 d a y s)
def execFsqrt (d a : BitVec 7) (y : BitVec 2) (s : State) : Out := .next (specialFn 4 d a y s)
def execFsinpi (d a : BitVec 7) (y : BitVec 2) (s : State) : Out := .next (specialFn 5 d a y s)
def execFcospi (d a : BitVec 7) (y : BitVec 2) (s : State) : Out := .next (specialFn 6 d a y s)
def execFtanh (d a : BitVec 7) (y : BitVec 2) (s : State) : Out := .next (specialFn 7 d a y s)
def execFsigm (d a : BitVec 7) (y : BitVec 2) (s : State) : Out := .next (specialFn 8 d a y s)
def execFgelu (d a : BitVec 7) (y : BitVec 2) (s : State) : Out := .next (specialFn 9 d a y s)
def execFerf (d a : BitVec 7) (y : BitVec 2) (s : State) : Out := .next (specialFn 10 d a y s)

end Sys2Proof.Machine
end

