-- ==== Sys2Proof/Machine/Tiles.lean ====
section
/-! DEFINITION. Tiles in memory (04 R64 to R69; 05 R87, R88, R92 to R96): descriptors, element places, bricks, block
scales, trailers, CRC-32C, quantising, zero-run packing. Every function here reads bytes through a given reader. -/

namespace Sys2Proof.Machine

open Sys2Proof

/-! ## Descriptors (05 R87) -/

def dField (d : Desc) (hi lo : Nat) : Nat := bits d.toNat hi lo
def dSpace (d : Desc) : Bool := d.getLsbD 255
def dTrail (d : Desc) : Nat := dField d 223 192
def dScale (d : Desc) : Nat := dField d 191 152
def dLayout (d : Desc) : Nat := dField d 151 148
def dType (d : Desc) : Nat := dField d 147 144
def dStride (d : Desc) : Nat := dField d 143 112
def dCols (d : Desc) : Nat := dField d 111 88
def dRows (d : Desc) : Nat := dField d 87 64
/-- BASE; in the scratchpad space only [31:0] names the offset. -/
def dBase (d : Desc) : Nat := if dSpace d then dField d 31 0 else dField d 63 0

/-- Replace a field of a descriptor. -/
def dPut (d : Desc) (hi lo x : Nat) : Desc :=
  BitVec.ofNat 256 (d.toNat - dField d hi lo * 2 ^ lo + (x % 2 ^ (hi + 1 - lo)) * 2 ^ lo)

/-- Bytes that n elements of a width occupy along the contiguous axis. -/
def lineLen (wb n : Nat) : Nat := ceilDiv (n * wb) 8

/-- Brick width in elements (05 R92). -/
def brickW (wb : Nat) : Nat := 1024 / wb
/-- Bricks across and down a tile. -/
def gridCols (d : Desc) : Nat := ceilDiv (dCols d) (brickW (typeWidth (dType d)))
def gridRows (d : Desc) : Nat := ceilDiv (dRows d) 32

/-- A descriptor that any engine rejects (05 R88). -/
def dMalformed (d : Desc) : Bool :=
  let wb := typeWidth (dType d)
  let l := dLayout d
  dField d 254 224 != 0 || decide (dType d ≥ 14) || decide (l > 4) || dRows d == 0 || dCols d == 0
  || (l == 0 && decide (dStride d < lineLen wb (dCols d)))
  || (l == 1 && decide (dStride d < lineLen wb (dRows d)))
  || (l == 2 && (!dSpace d || dStride d != 0 || dBase d % 4096 != 0))
  || ((l == 3 || l == 4) && dSpace d)
  || (l == 3 && (decide (dType d < 3) || decide (dType d > 6)))
  || dTrail d % 32 != 0

/-- The bit address of element (i, j) of a layout 0 to 3 tile (05 R87, R92; 04 R65). -/
def elemBit (d : Desc) (i j : Nat) : Nat :=
  let wb := typeWidth (dType d)
  match dLayout d with
  | 1 => (dBase d + j * dStride d) * 8 + i * wb
  | 2 =>
    let bw := brickW wb
    (dBase d + ((i / 32) * gridCols d + j / bw) * 4096 + (i % 32) * 128) * 8 + (j % bw) * wb
  | _ => (dBase d + i * dStride d) * 8 + j * wb

/-- n bits from a bit address. -/
def readBits (rd : Nat → Byte) (a n : Nat) : Nat :=
  let k := ceilDiv (a % 8 + n) 8
  (ofBytes ((List.range k).map (fun i => rd (a / 8 + i))) / 2 ^ (a % 8)) % 2 ^ n

/-- Element (i, j). -/
def elemGet (rd : Nat → Byte) (d : Desc) (i j : Nat) : Nat := readBits rd (elemBit d i j) (typeWidth (dType d))

/-- Whether a granule of element (i, j) is poisoned. -/
def elemPoi (poi : Nat → Bool) (d : Desc) (i j : Nat) : Bool :=
  let a := elemBit d i j
  poi (a / 8) || poi ((a + typeWidth (dType d) - 1) / 8)

/-- A number of a little-endian region. -/
def rdNat (rd : Nat → Byte) (a n : Nat) : Nat := ofBytes ((List.range n).map (fun i => rd (a + i)))

/-! ## What a tile reads and writes -/

/-- Scale words of a row (04 R65): B blocks of 64 elements, seven to a word. -/
def blocksOf (cols : Nat) : Nat := ceilDiv cols 64
def scaleWords (cols : Nat) : Nat := ceilDiv (blocksOf cols) 7
/-- Bytes of the row scales, padded to 8. -/
def rowScaleLen (rows : Nat) : Nat := roundUp (2 * rows) 8
/-- Bytes of the scale region. -/
def scaleLen (rows cols : Nat) : Nat := rowScaleLen rows + 8 * rows * scaleWords cols

/-- The byte ranges of a tile: start and length; a layout 3 tile has its scale region and trailer, a layout 4 tile its
stream and trailer. -/
def tileRanges (d : Desc) : List (Nat × Nat) :=
  let wb := typeWidth (dType d)
  match dLayout d with
  | 1 => (List.range (dCols d)).map (fun j => (dBase d + j * dStride d, lineLen wb (dRows d)))
  | 2 => [(dBase d, gridRows d * gridCols d * 4096)]
  | 3 => (List.range (dRows d)).map (fun i => (dBase d + i * dStride d, lineLen wb (dCols d)))
      ++ [(dBase d + dScale d, scaleLen (dRows d) (dCols d)), (dBase d + dTrail d, 32)]
  | 4 => [(dBase d, dTrail d + 32)]
  | _ => (List.range (dRows d)).map (fun i => (dBase d + i * dStride d, lineLen wb (dCols d)))

/-- Bytes of the ranges, for the energy debit (05 R84). -/
def rangesLen (l : List (Nat × Nat)) : Nat := l.foldl (fun n r => n + r.2) 0

/-! ## Writing lines of elements -/

/-- A byte to write: address, value, poison. -/
abbrev Out8 := Nat × Byte × Bool

/-- The zero of a type: all-zero bits, or the canonical zero of d8 and d4 (04 R57, 05 R92). -/
def typeZero (ty : Nat) : Nat := if ty = 5 then 0x77 else if ty = 6 then 0x7 else 0

/-- Two d4 elements per byte, the even one low; an odd count leaves 0x7 in the last high nibble (05 R87). -/
def nibbleBytes (a : Nat) : List (Nat × Bool) → List Out8
  | [] => []
  | [(x, p)] => [(a, BitVec.ofNat 8 (x % 16 + 0x70), p)]
  | (x, p) :: (y, q) :: t => (a, BitVec.ofNat 8 (x % 16 + 16 * (y % 16)), p || q) :: nibbleBytes (a + 1) t

/-- The bytes of a contiguous line of elements (value, poison). -/
def lineBytes (wb a : Nat) (els : List (Nat × Bool)) : List Out8 :=
  if wb = 4 then nibbleBytes a els
  else
    let n := wb / 8
    ((List.range els.length).zip els).flatMap (fun p =>
      ((List.range n).zip (toBytes n p.2.1)).map (fun q => (a + p.1 * n + q.1, q.2, p.2.2)))

/-- Group bytes into pieces that lie in one granule each (03 R34). -/
def packOut : List Out8 → List Piece
  | [] => []
  | (a, b, p) :: t =>
    match packOut t with
    | (a', bs, p') :: r => if a + 1 = a' ∧ a / 64 = a' / 64 then (a, b :: bs, p || p') :: r else (a, [b], p) :: (a', bs, p') :: r
    | [] => [(a, [b], p)]

/-- All bytes of a layout 0, 1 or 2 tile with the given elements; grid positions outside it hold the type's zero. -/
def tileBytes (d : Desc) (f : Nat → Nat → Nat × Bool) : List Out8 :=
  let wb := typeWidth (dType d)
  match dLayout d with
  | 1 => (List.range (dCols d)).flatMap (fun j =>
      lineBytes wb (dBase d + j * dStride d) ((List.range (dRows d)).map (fun i => f i j)))
  | 2 =>
    let bw := brickW wb
    (List.range (gridRows d)).flatMap (fun bi => (List.range (gridCols d)).flatMap (fun bj => (List.range 32).flatMap (fun r =>
      lineBytes wb (dBase d + (bi * gridCols d + bj) * 4096 + r * 128) ((List.range bw).map (fun c =>
        if bi * 32 + r < dRows d ∧ bj * bw + c < dCols d then f (bi * 32 + r) (bj * bw + c) else (typeZero (dType d), false))))))
  | _ => (List.range (dRows d)).flatMap (fun i =>
      lineBytes wb (dBase d + i * dStride d) ((List.range (dCols d)).map (fun j => f i j)))

/-! ## CRC-32C (04 R68) -/

/-- One bit of the reflected polynomial 0x1EDC6F41. -/
def crcBit (c : Nat) : Nat := if c % 2 = 1 then (c / 2) ^^^ 0x82F63B78 else c / 2
def crcByte (c : Nat) (b : Byte) : Nat :=
  crcBit (crcBit (crcBit (crcBit (crcBit (crcBit (crcBit (crcBit (c ^^^ b.toNat))))))))
def crc32c (l : List Byte) : Nat := (l.foldl crcByte 0xFFFFFFFF) ^^^ 0xFFFFFFFF

/-! ## Block scales and row scales (04 R64, R66) -/

/-- A malformed bs9 (04 R64). -/
def bsMalformed (x : Nat) : Bool := bits x 7 3 == 31 || (bit x 8 && x % 256 != 0)
/-- The value of a bs9 with Z = 0, as a natural times a power of two. -/
def bsValue (x : Nat) : Nat × Int :=
  if bits x 7 3 = 0 then (x % 8, -17) else (8 + x % 8, (bits x 7 3 : Int) - 18)

/-- A row scale's value; none when it breaks R66. -/
def rowScale (x : Nat) : Option (Nat × Int) :=
  match fdecode fmtBF16 x with
  | .fin false m e => if m = 0 then none else some (m, e)
  | _ => none

/-- The place of row i's bf16 row scale and of scale word k of row i, from the start of the scale region. -/
def rsOff (i : Nat) : Nat := 2 * i
def swOff (rows cols i k : Nat) : Nat := rowScaleLen rows + 8 * (i * scaleWords cols + k)

/-- bs9 of block b of row i, read at a scale region's address. -/
def bsAt (rd : Nat → Byte) (region rows cols i b : Nat) : Nat :=
  bits (rdNat rd (region + swOff rows cols i (b / 7)) 8) (9 * (b % 7) + 8) (9 * (b % 7))

/-- A scale word with bit 63 set, or a malformed bs9 among its used slots: a decode failure (04 R64, R65). -/
def scaleBad (rd : Nat → Byte) (d : Desc) : Bool :=
  let region := dBase d + dScale d
  (List.range (dRows d)).any (fun i =>
    (List.range (scaleWords (dCols d))).any (fun k => bit (rdNat rd (region + swOff (dRows d) (dCols d) i k) 8) 63)
    || (List.range (blocksOf (dCols d))).any (fun b => bsMalformed (bsAt rd region (dRows d) (dCols d) i b)))

/-- A row scale that breaks R66. -/
def rowScaleBad (rd : Nat → Byte) (d : Desc) : Bool :=
  (List.range (dRows d)).any (fun i => (rowScale (rdNat rd (dBase d + dScale d + rsOff i) 2)).isNone)

/-! ## Trailers (04 R68, R69) -/

/-- The payload bytes that a trailer's CRC covers for layout 3: the rows, then the scale region. -/
def quantCover (rd : Nat → Byte) (d : Desc) : List Byte :=
  (List.range (dRows d)).flatMap (fun i =>
    (List.range (lineLen (typeWidth (dType d)) (dCols d))).map (fun k => rd (dBase d + i * dStride d + k)))
  ++ (List.range (scaleLen (dRows d) (dCols d))).map (fun k => rd (dBase d + dScale d + k))

/-- The stream bytes that a layout 4 trailer's CRC covers. -/
def packCover (rd : Nat → Byte) (d : Desc) (len : Nat) : List Byte := (List.range len).map (fun k => rd (dBase d + k))

/-- The trailer's checks but for the CRC (R69). COUNT holds rows × columns modulo 2^32 (log 94, DESIGN CHOICE). -/
def trailerBad (rd : Nat → Byte) (d : Desc) : Bool :=
  let t := rdNat rd (dBase d + dTrail d) 32
  bits t 31 0 != 0x51544B56 || bits t 135 128 != dType d || bits t 143 136 != dLayout d || bits t 191 160 != dRows d
  || bits t 127 96 != (dRows d * dCols d) % 2 ^ 32 || bits t 223 192 != 0 || bits t 159 144 != 0
  || (dLayout d == 3 && (decide (dType d < 3) || decide (dType d > 6)))

/-- A trailer's 32 bytes. -/
def trailerBytes (magic maxabs sat count ty layout rows crc : Nat) : List Byte :=
  toBytes 4 magic ++ toBytes 4 maxabs ++ toBytes 4 sat ++ toBytes 4 count ++ toBytes 1 ty ++ toBytes 1 layout ++ toBytes 2 0
    ++ toBytes 4 rows ++ toBytes 4 0 ++ toBytes 4 crc

/-! ## Dequantising (05 R94) -/

/-- Row scale × block scale × element (04 R65). Under a zero scale a block's elements are zero: a
finite one with its sign, as the product has it; a NaN or an infinity +0 (log 95, DEDUCED from R64). -/
def scaledValue (bs rs : Nat) (v : FVal) : FVal :=
  if bit bs 8 then .fin false 0 0
  else
    let b := bsValue bs
    match rowScale rs, v with
    | some r, .fin n m e => .fin n (m * r.1 * b.1) (e + r.2 + b.2)
    | _, v => if b.1 = 0 then .fin false 0 0 else v

/-- The exact value of element (i, j) of a layout 3 tile. -/
def quantValue (rd : Nat → Byte) (d : Desc) (i j : Nat) : FVal :=
  let region := dBase d + dScale d
  scaledValue (bsAt rd region (dRows d) (dCols d) i (j / 64)) (rdNat rd (region + rsOff i) 2) (typeValue (dType d) (elemGet rd d i j))

/-- An element dequantised into f32, bf16 or f16, by RNE, without SAT or flush. -/
def dequant (rd : Nat → Byte) (d : Desc) (f : FFmt) (i j : Nat) : Nat :=
  match quantValue rd d i j with
  | .nan _ => canonNaN f
  | .inf n => infBits f n
  | .fin n m e => (fround f 1 false false (.fin n m e false)).bits

/-! ## Quantising (04 R67) -/

/-- The largest magnitude of a narrow format (R67's F). -/
def quantMax (ty : Nat) : Nat := if ty = 3 then 448 else if ty = 4 then 57344 else if ty = 5 then 2 else 1

/-- Compare a × 2^ea with b × 2^eb. -/
def dyLe (a : Nat) (ea : Int) (b : Nat) (eb : Int) : Bool :=
  let u := min ea eb
  decide (a * 2 ^ (ea - u).toNat ≤ b * 2 ^ (eb - u).toNat)

/-- The larger of two magnitudes. -/
def dyMax (x y : Nat × Int) : Nat × Int := if dyLe x.1 x.2 y.1 y.2 then y else x

/-- The largest finite magnitude of some values. -/
def maxAbs (l : List FVal) : Nat × Int := l.foldl (fun a v => match v with
  | .fin _ m e => dyMax a (m, e)
  | _ => a) (0, 0)

/-- The bs9 codes with E from 0 to 30, ascending in value. -/
def bsCodes : List Nat := List.range 248

/-- The smallest bs9 value not below m / (rs × F), or 61440 (R67). -/
def pickScale (m : Nat × Int) (rs : Nat × Int) (fmax : Nat) : Nat :=
  (bsCodes.find? (fun x => let b := bsValue x
    b.1 != 0 && dyLe m.1 m.2 (b.1 * rs.1 * fmax) (b.2 + rs.2))).getD 247

/-- x / y for dyadics, as a dyadic that compares with every coarse dyadic as the exact quotient does. -/
def dyQuot (m : Nat) (e : Int) (m' : Nat) (e' : Int) : Nat × Int :=
  let q := m * 2 ^ 96 / m'
  if m * 2 ^ 96 % m' = 0 then (q, e - e' - 96) else (2 * q + 1, e - e' - 97)

/-- One element quantised, and whether it counts as a saturation. -/
def quantElem (ty : Nat) (rs bs : Nat × Int) (v : FVal) : Nat × Bool :=
  let top := fun (neg : Bool) =>
    if ty = 3 then (if neg then 0xFE else 0x7E) else if ty = 4 then (if neg then 0xFB else 0x7B)
    else if ty = 5 then (if neg then 0x88 else 0x00) else (if neg then 0x8 else 0x0)
  match v with
  | .nan _ => (if ty = 3 then 0x7F else if ty = 4 then 0x7E else typeZero ty, true)
  | .inf n => (top n, true)
  | .fin n m e =>
    if m = 0 then (if ty ≤ 4 then (if n then 0x80 else 0) else typeZero ty, false)
    else
      let y := dyQuot m e (rs.1 * bs.1) (rs.2 + bs.2)
      if !dyLe y.1 y.2 (quantMax ty) 0 then (top n, true)
      else if ty = 5 then ((toD8 (.fin n y.1 y.2)).1, false)
      else if ty = 6 then ((toD4 (.fin n y.1 y.2)).1, false)
      else ((fround (if ty = 3 then fmtE4 else fmtE5) 1 false false (.fin n y.1 y.2 false)).bits, false)

/-- A block quantised: its bs9, its elements with their saturations; a block without a finite nonzero element counts
none (R67). -/
def quantBlock (ty : Nat) (rs : Nat × Int) (vals : List FVal) : Nat × List (Nat × Bool) :=
  let m := maxAbs vals
  if m.1 = 0 then (256, vals.map (fun _ => (typeZero ty, false)))
  else
    let bs := pickScale m rs (quantMax ty)
    (bs, vals.map (quantElem ty rs (bsValue bs)))

/-- A block's columns. -/
def blockCols (cols b : Nat) : List Nat := (List.range (min 64 (cols - 64 * b))).map (· + 64 * b)

/-- A row quantised: blocks in order. -/
def quantRow (ty cols : Nat) (rs : Nat × Int) (f : Nat → FVal) : List (Nat × List (Nat × Bool)) :=
  (List.range (blocksOf cols)).map (fun b => quantBlock ty rs ((blockCols cols b).map f))

/-- The scale words of a row. -/
def packScales (l : List Nat) (words : Nat) : List Nat :=
  (List.range words).map (fun k => (List.range 7).foldl (fun n s => n + ((l[7 * k + s]?).getD 0) * 2 ^ (9 * s)) 0)

/-- A quantised tile: its bytes but for the trailer, its saturations and its MAXABS. -/
def quantTile (d : Desc) (rsBits : Nat → Nat) (f : Nat → Nat → FVal) : List Out8 × Nat × Nat :=
  let ty := dType d
  let rows := (List.range (dRows d)).map (fun i =>
    quantRow ty (dCols d) ((rowScale (rsBits i)).getD (1, 0)) (f i))
  let put := fun (a : Nat) (bs : List Byte) => ((List.range bs.length).zip bs).map (fun q => ((a + q.1, q.2, false) : Out8))
  let payload := ((List.range (dRows d)).zip rows).flatMap (fun p =>
    lineBytes (typeWidth ty) (dBase d + p.1 * dStride d) ((p.2.flatMap (·.2)).map (fun x => (x.1, false))))
  let region := dBase d + dScale d
  let rs := put region (((List.range (dRows d)).flatMap (fun i => toBytes 2 (rsBits i)))
    ++ List.replicate (rowScaleLen (dRows d) - 2 * dRows d) 0)
  let sw := put (region + rowScaleLen (dRows d)) (rows.flatMap (fun r =>
    (packScales (r.map (·.1)) (scaleWords (dCols d))).flatMap (toBytes 8)))
  let sat := rows.foldl (fun n r => n + ((r.flatMap (·.2)).filter (·.2)).length) 0
  let mx := maxAbs ((List.range (dRows d)).flatMap (fun i => (List.range (dCols d)).map (f i)))
  (payload ++ rs ++ sw, min sat 0xFFFFFFFF, (fround fmtF32 1 false false (.fin false mx.1 mx.2 false)).bits)

/-! ## Zero-run packing (05 R95, R96) -/

/-- WIDTH of a chunk for a type. -/
def packWidth (ty : Nat) : Nat := match typeWidth ty with
  | 8 => 0 | 16 => 1 | 32 => 2 | _ => 3

/-- Bytes of k packed elements, padded to 4. -/
def packLen (wb k : Nat) : Nat := roundUp (lineLen wb k) 4

/-- What is wrong with a stream (R96): sub-code and DETAIL. -/
inductive PackErr where
  | header | group | sum
  deriving DecidableEq, Repr

/-- One group: its elements, the address after it; none when it reaches past the end or names an element beyond n. -/
def unpackGroup (rd : Nat → Byte) (ty stop n : Nat) (a : Nat) : Option (List Nat × Nat) :=
  let wb := typeWidth ty
  if a + 4 > stop then none
  else
    let mask := rdNat rd a 4
    let k := popc 32 mask
    if a + 4 + packLen wb k > stop ∨ mask / 2 ^ n ≠ 0 then none
    else some ((List.range n).map (fun b =>
      if bit mask b then readBits rd ((a + 4) * 8 + wb * popc b mask) wb else typeZero ty), a + 4 + packLen wb k)

/-- The groups of a chunk: g groups, n elements left. -/
def unpackGroups (rd : Nat → Byte) (ty stop : Nat) : Nat → Nat → Nat → Option (List Nat × Nat)
  | 0, _, a => some ([], a)
  | g + 1, n, a =>
    match unpackGroup rd ty stop (min 32 n) a with
    | none => none
    | some (x, a') =>
      match unpackGroups rd ty stop g (n - 32) a' with
      | none => none
      | some (y, a'') => some (x ++ y, a'')

/-- One chunk, of the first min 1024 n elements left, at address a: its elements and the address after it. The decoded
CRC takes an odd d4 count with 0x7 in the last high nibble (log 96, DESIGN CHOICE). -/
def unpackChunk (rd : Nat → Byte) (ty stop base n a : Nat) : Except PackErr (List Nat × Nat) :=
  if a + 8 > stop then .error .group
  else
    let h := rdNat rd a 8
    let m := min 1024 n
    if bits h 1 0 ≠ packWidth ty ∨ bits h 13 8 ≠ ceilDiv m 32 ∨ bits h 7 2 ≠ 0 ∨ bits h 31 14 ≠ 0 then .error .header
    else match unpackGroups rd ty stop (ceilDiv m 32) m (a + 8) with
      | none => .error .group
      | some (els, a') =>
        let a2 := base + roundUp (a' - base) 8
        if a2 > stop then .error .group
        else if crc32c ((lineBytes (typeWidth ty) 0 (els.map (fun x => (x, false)))).map (·.2.1)) ≠ bits h 63 32 then .error .sum
        else .ok (els, a2)

/-- Decode chunks: n elements left, at address a; fuel is the number of chunks. -/
def unpackChunks (rd : Nat → Byte) (ty stop base : Nat) : Nat → Nat → Nat → Except PackErr (List (List Nat))
  | 0, _, _ => .ok []
  | c + 1, n, a =>
    match unpackChunk rd ty stop base n a with
    | .error e => .error e
    | .ok (els, a') => match unpackChunks rd ty stop base c (n - min 1024 n) a' with
      | .error e => .error e
      | .ok r => .ok (els :: r)

/-- The chunks that decode, up to the first that does not or that has a poisoned granule. -/
def chunkPrefix (rd : Nat → Byte) (poi : Nat → Nat → Bool) (ty stop base : Nat) : Nat → Nat → Nat → List (List Nat)
  | 0, _, _ => []
  | c + 1, n, a =>
    match unpackChunk rd ty stop base n a with
    | .error _ => []
    | .ok (els, a') => if poi a (a' - a) then [] else els :: chunkPrefix rd poi ty stop base c (n - min 1024 n) a'

/-- A layout 4 tile decoded, chunk by chunk. -/
def unpackTile (rd : Nat → Byte) (d : Desc) : Except PackErr (List (List Nat)) :=
  let n := dRows d * dCols d
  unpackChunks rd (dType d) (dBase d + dTrail d) (dBase d) (ceilDiv n 1024) n (dBase d)

/-- The chunks of a layout 4 tile up to the first bad one. -/
def unpackPrefix (rd : Nat → Byte) (poi : Nat → Nat → Bool) (d : Desc) : List (List Nat) :=
  let n := dRows d * dCols d
  chunkPrefix rd poi (dType d) (dBase d + dTrail d) (dBase d) (ceilDiv n 1024) n (dBase d)

/-- Row i of a layout 3 tile as an engine reads it: elements, row scale, scale words. -/
def quantRowRead (rd : Nat → Byte) (d : Desc) (i : Nat) : List Nat :=
  let region := dBase d + dScale d
  (List.range (dCols d)).map (elemGet rd d i) ++ rdNat rd (region + rsOff i) 2
    :: (List.range (scaleWords (dCols d))).map (fun k => rdNat rd (region + swOff (dRows d) (dCols d) i k) 8)

/-- The bytes of a row that quantRowRead reads. -/
def quantRowRanges (d : Desc) (i : Nat) : List (Nat × Nat) :=
  let region := dBase d + dScale d
  [(dBase d + i * dStride d, lineLen (typeWidth (dType d)) (dCols d)), (region + rsOff i, 2),
   (region + swOff (dRows d) (dCols d) i 0, 8 * scaleWords (dCols d))]

end Sys2Proof.Machine
end

