-- ==== Sys2Proof/Machine/Agents.lean ====
section
/-! DEFINITION. How an engine, a routine unit, the Orrery or a service reads and writes for a context (03 R40, 05 R88,
R100, R102): its translations, its judgement of a range, its bytes. -/

namespace Sys2Proof.Machine

open Sys2Proof

/-- On whose behalf an engine works: context, team for the scratchpad, mode, the writer its writes name, and the leaves that its
record translates through since its first byte (05 R100), by VA div 2^18. -/
structure Agent where
  asid : Nat
  team : Option Nat := none
  priv : Bool := false
  by_  : Writer := {}
  leaves : List (Nat × W64) := []
  deriving DecidableEq, Repr

def Agent.ctx (s : State) (g : Agent) : Ctx := (s.findCtx g.asid).getD {}

/-- The leaf of a page for an agent: the one its record holds, or a walk's (03 R45, R46). -/
def agentWalk (s : State) (g : Agent) (va : Nat) : WalkRes := match g.leaves.lookup (va / 2 ^ 18) with
  | some l => .leaf l
  | none => ctxWalk s (g.ctx s) va

/-- The physical address of an agent's address, whatever its permissions. -/
def agentAt (s : State) (g : Agent) (va : Nat) : Option Nat := match agentWalk s g va with
  | .leaf l => some (leafPA l va)
  | .fail _ _ => none

/-- DETAIL under sub-code 4 (05 R102): a translation's or a permission's failure; or the physical address. -/
def agentPA (s : State) (g : Agent) (acc : Acc) (va : Nat) : Except Nat (W64 × Nat) :=
  match agentWalk s g va with
  | .fail why _ => .error (why % 8)
  | .leaf l => match permWhy l acc g.priv with
    | some why => .error (8 + why % 8)
    | none => .ok (l, leafPA l va)

/-- First addresses of the 256 KiB pages that a range touches, the range's start for the first. -/
def rangePages (start len : Nat) : List Nat :=
  if len = 0 then [] else
  (List.range ((start + len - 1) / 2 ^ 18 + 1 - start / 2 ^ 18)).map (fun i => max start ((start / 2 ^ 18 + i) * 2 ^ 18))

/-! ## Where a switched-out core context's scratchpad and accumulator store stand (16 R361) -/

/-- The mapped pieces of a range of a context's memory: offset in the range, physical address, bytes. -/
def mappedPieces (s : State) (c : Ctx) (start len : Nat) : List (Nat × Nat × Nat) :=
  (rangePages start len).filterMap (fun va => (ctxPA s c va).map (fun pa =>
    (va - start, pa, min (start + len - va) (2 ^ 18 - va % 2 ^ 18))))

/-- The bytes of a range that are not zero, and its poisoned granules, by offset. -/
def imageCells (s : State) (c : Ctx) (start len : Nat) : List Host.Cell :=
  (mappedPieces s c start len).flatMap (fun p => (s.mem.filter (fun x => decide (p.2.1 ≤ x.1) && decide (x.1 < p.2.1 + p.2.2))).map
    (fun x => (p.1 + (x.1 - p.2.1), x.2)))
def imageGrans (s : State) (c : Ctx) (start len : Nat) : List Nat :=
  (mappedPieces s c start len).flatMap (fun p => (s.mp.filter (fun g => decide (p.2.1 ≤ 64 * g) && decide (64 * g < p.2.1 + p.2.2))).map
    (fun g => (p.1 + (64 * g - p.2.1)) / 64))

/-- Put cells and granule poison into a range that held others: only what differs is written. -/
def putImage (c : Ctx) (start : Nat) (old new : List Host.Cell) (oldP newP : List Nat) (s : State) : State :=
  let bs : List Host.Cell := new.filter (fun p => !old.contains p) ++ (old.filter (fun p => !new.any (fun q => q.1 == p.1))).map (fun p => (p.1, 0))
  let s1 := bs.foldl (fun s p => match ctxPA s c (start + p.1) with
    | some pa => putHome pa [p.2] s
    | none => s) s
  let gran := fun (s : State) (g : Nat) => (ctxPA s c (start + 64 * g)).map (· / 64)
  { s1 with
    mp := (oldP.filter (fun g => !newP.contains g)).foldl (fun m g => ((gran s1 g).map (fun x => setDel x m)).getD m)
      ((newP.filter (fun g => !oldP.contains g)).foldl (fun m g => ((gran s1 g).map (fun x => setIns x m)).getD m) s1.mp) }

/-- Offsets in the save area of the scratchpad and of the accumulator store (16 R360). -/
def areaSram : Nat := 0x28000
def areaAcc : Nat := 0x128000

/-- The save area that holds a saved core context's scratchpad and accumulator store: from the end of its spill on. -/
def savedImage (s : State) (sv : Saved) : Option (Ctx × Nat) :=
  if !sv.res || sv.core.spill == 0 then none
  else ((s.allTeams.find? (fun t => !t.retired && t.saved == some sv.id)).bind (fun t => s.findCtx t.asid)).map
    (fun c => (c, sv.core.spill.toNat))

/-- A saved core context with what stands in its save area. -/
def Saved.full (s : State) (sv : Saved) : Core :=
  match savedImage s sv with
  | none => sv.core
  | some (c, base) => { sv.core with
      sram := imageCells s c (base + areaSram) 0x100000, sp := imageGrans s c (base + areaSram) 0x100000
      acc := imageCells s c (base + areaAcc) 0x200000, ap := imageGrans s c (base + areaAcc) 0x200000 }

/-- Change a saved core context: what stands in its save area is written there. -/
def State.modSaved (s : State) (id : Nat) (f : Core → Core) : State :=
  match s.saves.find? (fun x => x.id == id) with
  | none => s
  | some sv =>
    let put := fun (k : Core) (s : State) => { s with saves := modFirst (fun x => x.id == id) (fun x => { x with core := k }) s.saves }
    match savedImage s sv with
    | none => put (f sv.core) s
    | some (c, base) =>
      let old := sv.full s
      let new := f old
      let s1 := putImage c (base + areaSram) old.sram new.sram old.sp new.sp s
      put { new with sram := [], sp := [], acc := [], ap := [] } (putImage c (base + areaAcc) old.acc new.acc old.ap new.ap s1)

/-- The core context that a team stands in: on its core, or switched out. -/
def State.teamCore (s : State) (t : Team) : Core :=
  match t.saved with
  | some i => ((s.saves.find? (fun x => x.id == i)).map (fun x => x.full s)).getD {}
  | none => s.getCore t.core

def State.modTeamCore (s : State) (t : Team) (f : Core → Core) : State :=
  match t.saved with
  | some i => s.modSaved i f
  | none => s.modCore t.core f

def Agent.teamOf (s : State) (g : Agent) : Option Team := g.team.bind s.findTeam

/-- A place of the team's scratchpad or stage windows. -/
def agentSpad (s : State) (g : Agent) (off n : Nat) : Option Local :=
  (g.teamOf s).bind (fun t => spadPlace (s.teamCore t) t off n)

/-- What is wrong with an agent's access to a range: DETAIL under sub-code 4, and the failing address. -/
def rangeFault (s : State) (g : Agent) (space : Bool) (acc : Acc) (start len : Nat) : Option (Nat × Nat) :=
  if space then
    match agentSpad s g start len with
    | some _ => none
    | none => some (12, start)
  else if 2 ^ 57 ≤ start then some (0, start)
  else (rangePages start len).findSome? (fun va => match agentPA s g acc va with
    | .error d => some (d, va)
    | .ok _ => none)

def rangesFault (s : State) (g : Agent) (space : Bool) (acc : Acc) (l : List (Nat × Nat)) : Option (Nat × Nat) :=
  l.findSome? (fun r => rangeFault s g space acc r.1 r.2)

/-- Whether a range has a page under migration, whose writes wait (03 R48). -/
def rangeHeld (s : State) (g : Agent) (space : Bool) (l : List (Nat × Nat)) : Bool :=
  !space && l.any (fun r => (rangePages r.1 r.2).any (fun va => match agentWalk s g va with
    | .leaf l => leafM l
    | .fail _ _ => false))

/-- One byte as an agent reads it. -/
def agentByte (s : State) (g : Agent) (space : Bool) (a : Nat) : Byte :=
  if space then
    match g.teamOf s with
    | some t => match spadPlace (s.teamCore t) t a 1 with
      | some p => ((readLocal (s.teamCore t) p 1).1.head?).getD 0
      | none => 0
    | none => 0
  else match agentAt s g a with
    | some pa => memRead s.mem pa
    | none => 0

/-- Whether the byte's granule is poisoned, or its page (03 R38). -/
def agentPoi (s : State) (g : Agent) (space : Bool) (a : Nat) : Bool :=
  if space then
    match g.teamOf s with
    | some t => match spadPlace (s.teamCore t) t a 1 with
      | some p => (readLocal (s.teamCore t) p 1).2
      | none => false
    | none => false
  else match agentWalk s g a with
    | .leaf l => leafPR l || granPoisoned s.mp (leafPA l a) 1
    | .fail _ _ => false

/-- A number an agent reads from global memory. -/
def agentNat (s : State) (g : Agent) (a n : Nat) : Nat := rdNat (agentByte s g false) a n

/-- Whether any byte of some ranges is poisoned. -/
def rangesPoi (s : State) (g : Agent) (space : Bool) (l : List (Nat × Nat)) : Bool :=
  l.any (fun r => (granules r.1 r.2).any (fun x => agentPoi s g space (max r.1 (64 * x))))

/-- Write bytes for an agent: at home in global memory, or in the team's scratchpad; and the WCT (06 R110). -/
def agentPut (g : Agent) (space : Bool) (out : List Out8) (s : State) : State × Nat :=
  let ps := packOut out
  if space then
    match g.teamOf s with
    | some t =>
      let ls := ps.filterMap (fun p => (spadPlace (s.teamCore t) t p.1 p.2.1.length).map (fun l => (l, p.2)))
      (s.modTeamCore t (writeLocals ls), s.time)
    | none => (s, 0)
  else homeWrite (ps.filterMap (fun p => (agentAt s g p.1).map (fun pa => (pa, p.2)))) g.by_ s

/-- Bytes from an address on, clean. -/
def outBytes (a : Nat) (bs : List Byte) : List Out8 := ((List.range bs.length).zip bs).map (fun p => (a + p.1, p.2, false))

/-! ## Failures (05 R101, R102) -/

/-- INFO of ENGINE. -/
def engineInfo (eng chain opc seq : Nat) : Nat := eng * 2 ^ 45 + chain * 2 ^ 39 + opc * 2 ^ 31 + seq % 2 ^ 31

/-- A failure with its ENGINE cause. -/
def engineFail (eng chain opc seq sub detail addr : Nat) : EFail :=
  { sub := sub, detail := detail
    cause := { code := 0x0D, tsub := sub + 16 * detail, taddr := w64 addr, info := engineInfo eng chain opc seq } }

/-- An operation of a warp completes with its WCT, its flags and its failure; a warp that has ended keeps the
failure unreported (05 R101). -/
def completeWith (uid op wct : Nat) (exc : BitVec 5) (fail : Option EFail) (s : State) : State :=
  s.modWarp uid (fun w => ((w.modOp op (fun o =>
    { o with done := true, wct := max o.wct wct, exc := exc, fail := fail.map (·.cause) })).retire).freeSlot)

/-- An entry of Ablas's error log (05 R101, 17 R368): what it names, an address, a core. -/
def logError (code : Nat) (addr : W64) (core : Nat) (s : State) : State := { s with errLog := (code, addr, core) :: s.errLog }

/-! ## Energy (05 R84, 09 R212) -/

/-- Take a debit of n quarter units if the context's LEVEL covers it. -/
def payEbud (asid n : Nat) (s : State) : Option State :=
  match s.findCtx asid with
  | some c => if n ≤ c.ebudLevel then some (s.modCtx asid (fun c => { c with ebudLevel := c.ebudLevel - n })) else none
  | none => some s

/-- Take as many pieces of a debit as LEVEL covers: what is left to pay. -/
def payPieces (asid piece cost : Nat) (s : State) : Nat × State :=
  match s.findCtx asid with
  | some c =>
    let k := min (cost / piece) (c.ebudLevel / piece)
    (cost - k * piece, s.modCtx asid (fun c => { c with ebudLevel := c.ebudLevel - k * piece }))
  | none => (0, s)

/-- The debit of a record (05 R84), in quarter units. -/
def copyCost (ec nread nwrite : Nat) : Nat := 4 * 2 ^ ec * (ceilDiv nread 65536 + ceilDiv nwrite 65536)

end Sys2Proof.Machine
end

