-- ==== Sys2Proof/Machine/Special.lean ====
section
/-! DEFINITION. The special registers (07 R150): MFS and MTS, for every number of the table. -/

namespace Sys2Proof.Machine

open Sys2Proof

/-- SPLITS (07 R150). -/
def splitsWord (w : Warp) : W64 := w64 (w.stack.length * 256 + w.splits.length)

/-- CTRS (06 R128). -/
def ctrsWord (w : Warp) : W64 :=
  w64 (w.count .cl * 2 ^ 24 + w.count .tl * 2 ^ 18 + w.count .cp * 2 ^ 12 + w.count .st * 2 ^ 6 + w.count .ld)

/-- EBUD (09 R212). -/
def ebudWord (s : State) (c : Ctx) : W64 := w64 (effRate s c % 2 ^ 16 * 2 ^ 32 + c.ebudLevel % 2 ^ 32)

/-- What a special register reads as. -/
def readSpecial (s : State) (n : Nat) : W64 :=
  match n with
  | 0x000 => w64 s.time
  | 0x001 => w64 s.core.num
  | 0x002 => w64 s.die
  | 0x003 => w64 s.team.chip
  | 0x004 => w64 s.team.index
  | 0x005 => w64 s.w.wid
  | 0x006 => w64 s.team.nteam
  | 0x007 => w64 s.team.nwarp
  | 0x008 => s.team.launchId
  | 0x009 => w64 (s.team.pgen % 65536)
  | 0x00A => w64 (s.ctx.tenant % 4096)
  | 0x010 => s.w.part
  | 0x011 => s.w.rnd
  | 0x012 => s.w.flush
  | 0x013 => s.w.fpx
  | 0x014 => s.w.fpe
  | 0x015 => ebudWord s s.ctx
  | 0x016 => w64 s.w.blocks
  | 0x017 => splitsWord s.w
  | 0x018 => ctrsWord s.w
  | 0x020 => s.w.tvec
  | 0x021 => s.w.trap.tcause
  | 0x022 => s.w.trap.tpc
  | 0x023 => s.w.trap.taddr
  | 0x024 => s.w.trap.tmask
  | 0x025 => s.w.trap.tsub
  | 0x026 => s.w.trap.tinfo
  | 0x030 => s.core.spill
  | 0x031 => s.ctx.ktvec
  | 0x032 => s.ctx.asidReg
  | 0x033 => s.ctx.dbgctl
  | _ => 0

/-- Registers of access P (07 R150). -/
def specialPriv (n : Nat) : Bool := n == 0x030 || n == 0x031 || n == 0x032 || n == 0x033
/-- Registers of access RW. -/
def specialRW (n : Nat) : Bool :=
  n == 0x010 || n == 0x011 || n == 0x012 || n == 0x013 || n == 0x014 || n == 0x020 || n == 0x022
/-- The numbers of the table. -/
def specialKnown (n : Nat) : Bool :=
  decide (n ≤ 0x00A) || (decide (0x010 ≤ n) && decide (n ≤ 0x018)) || (decide (0x020 ≤ n) && decide (n ≤ 0x026))
  || specialPriv n

/-- The limits of a written value (04 R60; 07 R150; 16 R343, R351). -/
def specialLimits (s : State) (n : Nat) (x : W64) : Bool :=
  match n with
  | 0x010 => [32, 16, 8, 4, 2].contains x.toNat
  | 0x011 => decide (1 ≤ x.toNat) && decide (x.toNat ≤ 5)
  | 0x012 => decide (x.toNat < 4)
  | 0x013 => decide (x.toNat < 32)
  | 0x014 => decide (x.toNat < 32)
  | 0x020 => decide (x.toNat < 2 ^ 57)
  | 0x031 => decide (x.toNat < 2 ^ 57) && !x.getLsbD 0
  | 0x033 => decide (x.toNat < 2 ^ 57) && bits x.toNat 6 4 == 0
      && (!x.getLsbD 0 || decide (s.dbgs ≥ 1)) && ((!x.getLsbD 1 && !x.getLsbD 2) || s.dbgs == 2)
  | _ => true

/-- The enabled entries of the watch table (16 R352), read at home and translated. -/
def armWatch (s : State) (c : Ctx) (x : W64) : List WatchRange :=
  let wtab := bits x.toNat 56 7 * 128
  (List.range 8).filterMap (fun i =>
    match ctxPA s c (wtab + 16 * i) with
    | none => none
    | some pa =>
      let d0 := memNat s.mem pa 8
      let d1 := memNat s.mem (pa + 8) 8
      if bit d0 63 then
        some { idx := i, va := bits d0 56 0, len := d1 % 2 ^ 32, units := watchUnits s c (bits d0 56 0) (d1 % 2 ^ 32) }
      else none)

/-- Write a special register. -/
def writeSpecial (n : Nat) (x : W64) (s : State) : State :=
  match n with
  | 0x010 => { s with w := { s.w with part := x } }
  | 0x011 => { s with w := { s.w with rnd := x } }
  | 0x012 => { s with w := { s.w with flush := x } }
  | 0x013 => { s with w := { s.w with fpx := x } }
  | 0x014 => { s with w := { s.w with fpe := x } }
  | 0x020 => { s with w := { s.w with tvec := x } }
  | 0x022 => { s with w := { s.w with trap := { s.w.trap with tpc := x } } }
  | 0x030 => { s with core := { s.core with spill := x } }
  | 0x031 => { s with ctx := { s.ctx with ktvec := x } }
  | 0x032 => { s with ctx := { s.ctx with asidReg := x } }
  | 0x033 => { s with ctx := { s.ctx with
      dbgctl := x, watchCount := 0, watch := if x.getLsbD 3 then armWatch s s.ctx x else [] } }
  | _ => s

/-- MFS (07 R150). -/
def execMfs (d : BitVec 6) (n : BitVec 9) (s : State) : Out :=
  .next (inRange (specialKnown n.toNat) s fun s =>
    if specialPriv n.toNat ∧ !s.w.cur.priv then privTrap s else putS d (readSpecial s n.toNat) s)

/-- MTS: the access checks, then the limits (07 R150). -/
def execMts (a : BitVec 6) (n : BitVec 9) (s : State) : Out :=
  .next (inRange (specialKnown n.toNat) s fun s => notDawn s fun s =>
    if !specialRW n.toNat ∧ !specialPriv n.toNat then privTrap s
    else if specialPriv n.toNat ∧ !s.w.cur.priv then privTrap s
    else if !specialLimits s n.toNat (sval s a) then illegal 3 s
    else finish (writeSpecial n.toNat (sval s a) s))

end Sys2Proof.Machine
end

