-- ==== Sys2Proof/Machine/Dawn.lean ====
section
/-! DEFINITION. Packed fields and tables in scratchpad, and the dawn slot (08 R182 to R191). -/

namespace Sys2Proof.Machine

open Sys2Proof

/-! ## BDEC and LUTX (08 R182 to R184) -/

/-- PROT WHY 4 in the scratchpad space (03 R35, R41). -/
def spadProt (off : Nat) (acc : Acc) : Cause := { code := 0x05, taddr := w64 off, info := accInfo 1 4 0 0 acc }

/-- The w bits from bit address a of the team's allocation, and their poison. -/
def spadField (s : State) (a w : Nat) : Nat × Bool :=
  let n := (a + w - 1) / 8 + 1 - a / 8
  let r := readLocal s.core (.sram (s.team.sbase + a / 8)) n
  (ofBytes r.1 / 2 ^ (a % 8) % 2 ^ w, r.2)

/-- BDEC (08 R182). -/
def bdec (sgn : Bool) (d a : BitVec 7) (x : BitVec 6) (s : State) : State :=
  let base := (sval s x).toNat % 2 ^ 32
  let w := bits (sval s x).toNat 36 32
  heldRegs [a.toNat, d.toNat] s fun s => inRange (decide (1 ≤ w) && decide (w ≤ 16)) s fun s => withRegs [a.toNat] [d.toNat] s fun s =>
    let addr := fun t => base + (s.w.vGet a.toNat t).toNat * w
    judged ((maskThreads s.w.cur.active).map (fun t =>
      (t, if (addr t + w - 1) / 8 < s.team.ssize then Chk.ok 0 0 else .fail (spadProt (addr t / 8) .read)))) s fun s =>
      let val := fun t => (spadField s (addr t) w).1
      let poi := maskOf (fun t => s.w.pGet a.toNat t || (spadField s (addr t) w).2)
      let res := fun t => if sgn then BitVec.ofInt 32 (signedOf w (val t)) else w32 (val t)
      finish { s with w := s.w.vSet d.toNat s.w.cur.active res poi }

def execBdecZ (d a : BitVec 7) (x : BitVec 6) (s : State) : Out := .next (bdec false d a x s)
def execBdecS (d a : BitVec 7) (x : BitVec 6) (s : State) : Out := .next (bdec true d a x s)

/-- LUTX with entries of e bytes (08 R183). -/
def lutx (e : Nat) (d a : BitVec 7) (x : BitVec 6) (s : State) : State :=
  let t0 := (sval s x).toNat % 2 ^ 32
  let n := bits (sval s x).toNat 35 32
  heldRegs [a.toNat, d.toNat] s fun s => inRange (decide (n ≤ 8)) s fun s => withRegs [a.toNat] [d.toNat] s fun s =>
    if t0 % e ≠ 0 then alignTrap (w64 t0) s.w.cur.active s
    else if t0 + e * 2 ^ n > s.team.ssize then takeTrap { spadProt t0 .read with tmask := s.w.cur.active } s
    else
      let rd := fun t => readLocal s.core (.sram (s.team.sbase + t0 + e * ((s.w.vGet a.toNat t).toNat % 2 ^ n))) e
      let poi := maskOf (fun t => s.w.pGet a.toNat t || (rd t).2)
      finish { s with w := s.w.vSet d.toNat s.w.cur.active (fun t => w32 (ofBytes (rd t).1)) poi }

def execLutxB32 (d a : BitVec 7) (x : BitVec 6) (s : State) : Out := .next (lutx 4 d a x s)
def execLutxB16 (d a : BitVec 7) (x : BitVec 6) (s : State) : Out := .next (lutx 2 d a x s)

/-! ## The queues (08 R189, R190) -/

/-- SD ← 0 with a reason in TSUB, and the instruction completes. -/
def softFail {n : Nat} (d : BitVec n) (why : Nat) (s : State) : State :=
  putS d 0 { s with w := { s.w with trap := { s.w.trap with tsub := w64 why } } }

/-- The dawn fault in the owning team (08 R190): the code, TSUB and TINFO of the fault, TADDR the dawn instruction. -/
def dawnTrap (s : State) : State :=
  let f := s.core.dawn.fault
  takeTrap { code := f.code, tsub := f.tsub, taddr := s.core.dawn.fpc, info := f.info, tmask := s.w.cur.active }
    { s with ix := { s.ix with p := bit s.core.dawn.ftinfo.toNat 62, dict := none } }

/-- The place of a split in the order of a queue's waiters: issue time, slot, and its number (08 R189). -/
def placeKey (w : Warp) (p : Split) (x : Nat) : Nat × Nat × Nat := (p.since.getD 0, w.slot, x)

def keyLt (a b : Nat × Nat × Nat) : Bool :=
  decide (a.1 < b.1) || (a.1 == b.1 && (decide (a.2.1 < b.2.1) || (a.2.1 == b.2.1 && decide (a.2.2 < b.2.2))))

/-- The issuing split takes a place of a kind: the number it has, or a new one (kinds: queue 0 to 3, 7 JCDEAL). -/
def takePlace (kind : Nat) (s : State) : State :=
  match s.w.cur.place with
  | some _ => s
  | none => { s.modCur (fun p => { p with place := some (8 * s.nextId + kind), dict := s.ix.dict }) with nextId := s.nextId + 1 }

/-- Whether another waiting split of the team stands before the issuing one. -/
def placeBefore (kind : Nat) (s : State) : Bool :=
  let me := placeKey s.w { s.w.cur with since := some (s.w.cur.since.getD s.time) } (s.w.cur.place.getD (8 * s.nextId + kind))
  (s.allWarps.filter (fun w => w.team == s.w.team && !w.dawn)).any (fun w =>
    (w.cur :: w.others).any (fun p => p.active != 0 && (match p.place with
      | some x => x % 8 == kind && !(w.uid == s.w.uid && p.num == s.w.cur.num) && keyLt (placeKey w p x) me
      | none => false)))

/-- QPOP and QPEEK. -/
def qread (keep : Bool) (d : BitVec 7) (q : BitVec 2) (s : State) : State :=
  heldRegs [d.toNat] s fun s =>
  if s.w.dawn || (s.core.dawn.st != .free && s.core.dawn.owner != s.w.team) then illegal 10 s
  else withRegs [] [d.toNat] s fun s =>
    match tabGet [] q.toNat s.core.dawn.queues with
    | e :: rest =>
      if placeBefore q.toNat s then parkHere (takePlace q.toNat s)
      else
        let c := if keep then s.core else
          { s.core with dawn := { s.core.dawn with queues := tabSet [] q.toNat rest s.core.dawn.queues } }
        finish { s with core := c, w := s.w.vSet d.toNat s.w.cur.active (fun t => (e.vals[t]?).getD 0) e.pois }
    | [] => match s.core.dawn.st with
      | .free => stageTrap 0x10 s
      | .loaded => stageTrap 0x10 s
      | .faulted => dawnTrap s
      | .running => parkHere (takePlace q.toNat s)

def execQpop (d : BitVec 7) (q : BitVec 2) (s : State) : Out := .next (qread false d q s)
def execQpeek (d : BitVec 7) (q : BitVec 2) (s : State) : Out := .next (qread true d q s)

/-- QPUSH: all 32 threads as they stand. -/
def qpush (q : BitVec 2) (a : BitVec 7) (s : State) : State :=
  heldRegs [a.toNat] s fun s =>
  if !s.w.dawn then illegal 10 s
  else withRegs [a.toNat] [] s fun s =>
    let l := tabGet [] q.toNat s.core.dawn.queues
    if l.length ≥ 16 then parkHere s
    else
      let e : QEntry := { vals := threads.map (s.w.vGet a.toNat), pois := s.w.vPois a.toNat }
      finish { s with core := { s.core with dawn := { s.core.dawn with
        queues := tabSet [] q.toNat (l ++ [e]) s.core.dawn.queues } } }

def execQpush (q : BitVec 2) (a : BitVec 7) (s : State) : Out := .next (qpush q a s)

/-! ## DAWNLD, DAWNGO, DAWNSTOP (08 R185 to R188) -/

/-- A malformed header of a dawn image (08 R186). -/
def dawnBad (d0 d1 : Nat) : Bool :=
  let ni := bits d0 23 12
  let np := bits d0 11 0
  d1 != 0 || bits d0 63 27 != 0 || decide (bits d0 26 24 > 6) || ni == 0 || decide (ni > 1024)
  || decide (np < ni) || decide (np > 2048)

/-- The old dawn warp leaves its slot. -/
def dropDawnWarp (s : State) : State := { s with ws := s.ws.filter (fun w => !(w.dawn && w.uid == s.core.dawn.uid)) }

/-- DAWNLD. -/
def dawnLoad (d a : BitVec 6) (s : State) : State :=
  let w := s.core.dawn
  if w.st = .running ∨ (w.st ≠ .free ∧ w.owner ≠ s.w.team) then softFail d 1 s
  else inlineLoad true false 8 (sval s a) 2 s fun d0 s => inlineLoad true false 8 (sval s a + 8) 2 s fun d1 s =>
    if dawnBad d0 d1 then softFail d 2 s
    else
      let s1 := dropDawnWarp s
      putS d 1 { s1 with core := { s1.core with dawn :=
        { st := .loaded, owner := s.w.team, image := sval s a, xb := bits d0 26 24 } } }

def execDawnld (d a : BitVec 6) (s : State) : Out := .next (notDawn s (dawnLoad d a))

/-- The lane a new warp is bound to (14 R302): the lowest without a warp, else the lowest that holds one. -/
def pickLane (s : State) (core : Nat) : Nat :=
  let n := fun l => (s.allWarps.filter (fun w => w.core == core && w.saved == none && w.slotHeld && w.lane == l)).length
  (((List.range Config.lanes).find? (fun l => n l == 0)).orElse (fun _ => (List.range Config.lanes).find? (fun l => n l == 1))).getD 0

/-- The dawn warp as it starts (08 R186). -/
def newDawnWarp (s : State) (arg : W64) : Warp :=
  { uid := s.nextId, core := s.core.num, slot := 255, lane := pickLane s s.core.num, team := s.w.team, dawn := true
    cur := { pc := s.core.dawn.image + 16, active := 0xFFFFFFFF }
    blocks := s.core.dawn.xb, s := tabSet 0 1 arg [] }

/-- DAWNGO. -/
def dawnGo (d a : BitVec 6) (s : State) : State :=
  let mine := s.core.dawn.owner = s.w.team
  if s.core.dawn.st = .faulted ∧ mine then dawnTrap s
  else if s.core.dawn.st = .loaded ∧ mine then
    afterFence 4 s fun s =>
      if s.core.dawn.xb == 0 || (s.core.xq.isEmpty && blocksFit s s.core.dawn.xb) then
        let s1 := dropDawnWarp s
        putS d 1 { s1 with
          nextId := s1.nextId + 1
          ws := newDawnWarp s1 (sval s a) :: s1.ws
          core := { s1.core with dawn := { s1.core.dawn with st := .running, uid := s1.nextId } } }
      else softFail d 3 s
  else softFail d 1 s

def execDawngo (d a : BitVec 6) (s : State) : Out := .next (notDawn s (dawnGo d a))

/-- DAWNSTOP: between two steps every warp stands at an instruction boundary. -/
def dawnStop (d : BitVec 6) (s : State) : State :=
  let mine := s.core.dawn.owner = s.w.team
  if s.core.dawn.st = .faulted ∧ mine then dawnTrap s
  else if s.core.dawn.st = .running ∧ mine then
    let s1 := dropDawnWarp s
    putS d 1 { s1 with core := { s1.core with dawn := { s1.core.dawn with st := .loaded } } }
  else softFail d 1 s

def execDawnstop (d : BitVec 6) (s : State) : Out := .next (notDawn s (dawnStop d))

/-- EXIT in the dawn warp: Running becomes Loaded and the warp ends (08 R188). -/
def dawnExit (s : State) : State :=
  let s1 := finish s
  { s1 with
    core := { s1.core with dawn := { s1.core.dawn with st := .loaded } }
    w := { s1.w.exitAll with blocks := 0, ops := [], slotHeld := false } }

end Sys2Proof.Machine
end

