-- ==== Sys2Proof/Machine/Chains.lean ====
section
/-! DEFINITION. Chains of command records and tile descriptors as the warps use them (05 R77 to R90; 06 R130): CPUSH,
CSEQ, WAITR, TDLD, TDST, TDSET, TDOFF and the tile copies. -/

namespace Sys2Proof.Machine

open Sys2Proof

/-! ## Chains (05 R77 to R79) -/

def Ctx.chain (c : Ctx) (n : Nat) : Option Chain := (c.chains.find? (fun p => p.1 == n)).map (·.2)
def Ctx.modChain (c : Ctx) (n : Nat) (f : Chain → Chain) : Ctx :=
  { c with chains := modFirst (fun p => p.1 == n) (fun p => (p.1, f p.2)) c.chains }

/-- The address of segment k, found by the links (05 R77; the link is dword 0 of position 63, notes/assumptions/35.md). -/
def segVA (s : State) (c : Ctx) (ch : Chain) : Nat → Option Nat
  | 0 => some ch.segBase.toNat
  | k + 1 => (segVA s c ch k).bind (fun a => (ctxPA s c (a + 63 * 64)).map (fun pa => memNat s.mem pa 8))

/-- The address of the position of index x (05 R78). -/
def posVA (s : State) (c : Ctx) (ch : Chain) (x : Nat) : Option Nat :=
  (segVA s c ch (x / 63 % max ch.nseg 1)).map (· + x % 63 * 64)

/-- The annex entry of index x. -/
def annexVA (ch : Chain) (x : Nat) : Nat := ch.annex.toNat + x % (63 * max ch.nseg 1) * 128

/-- A chain is full (05 R78). -/
def chainFull (ch : Chain) : Bool := (ch.tail + 1) % (63 * ch.nseg) == ch.head % (63 * ch.nseg)

/-- An index after another; an index has 32 bits (05 R78). -/
def nextIndex (x n : Nat) : Nat := (x + n) % 2 ^ 32

/-- The slot entry of a chain (05 R78). -/
def Chain.entry (ch : Chain) : List Byte :=
  [ch.segBase.toNat, ch.cwAddr.toNat, ch.annex.toNat, ch.nextSeq, ch.head % 2 ^ 32 * 2 ^ 32 + ch.tail % 2 ^ 32,
   bitOf ch.priv * 2 ^ 25 + bitOf ch.host.isSome * 2 ^ 24 + 2 ^ 23 + ch.engine % 128 * 2 ^ 16 + ch.nseg % 2 ^ 16, 0, 0].flatMap (toBytes 8)

/-- The hardware's own writes into a context's memory, whatever the permissions: pieces in one granule each. -/
def ownPieces (s : State) (c : Ctx) (a : Nat) (bs : List Byte) : List Piece :=
  (packOut (outBytes a bs)).filterMap (fun p => (ctxPA s c p.1).map (fun pa => (pa, p.2)))

def ownWrite (c : Ctx) (a : Nat) (bs : List Byte) (b : Writer) (s : State) : State × Nat :=
  homeWrite (ownPieces s c a bs) b s

/-- A bound chain changes, and its slot entry in the chain table with it (05 R78). -/
def moveChain (asid n : Nat) (f : Chain → Chain) (s : State) : State :=
  let s1 := s.modCtx asid (fun c => c.modChain n f)
  match s1.findCtx asid with
  | none => s1
  | some c => match c.chain n with
    | some ch => (ownWrite c (c.ctBase + 64 * n) ch.entry {} s1).1
    | none => s1

/-- Bytes of a list of descriptors, 32 each. -/
def descBytes (l : List Desc) : List Byte := l.flatMap (fun d => toBytes 32 d.toNat)

/-- Append a record at TAIL of a chain (05 R85): memory, the annex entry, TAIL and NEXTSEQ. -/
def appendRec (asid n : Nat) (dws : List W64) (annex : List Desc) (r : Rec) (s : State) : State :=
  match s.findCtx asid with
  | none => s
  | some c => match c.chain n with
    | none => s
    | some ch =>
      let put := match posVA s c ch ch.tail with
        | some va => (ownWrite c va (dws.flatMap (fun x => toBytes 8 x.toNat)) {} s).1
        | none => s
      let put2 := (ownWrite c (annexVA ch ch.tail) (descBytes annex) {} put).1
      moveChain asid n (fun ch => { ch with
        tail := nextIndex ch.tail 1, nextSeq := ch.nextSeq + 1
        recs := ch.recs ++ [{ r with seq := ch.nextSeq, idx := ch.tail, dws := dws }] }) put2

/-! ## CPUSH, CSEQ, WAITR (05 R85, R86; 06 R130) -/

/-- PROT WHY 6. -/
def chainTrap (s : State) : State := takeTrap { code := 0x05, info := accInfo 0 6 0 0 .read, tmask := s.w.cur.active } s

/-- A slot of the issuing context that records may be appended to. -/
def openChain (n : Nat) (s : State) (k : Chain → State → State) : State :=
  match s.ctx.chain n with
  | some ch => if ch.host.isSome then chainTrap s else k ch s
  | none => chainTrap s

/-- An instruction that starts engine work (06 R138). -/
def engineWork (c : Cls) (s : State) (k : State → State) : State :=
  notDawn s fun s => notSpec 4 s fun s => withRoom c s k

/-- The record of the issuing warp, counted under a class. -/
def pushRec (c : Cls) (n : Nat) (dws : List W64) (annex : List Desc) (instr opBad : Bool) (s : State) : State :=
  let op := s.nextId
  let ch := (s.ctx.chain n).getD {}
  let r : Rec := { seq := 0, idx := 0, warp := some s.w.uid, op := op, team := some s.w.team, priv := s.w.cur.priv
                   instr := instr, opBad := opBad, rnd := s.w.mode, fpe := s.w.enables }
  let s1 := appendRec s.ctx.asid n dws annex r { s with nextId := op + 1 }
  let hnd := if (dws.headD 0).toNat % 256 = 0x10 then (dws[1]?).getD 0 else 0
  { s1 with w := (s1.w.addOp op c (.record n ch.nextSeq) [] 0 false 0).modOp op (fun o => { o with hnd := hnd }) }

/-- The eight dwords of a record in s[SA] to s[SA+7], with EC raised. -/
def recordOf (s : State) (a : BitVec 6) (e : BitVec 2) : List W64 :=
  (List.range 8).map (fun i =>
    let x := s.w.sGet (a.toNat + i)
    if i = 0 then w64 (x.toNat - bits x.toNat 9 8 * 256 + max (bits x.toNat 9 8) e.toNat * 256) else x)

/-- CPUSH: the record is read before the split parks (R85). -/
def cpush (d a c : BitVec 6) (e : BitVec 2) (w : BitVec 1) (s : State) : State :=
  let rec_ := sampled (recordOf s a e) s
  let cls : Cls := if (rec_.headD 0).toNat % 256 = 0x10 then .tl else .cp
  inRange (a.toNat % 8 == 0) s fun s => engineWork cls s fun s => openChain c.toNat s fun ch s => keeping rec_ s fun s =>
    if chainFull ch then (if w = 0 then putS d 1 s else parkHere s)
    else afterFence 4 s fun s =>
      putS d (w64 ch.nextSeq) (pushRec cls c.toNat rec_ [] false false s)

def execCpush (d a c : BitVec 6) (e : BitVec 2) (w : BitVec 1) (s : State) : Out := .next (cpush d a c e w s)

/-- CSEQ: an acquire load of the completion word. -/
def cseq (d c : BitVec 6) (s : State) : State :=
  notDawn s fun s => match s.ctx.chain c.toNat with
    | none => chainTrap s
    | some ch => inlineLoad false true 8 ch.cwAddr 2 s fun x s => putS d (w64 x) s

def execCseq (d c : BitVec 6) (s : State) : Out := .next (cseq d c s)

/-- The warp's records of a chain up to a sequence number that are complete and not yet retired. -/
def doneRecs (w : Warp) (n q : Nat) : List Op :=
  w.ops.filter (fun o => o.done && (match o.kind with
    | .record m seq => m == n && decide (seq ≤ q)
    | _ => false))

/-- The oldest unreported failure among the warp's records of a chain up to a sequence number (06 R130). -/
def recFailure (w : Warp) (n q : Nat) : Option (Nat × Cause) :=
  let a := (w.fails.filter (fun f => match f.chain with
    | some (m, seq) => m == n && decide (seq ≤ q)
    | none => false)).map (fun f => (f.id, f.cause))
  let b := (doneRecs w n q).filterMap (fun o => o.fail.map (fun c => (o.id, c)))
  (a ++ b).foldl (fun best p => match best with
    | none => some p
    | some x => if p.1 < x.1 then some p else some x) none

/-- A failure has been reported. -/
def Warp.reported (w : Warp) (id : Nat) : Warp :=
  { w with
    fails := w.fails.filter (fun f => f.id != id)
    ops := w.ops.map (fun o => if o.id = id then { o with fail := none } else o) }

/-- WAITR. -/
def waitr (d a c : BitVec 6) (s : State) : State :=
  notDawn s fun s => match s.ctx.chain c.toNat with
    | none => chainTrap s
    | some ch => inlineLoad false true 8 ch.cwAddr 2 s fun x t =>
      let q := ((sampled [sval s a] s).headD 0).toNat
      if x % 2 ^ 59 < q then parkWith [w64 q] s
      else
        let t1 := { t with w := { t.w with wmax := (doneRecs t.w c.toNat q).foldl (fun m o => max m o.wct) t.w.wmax } }
        match recFailure t1.w c.toNat q with
        | some (id, cause) => trapOnce { cause with tmask := t1.w.cur.active } t1 (fun s => { s with w := s.w.reported id })
        | none => putS d (w64 x) t1

def execWaitr (d a c : BitVec 6) (s : State) : Out := .next (waitr d a c s)

/-! ## Descriptor registers (05 R87, R89) -/

/-- TDLD: a load of 32 bytes that may hit the L1. -/
def tdld (d : BitVec 4) (h : BitVec 6) (s : State) : State :=
  notDawn s fun s => withRoom .ld s fun s => inlineLoad true false 32 (sval s h) 2 s fun x s =>
    finish { s with
      nextId := s.nextId + 1
      w := (s.w.tdSet d.toNat (BitVec.ofNat 256 x)).addOp s.nextId .ld .now [] 0 true 0 }

def execTdld (d : BitVec 4) (h : BitVec 6) (s : State) : Out := .next (tdld d h s)

/-- TDST: a store of 32 bytes. -/
def tdst (a : BitVec 4) (h : BitVec 6) (s : State) : State :=
  notDawn s fun s => withRoom .st s fun s => judgedScalar .write 32 (sval s h) s fun l pa s =>
    watchChecked 32 ((maskThreads s.w.cur.active).map (fun t => (t, pa))) s fun s =>
      let parts := [(lineOf pa, WPart.store pa (toBytes 32 (s.w.tdGet a.toNat).toNat) false)]
      if s.team.spec then specStore [pageOf l pa (sval s h).toNat] parts s else finish (sendWrites .st .write [] parts s)

def execTdst (a : BitVec 4) (h : BitVec 6) (s : State) : Out := .next (tdst a h s)

/-- The place of a field that TDSET names. -/
def tdField (f : Nat) : Nat × Nat :=
  match f with
  | 0 => (63, 0)
  | 1 => (87, 64)
  | 2 => (111, 88)
  | 3 => (143, 112)
  | 4 => (147, 144)
  | 5 => (151, 148)
  | 6 => (191, 152)
  | 7 => (223, 192)
  | _ => (255, 255)

/-- TDSET. -/
def execTdset (d a f : BitVec 4) (h : BitVec 6) (s : State) : Out :=
  .next (inRange (decide (f.toNat ≤ 8)) s fun s => notDawn s fun s =>
    let x := dPut (s.w.tdGet a.toNat) (tdField f.toNat).1 (tdField f.toNat).2 (sval s h).toNat
    finish { s with w := s.w.tdSet d.toNat x })

/-- TDOFF's BASE, where the sub-tile is allowed. -/
def tdoffBase (d : Desc) (i j : Nat) : Option Nat :=
  let wb := typeWidth (dType d)
  let base := dField d 63 0
  if dType d ≥ 14 ∨ i ≥ dRows d ∨ j ≥ dCols d then none
  else match dLayout d with
    | 0 => if wb = 4 ∧ j % 2 = 1 then none else some (base + i * dStride d + j * wb / 8)
    | 1 => if wb = 4 ∧ i % 2 = 1 then none else some (base + j * dStride d + i * wb / 8)
    | 2 => if i % 32 ≠ 0 ∨ j % brickW wb ≠ 0 then none
        else some (base + (i / 32 * gridCols d + j / brickW wb) * 4096)
    | _ => none

/-- TDOFF. -/
def tdoff (d : Desc) (i j : Nat) : Desc :=
  match tdoffBase d i j with
  | some b => dPut (dPut (dPut d 63 0 b) 87 64 (dRows d - i)) 111 88 (dCols d - j)
  | none => dPut (dPut d 87 64 0) 111 88 0

def execTdoff (d a : BitVec 4) (h : BitVec 6) (s : State) : Out :=
  .next (notDawn s fun s =>
    let x := tdoff (s.w.tdGet a.toNat) ((sval s h).toNat % 2 ^ 32) ((sval s h).toNat / 2 ^ 32)
    finish { s with w := s.w.tdSet d.toNat x })

/-! ## The tile copies (05 R90) -/

/-- A tile copy: descriptors source, destination and, for a quantising one, row scales into the annex entry. -/
def tileCopy (opc : Nat) (ds : List Desc) (e : BitVec 2) (s : State) : State :=
  engineWork .cp s fun s => openChain 0 s fun ch s =>
    if chainFull ch then parkHere s
    else afterFence 4 s fun s =>
      let at_ := annexVA ch ch.tail
      let ptrs := (List.range 7).map (fun i => if i < ds.length then w64 (at_ + 32 * i) else 0)
      finish (pushRec .cp 0 (w64 (opc + 256 * e.toNat) :: ptrs) ds false false s)

def execTcpy (d a : BitVec 4) (e : BitVec 2) (s : State) : Out :=
  let x := s.w.tdGet a.toNat
  let y := s.w.tdGet d.toNat
  .next (tileCopy (if dLayout y = 2 ∧ dLayout x ≠ 2 then 0x02 else 0x01) [x, y] e s)

def execTcpyq (d a b : BitVec 4) (e : BitVec 2) (s : State) : Out :=
  .next (tileCopy 0x03 [s.w.tdGet a.toNat, s.w.tdGet d.toNat, s.w.tdGet b.toNat] e s)

def execTcpyx (d a : BitVec 4) (e : BitVec 2) (s : State) : Out :=
  let x := s.w.tdGet a.toNat
  .next (tileCopy (if dLayout x = 4 then 0x04 else 0x02) [x, s.w.tdGet d.toNat] e s)

end Sys2Proof.Machine
end

