-- ==== Sys2Proof/Machine/Engine.lean ====
section
/-! DEFINITION. The copy engines (05 R76, R80 to R84, R91 to R102): starting a record, judging it, its debit, its data,
its completion word. A record starts in one step; its data move in later ones, at times the agenda chooses, as far as its
debit is paid; a checking pass is a step of its own. -/

namespace Sys2Proof.Machine

open Sys2Proof

/-- A failure before its cause is formed: sub-code, DETAIL, address. -/
abbrev Err := Nat × Nat × Nat

/-- What a record is judged from: its own address, the chain, its dwords; once started, the descriptors that it holds and
what its checking pass read, and how many bytes it has released. -/
structure RecEnv where
  addr : Nat
  ch   : Chain
  dws  : List W64
  held : Option (List Desc) := none
  els  : Option (List (List Nat)) := none
  moved : Nat := 0
  deriving DecidableEq, Repr

/-! ## Descriptors of a record (05 R83, R88, R91) -/

/-- The descriptor at an address; an image in the chain's annex is the hardware's own. A poisoned granule of it is read as its
bytes stand (log 123, DESIGN CHOICE). -/
def recDesc (s : State) (g : Agent) (ch : Chain) (va : W64) : Except Err Desc :=
  let a := va.toNat
  let own := decide (ch.annex.toNat ≤ a) && decide (a < ch.annex.toNat + 128 * 63 * ch.nseg)
  match rangeFault s { g with priv := g.priv || own } false .read a 32 with
  | some f => .error (4, f.1, f.2)
  | none => .ok (BitVec.ofNat 256 (agentNat s g a 32))

/-- The descriptors of a record's dwords: all read, then each judged (R91); those that it holds (R88). -/
def recDescs (s : State) (g : Agent) (e : RecEnv) (vas : List W64) : Except Err (List Desc) :=
  match e.held with
  | some ds => .ok ds
  | none => do
    let ds ← vas.mapM (recDesc s g e.ch)
    match ((vas.zip ds).find? (fun p => dMalformed p.2)) with
    | some p => .error (3, 1, p.1.toNat)
    | none => .ok ds

def sameShape (a b : Desc) : Bool := dRows a == dRows b && dCols a == dCols b

/-- Tiles that can be translated: the source's ranges to read, the destination's to write (R100). -/
def tileFault (s : State) (g : Agent) (acc : Acc) (d : Desc) : Option (Nat × Nat) :=
  rangesFault s g (dSpace d) acc (tileRanges d)

def faultErr : Option (Nat × Nat) → Except Err Unit
  | some f => .error (4, f.1, f.2)
  | none => .ok ()

/-- A check with its failure. -/
def need (ok : Bool) (e : Err) : Except Err Unit := if ok then .ok () else .error e

/-- What a record needs before it starts: its descriptors, bytes read and bytes written. -/
abbrev Judged := List Desc × Nat × Nat

def RecEnv.dw (e : RecEnv) (i : Nat) : W64 := (e.dws[i]?).getD 0

/-- Dwords that must be zero (R83). -/
def RecEnv.zeros (e : RecEnv) (l : List Nat) : Bool := l.all (fun i => e.dw i == 0)

/-- Dword 0's reserved bits, the zero dwords and the alignment of descriptor addresses (R83). -/
def recordOk (e : RecEnv) (descs zs : List Nat) : Except Err Unit :=
  need (decide ((e.dw 0).toNat < 4096) && e.zeros zs && descs.all (fun i => (e.dw i).toNat % 32 == 0)) (3, 0, e.addr)

/-- The scale region that a raw expansion of a layout 3 tile also writes (R92). -/
def rawScale (src dst : Desc) : List (Nat × Nat) :=
  if dLayout src = 3 ∧ dType src = dType dst then [(dBase dst + dScale dst, scaleLen (dRows src) (dCols src))] else []

/-! ## Judgements by opcode -/

/-- 0x01. -/
def judgeCopy (s : State) (g : Agent) (e : RecEnv) : Except Err Judged := do
  recordOk e [1, 2] [3, 4, 5, 6, 7]
  let ds ← recDescs s g e [e.dw 1, e.dw 2]
  let x := ds.headD 0
  let y := (ds[1]?).getD 0
  need (decide (dLayout x ≤ 2) && decide (dLayout y ≤ 2) && dType x == dType y) (3, 6, e.addr)
  need (sameShape x y) (3, 1, (e.dw 1).toNat)
  faultErr (tileFault s g .read x)
  faultErr (tileFault s g .write y)
  .ok (ds, rangesLen (tileRanges x), rangesLen (tileRanges y))

/-- 0x02. -/
def judgeExpand (s : State) (g : Agent) (e : RecEnv) : Except Err Judged := do
  recordOk e [1, 2] [3, 4, 5, 6, 7]
  let ds ← recDescs s g e [e.dw 1, e.dw 2]
  let x := ds.headD 0
  let y := (ds[1]?).getD 0
  need ((dLayout x == 0 || dLayout x == 1 || dLayout x == 3) && dLayout y == 2
    && (dType x == dType y || (dLayout x == 3 && decide (dType y ≤ 2)))) (3, 6, e.addr)
  need (sameShape x y) (3, 1, (e.dw 1).toNat)
  faultErr (tileFault s g .read x)
  faultErr (tileFault s g .write y)
  faultErr (rangesFault s g (dSpace y) .write (rawScale x y))
  let n := rangesLen (tileRanges x)
  .ok (ds, if dLayout x = 3 then 2 * n else n, rangesLen (tileRanges y ++ rawScale x y))

/-- 0x03. -/
def judgeQuant (s : State) (g : Agent) (e : RecEnv) : Except Err Judged := do
  recordOk e [1, 2, 3] [4, 5, 6, 7]
  let ds ← recDescs s g e [e.dw 1, e.dw 2, e.dw 3]
  let x := ds.headD 0
  let y := (ds[1]?).getD 0
  let r := (ds[2]?).getD 0
  need (decide (dLayout x ≤ 1) && dLayout y == 3 && decide (dType x ≤ 2) && decide (3 ≤ dType y) && decide (dType y ≤ 6))
    (3, 6, e.addr)
  need (sameShape x y) (3, 1, (e.dw 1).toNat)
  need (decide (dLayout r ≤ 1) && dType r == 1
    && ((dRows r == dRows x && dCols r == 1) || (dRows r == 1 && dCols r == dRows x))) (3, 1, (e.dw 3).toNat)
  faultErr (tileFault s g .read x)
  faultErr (tileFault s g .read r)
  faultErr (tileFault s g .write y)
  .ok (ds, rangesLen (tileRanges x ++ tileRanges r), rangesLen (tileRanges y))

/-- 0x04. -/
def judgeUnpack (s : State) (g : Agent) (e : RecEnv) : Except Err Judged := do
  recordOk e [1, 2] [3, 4, 5, 6, 7]
  let ds ← recDescs s g e [e.dw 1, e.dw 2]
  let x := ds.headD 0
  let y := (ds[1]?).getD 0
  need (dLayout x == 4 && decide (dLayout y ≤ 2) && dType x == dType y) (3, 6, e.addr)
  need (sameShape x y) (3, 1, (e.dw 1).toNat)
  faultErr (tileFault s g .read x)
  faultErr (tileFault s g .write y)
  .ok (ds, 2 * rangesLen (tileRanges x), rangesLen (tileRanges y))

/-- 0x06. -/
def judgeFill (s : State) (g : Agent) (e : RecEnv) : Except Err Judged := do
  recordOk e [1] [3, 4, 5, 6, 7]
  let ds ← recDescs s g e [e.dw 1]
  let y := ds.headD 0
  need (decide (dLayout y ≤ 2)) (3, 6, e.addr)
  faultErr (tileFault s g .write y)
  .ok (ds, 0, rangesLen (tileRanges y))

/-- The shape word (R98): element size, index bytes, count. -/
def shapeS (e : RecEnv) : Nat := 2 ^ bits (e.dw 3).toNat 39 32
def shapeI (e : RecEnv) : Nat := if bit (e.dw 3).toNat 40 then 8 else 4
def shapeN (e : RecEnv) : Nat := bits (e.dw 3).toNat 31 0

/-- Index k of the list, and whether its granule is poisoned: as the checking pass read them, once it has. -/
def listIndex (s : State) (g : Agent) (e : RecEnv) (k : Nat) : Nat := match e.els with
  | some us => ((us.headD [])[k]?).getD 0
  | none => agentNat s g ((e.dw 2).toNat + k * shapeI e) (shapeI e)
def listPoi (s : State) (g : Agent) (e : RecEnv) (k : Nat) : Bool := match e.els with
  | some us => (((us[1]?).getD [])[k]?).getD 0 == 1
  | none => agentPoi s g false ((e.dw 2).toNat + k * shapeI e)

/-- The indexed and the dense place of element k; toIndexed: a scatter. -/
def indexedAt (s : State) (g : Agent) (e : RecEnv) (scatter : Bool) (k : Nat) : Nat :=
  (e.dw (if scatter then 4 else 1)).toNat + listIndex s g e k * shapeS e
def denseAt (e : RecEnv) (scatter : Bool) (k : Nat) : Nat := (e.dw (if scatter then 1 else 4)).toNat + k * shapeS e

/-- 0x07 and 0x08: the indices are judged once the list has been read, its pieces paid (R84, R98). -/
def judgeGather (scatter : Bool) (s : State) (g : Agent) (e : RecEnv) : Except Err Judged := do
  recordOk e [] [6, 7]
  let n := shapeN e
  let sz := shapeS e
  need ((e.dw 5).toNat / 2 == 0 && bits (e.dw 3).toNat 63 41 == 0 && decide (bits (e.dw 3).toNat 39 32 ≤ 12)
    && decide (1 ≤ n) && decide (n ≤ 2 ^ 24) && (e.dw 1).toNat % min sz 128 == 0 && (e.dw 4).toNat % min sz 128 == 0)
    (3, 0, e.addr)
  faultErr (rangeFault s g false .read (e.dw 2).toNat (n * shapeI e))
  let space := (e.dw 5).getLsbD 0
  let ks := List.range n
  faultErr (rangeFault s g space (if scatter then .read else .write) (denseAt e scatter 0) (n * sz))
  if e.els.isNone then .ok ([], n * shapeI e + n * sz, n * sz)
  else match ks.find? (fun k => decide (2 ^ 57 ≤ listIndex s g e k * sz)) with
  | some k => .error (4, 0, indexedAt s g e scatter k % 2 ^ 64)
  | none =>
    faultErr (rangesFault s g false (if scatter then .write else .read) (ks.map (fun k => (indexedAt s g e scatter k, sz))))
    .ok ([], n * shapeI e + n * sz, n * sz)

/-- What the pass over the list of a gather or a scatter reads: the indices and their poison. -/
def readList (s : State) (g : Agent) (e : RecEnv) : List (List Nat) :=
  [(List.range (shapeN e)).map (listIndex s g e), (List.range (shapeN e)).map (fun k => bitOf (listPoi s g e k))]

def checkGather (scatter : Bool) (s : State) (g : Agent) (e : RecEnv) (_ : List Desc) : Option (Except Err (List (List Nat))) :=
  let us := readList s g e
  some ((judgeGather scatter s g { e with els := some us }).map (fun _ => us))

/-- 0x05 (R99). -/
def judgeMigrate (s : State) (g : Agent) (e : RecEnv) : Except Err Judged := do
  recordOk e [] [3, 4, 5, 6, 7]
  need e.ch.priv (3, 8, e.addr)
  need ((e.dw 2).toNat / 2 == 0 && (e.dw 1).toNat % 2 ^ 18 == 0) (3, 0, e.addr)
  match ctxWalk s (g.ctx s) (e.dw 1).toNat with
  | .fail why _ => .error (4, why, (e.dw 1).toNat)
  | .leaf l =>
    need (leafSZ l == 0) (3, 0, e.addr)
    .ok ([], if bitOf (leafTier l) = (e.dw 2).toNat then 0 else 2 ^ 18, if bitOf (leafTier l) = (e.dw 2).toNat then 0 else 2 ^ 18)

/-! ## Data by opcode: the state after it, the WCT of its writes, its failure -/

abbrev Done := State × Nat × Option Err

/-- Destination bytes in their order; none: a byte that is not released, since the second pass read something else (R96). -/
abbrev Release := List (Option Out8)

/-- Bits moved from one layout to another, poison with them (R91, R92). -/
def movedTile (s : State) (g : Agent) (x y : Desc) : Release :=
  (tileBytes y (fun i j => (elemGet (agentByte s g (dSpace x)) x i j, elemPoi (agentPoi s g (dSpace x)) x i j))).map some

def outCopy (s : State) (g : Agent) (_ : RecEnv) (ds : List Desc) : Release := movedTile s g (ds.headD 0) ((ds[1]?).getD 0)

/-- The checking pass of a layout 3 source (04 R64, R66, R69; 05 R94, R96). A bad scale word decides before a bad row scale
(log 125, DESIGN CHOICE). -/
def quantFault (s : State) (g : Agent) (x : Desc) : Option Err :=
  let rd := agentByte s g false
  if rangesPoi s g false (tileRanges x) then some (5, 0, dBase x)
  else if trailerBad rd x then some (1, 0, dBase x + dTrail x)
  else if crc32c (quantCover rd x) ≠ rdNat rd (dBase x + dTrail x + 28) 4 then some (2, 0, dBase x + dTrail x)
  else if scaleBad rd x then some (3, 2, dBase x + dScale x)
  else if rowScaleBad rd x then some (3, 5, dBase x + dScale x)
  else none

/-- The floating type of a dequantised element. -/
def outFmt (ty : Nat) : FFmt := (typeFloat ty).getD fmtF32

/-- How many rows or chunks agree with what the checking pass read, up to the first that does not. -/
def agreeing : List (List Nat) → List (List Nat) → Nat
  | a :: l, b :: r => if a = b then agreeing l r + 1 else 0
  | _, _ => 0

/-- The bytes of a tile with those of some elements only; a nibble beside one of them keeps what it holds. -/
def partTile (s : State) (g : Agent) (y : Desc) (ok : Nat → Nat → Bool) (f : Nat → Nat → Nat) : Release :=
  (tileBytes y (fun i j => if ok i j then (f i j, true) else (elemGet (agentByte s g (dSpace y)) y i j, false))).map
    (fun o => if o.2.2 then some (o.1, o.2.1, false) else none)

/-- Bytes copied from one place to another. -/
def copyBytes (rd : Nat → Byte) (src dst n : Nat) : List Out8 := (List.range n).map (fun k => (dst + k, rd (src + k), false))

/-- The checking pass of 0x02 (R94, R96): what it read, row by row. -/
def checkExpand (s : State) (g : Agent) (_ : RecEnv) (ds : List Desc) : Option (Except Err (List (List Nat))) :=
  let x := ds.headD 0
  if dLayout x ≠ 3 then none
  else some (match quantFault s g x with
    | some f => .error f
    | none => .ok ((List.range (dRows x)).map (quantRowRead (agentByte s g false) x)))

/-- The rows of a layout 3 source that read as they did in the checking pass, up to the first that differs (R96). -/
def sameRows (s : State) (g : Agent) (e : RecEnv) (x : Desc) : Nat :=
  agreeing (e.els.getD []) (((List.range (dRows x)).takeWhile (fun i => !rangesPoi s g false (quantRowRanges x i))).map
    (quantRowRead (agentByte s g false) x))

/-- A byte of a scale region is row i's. -/
def scaleOfRow (x : Desc) (i off : Nat) : Bool :=
  let o := swOff (dRows x) (dCols x) i 0
  (decide (rsOff i ≤ off) && decide (off < rsOff i + 2)) || (decide (o ≤ off) && decide (off < o + 8 * scaleWords (dCols x)))

/-- A layout 3 source is read again, and rows are released up to the first that differs (R96). -/
def outExpand (s : State) (g : Agent) (e : RecEnv) (ds : List Desc) : Release :=
  let x := ds.headD 0
  let y := (ds[1]?).getD 0
  let rd := agentByte s g false
  if dLayout x ≠ 3 then movedTile s g x y
  else
    let n := sameRows s g e x
    let val := fun i j => if dType x = dType y then elemGet rd x i j else dequant rd x (outFmt (dType y)) i j
    (if n = dRows x then (tileBytes y (fun i j => (val i j, false))).map some else partTile s g y (fun i _ => decide (i < n)) val)
    ++ (rawScale x y).flatMap (fun p => (copyBytes rd (dBase x + dScale x) p.1 p.2).map (fun o =>
      if n = dRows x ∨ (List.range n).any (fun i => scaleOfRow x i (o.1 - p.1)) then some o else none))

/-- What follows the last byte of a record: nothing. -/
def doneNone (_ : Agent) (_ : RecEnv) (_ : List Desc) (_ after : State) : Done := (after, 0, none)

/-- A record whose source changed between its passes (R96). -/
def doneExpand (g : Agent) (e : RecEnv) (ds : List Desc) (before after : State) : Done :=
  let x := ds.headD 0
  (after, 0, if dLayout x ≠ 3 ∨ sameRows before g e x = dRows x then none else some (5, 0, dBase x))

/-- A trailer with MAGIC 0 (R93); nothing says what its other fields hold. -/
def deadTrailer (g : Agent) (y : Desc) (s : State) : State × Nat :=
  agentPut g false (outBytes (dBase y + dTrail y)
    ([0, 0, 0, 0] ++ (List.range 28).map (fun i => Config.freeByte s.tick (dBase y + dTrail y + 4 + i)))) s

/-- Row scale i of a row-scale descriptor. -/
def scaleOf (rd : Nat → Byte) (r : Desc) (i : Nat) : Nat := if dCols r = 1 then elemGet rd r i 0 else elemGet rd r 0 i

/-- The row scales of 0x03, read before anything is written (R93). -/
def checkQuant (s : State) (g : Agent) (_ : RecEnv) (ds : List Desc) : Option (Except Err (List (List Nat))) :=
  let x := ds.headD 0
  let r := (ds[2]?).getD 0
  some (if rangesPoi s g (dSpace r) (tileRanges r) then .error (5, 0, dBase r)
    else match (List.range (dRows x)).find? (fun i => (rowScale (scaleOf (agentByte s g (dSpace r)) r i)).isNone) with
      | some i => .error (3, 5, elemBit r (if dCols r = 1 then i else 0) (if dCols r = 1 then 0 else i) / 8)
      | none => .ok [])

/-- Poison among the row scales leaves a dead trailer (R93). -/
def spoilQuant (g : Agent) (ds : List Desc) (f : Err) (s : State) : State × Nat :=
  if f.1 = 5 then deadTrailer g ((ds[1]?).getD 0) s else (s, 0)

/-- The quantised tile as its sources stand: bytes, saturations and MAXABS (04 R67). -/
def quantised (s : State) (g : Agent) (ds : List Desc) :=
  let x := ds.headD 0
  let r := (ds[2]?).getD 0
  quantTile ((ds[1]?).getD 0) (scaleOf (agentByte s g (dSpace r)) r)
    (fun i j => typeValue (dType x) (elemGet (agentByte s g (dSpace x)) x i j))

/-- Rows of the source from the first on that hold no poison. -/
def cleanRows (s : State) (g : Agent) (x : Desc) : Nat :=
  ((List.range (dRows x)).takeWhile (fun i => (List.range (dCols x)).all (fun j => !elemPoi (agentPoi s g (dSpace x)) x i j))).length

/-- The payload up to the first poisoned row of the source, or all of it and the scale region. -/
def outQuant (s : State) (g : Agent) (_ : RecEnv) (ds : List Desc) : Release :=
  let y := (ds[1]?).getD 0
  let n := cleanRows s g (ds.headD 0)
  let out := (quantised s g ds).1
  if n = dRows y then out.map some
  else
    let k := n * lineLen (typeWidth (dType y)) (dCols y)
    (out.take k).map some ++ List.replicate (out.length - k) none

/-- Payload and scale bytes that a quantising record had begun and not released: old or new, nobody says which. -/
def begunBytes (s : State) (g : Agent) (e : RecEnv) (ds : List Desc) : List Out8 :=
  ((quantised s g ds).1.drop e.moved).map (fun o => (o.1, Config.freeByte s.tick o.1, false))

/-- The trailer comes last; a poisoned source leaves a dead one (R93). -/
def doneQuant (g : Agent) (e : RecEnv) (ds : List Desc) (before after : State) : Done :=
  let x := ds.headD 0
  let y := (ds[1]?).getD 0
  if cleanRows before g x ≠ dRows x then
    let b := agentPut g false (begunBytes before g e ds) after
    let z := deadTrailer g y b.1
    (z.1, max b.2 z.2, some (5, 0, dBase x))
  else
    let q := quantised before g ds
    let crc := crc32c (quantCover (agentByte after g false) y)
    let t := trailerBytes 0x51544B56 q.2.2 q.2.1 ((dRows y * dCols y) % 2 ^ 32) (dType y) 3 (dRows y) crc
    let z := agentPut g false (outBytes (dBase y + dTrail y) t) after
    (z.1, z.2, none)

/-- The checking pass of a layout 4 source (R96): its elements, chunk by chunk. -/
def packSource (s : State) (g : Agent) (x : Desc) : Except Err (List (List Nat)) :=
  let rd := agentByte s g false
  if rangesPoi s g false (tileRanges x) then .error (5, 0, dBase x)
  else if trailerBad rd x then .error (1, 0, dBase x + dTrail x)
  else if crc32c (packCover rd x (dTrail x)) ≠ rdNat rd (dBase x + dTrail x + 28) 4 then .error (2, 0, dBase x + dTrail x)
  else match unpackTile rd x with
    | .ok r => .ok r
    | .error .header => .error (3, 3, dBase x)
    | .error .group => .error (3, 4, dBase x)
    | .error .sum => .error (2, 0, dBase x)

def checkUnpack (s : State) (g : Agent) (_ : RecEnv) (ds : List Desc) : Option (Except Err (List (List Nat))) :=
  some (packSource s g (ds.headD 0))

/-- The chunks of a layout 4 source that read as they did in the checking pass, up to the first that differs (R96). -/
def sameChunks (s : State) (g : Agent) (e : RecEnv) (x : Desc) : Nat :=
  agreeing (e.els.getD []) (unpackPrefix (agentByte s g false) (fun a k => rangesPoi s g false [(a, k)]) x)

/-- The source is read again, and chunks are released up to the first that differs (R96). -/
def outUnpack (s : State) (g : Agent) (e : RecEnv) (ds : List Desc) : Release :=
  let y := (ds[1]?).getD 0
  let us := e.els.getD []
  let n := sameChunks s g e (ds.headD 0)
  let els := (us.take n).flatten
  let val := fun i j => (els[i * dCols y + j]?).getD 0
  if n = us.length then (tileBytes y (fun i j => (val i j, false))).map some
  else partTile s g y (fun i j => decide (i * dCols y + j < els.length)) val

def doneUnpack (g : Agent) (e : RecEnv) (ds : List Desc) (before after : State) : Done :=
  let x := ds.headD 0
  (after, 0, if sameChunks before g e x = (e.els.getD []).length then none else some (5, 0, dBase x))

def outFill (_ : State) (_ : Agent) (e : RecEnv) (ds : List Desc) : Release :=
  let y := ds.headD 0
  let x := (e.dw 2).toNat % 2 ^ typeWidth (dType y)
  (tileBytes y (fun _ _ => (x, false))).map some

/-- Gather and scatter: elements in ascending order, poison with their bytes and from the index. -/
def outGather (scatter : Bool) (s : State) (g : Agent) (e : RecEnv) (_ : List Desc) : Release :=
  let srcSpace := scatter && (e.dw 5).getLsbD 0
  (List.range (shapeN e)).flatMap (fun k =>
    let src := if scatter then denseAt e scatter k else indexedAt s g e scatter k
    let dst := if scatter then indexedAt s g e scatter k else denseAt e scatter k
    let bad := listPoi s g e k
    (List.range (shapeS e)).map (fun b =>
      some (dst + b, agentByte s g srcSpace (src + b), bad || agentPoi s g srcSpace (src + b))))

/-- The space and the ranges of an opcode's destination. -/
def destOf (s : State) (g : Agent) (e : RecEnv) (ds : List Desc) : Bool × List (Nat × Nat) :=
  let opc := (e.dw 0).toNat % 256
  if opc = 0x07 then ((e.dw 5).getLsbD 0, [(denseAt e false 0, shapeN e * shapeS e)])
  else if opc = 0x08 then (false, (List.range (shapeN e)).map (fun k => (indexedAt s g e true k, shapeS e)))
  else
    let y := if opc = 0x06 then ds.headD 0 else (ds[1]?).getD 0
    (dSpace y, tileRanges y ++ (if opc = 0x02 then rawScale (ds.headD 0) y else []))

/-- The global ranges that a record reads and writes (R100). -/
def recRanges (s : State) (g : Agent) (e : RecEnv) (ds : List Desc) : List (Nat × Nat) :=
  let opc := (e.dw 0).toNat % 256
  let d := destOf s g e ds
  (if opc = 0x07 ∨ opc = 0x08 then
    ((e.dw 2).toNat, shapeN e * shapeI e) :: ((List.range (shapeN e)).map (fun k => (indexedAt s g e (opc == 0x08) k, shapeS e))
      ++ (if opc = 0x08 ∧ (e.dw 5).getLsbD 0 = false then [(denseAt e true 0, shapeN e * shapeS e)] else []))
  else ds.flatMap (fun d => if dSpace d then [] else tileRanges d))
  ++ (if d.1 then [] else d.2)

/-- The leaves through which a record translates from its first byte on, by VA div 2^18. -/
def recLeaves (s : State) (g : Agent) (e : RecEnv) (ds : List Desc) : List (Nat × W64) :=
  ((recRanges s g e ds).flatMap (fun r => (rangePages r.1 r.2).map (· / 2 ^ 18))).eraseDups.filterMap (fun p =>
    match ctxWalk s (g.ctx s) (p * 2 ^ 18) with
    | .leaf l => some (p, l)
    | .fail _ _ => none)

/-- A page of the destination is under migration. -/
def writesTo (s : State) (g : Agent) (e : RecEnv) (ds : List Desc) : Bool :=
  let d := destOf s g e ds
  rangeHeld s g d.1 d.2

/-! ## Starting, paying, performing -/

/-- Records of an engine in flight (R81): started and not ended; one that has ended and waits for its completion word is not
counted (log 124, DESIGN CHOICE). -/
def inFlight (s : State) (eng : Nat) : Nat :=
  (s.liveCtxs.flatMap (fun c => c.chains.flatMap (fun p => if p.2.engine = eng then p.2.recs else []))).countP
    (fun r => r.phase == .paying || r.phase == .waiting)

/-- The agent of a record. -/
def recAgent (asid : Nat) (ch : Chain) (r : Rec) : Agent :=
  { asid := asid, team := r.team, priv := r.priv, leaves := r.leaves
    by_ := { kind := 1, eng := ch.engine, seq := r.seq, warp := r.warp, asid := asid } }

/-- Change a record of a chain. -/
def modRec (asid n seq : Nat) (f : Rec → Rec) (s : State) : State :=
  s.modCtx asid (fun c => c.modChain n (fun ch => { ch with recs := modFirst (fun r => r.seq == seq) f ch.recs }))

/-- A record ends with a result. -/
def endRec (asid n : Nat) (ch : Chain) (r : Rec) (opc wct : Nat) (e : Option Err) (s : State) : State :=
  modRec asid n r.seq (fun r => { r with
    phase := .done, leaves := [], wct := max r.wct wct
    fail := e.map (fun x => engineFail ch.engine n opc r.seq x.1 x.2.1 x.2.2) }) s

/-- The environment of a record. -/
def recEnv (s : State) (c : Ctx) (ch : Chain) (r : Rec) : RecEnv :=
  { addr := (posVA s c ch r.idx).getD 0, ch := ch, dws := r.dws }

/-- The dwords of a record as they stand in memory, poisoned or not (log 123, DESIGN CHOICE). -/
def readRec (s : State) (c : Ctx) (ch : Chain) (r : Rec) : List W64 :=
  match (posVA s c ch r.idx).bind (ctxPA s c) with
  | some pa => (List.range 8).map (fun i => w64 (memNat s.mem (pa + 8 * i) 8))
  | none => List.replicate 8 0

/-- An opcode's judgement; its checking pass, where it has one, with the bytes that this reads and what a failure of it
writes (R93, R96); its destination's bytes in order; what follows the last of them. -/
structure OpWork where
  mine  : Nat → Bool
  judge : State → Agent → RecEnv → Except Err Judged
  first : RecEnv → List Desc → Nat := fun _ _ => 0
  check : State → Agent → RecEnv → List Desc → Option (Except Err (List (List Nat))) := fun _ _ _ _ => none
  spoil : Agent → List Desc → Err → State → State × Nat := fun _ _ _ s => (s, 0)
  out   : State → Agent → RecEnv → List Desc → Release := fun _ _ _ _ => []
  done  : Agent → RecEnv → List Desc → State → State → Done := doneNone

/-- The environment of a record in flight. -/
def heldEnv (s : State) (c : Ctx) (ch : Chain) (r : Rec) : RecEnv :=
  { recEnv s c ch r with held := some r.ds, els := r.els, moved := r.moved }

/-- Release the bytes of the destination from those released so far up to the n-th. -/
def OpWork.put (w : OpWork) (g : Agent) (e : RecEnv) (ds : List Desc) (n : Nat) (s : State) : State × Nat :=
  agentPut g (destOf s g e ds).1 ((((w.out s g e ds).take n).drop e.moved).filterMap id) s

/-- Release the rest, and what follows. -/
def OpWork.run (w : OpWork) (g : Agent) (e : RecEnv) (ds : List Desc) (s : State) : Done :=
  let r := w.put g e ds (w.out s g e ds).length s
  let d := w.done g e ds s r.1
  (d.1, max r.2 d.2.1, d.2.2)

def pieceSize : Nat := 65536
def pieceCount (n : Nat) : Nat := ceilDiv n pieceSize

/-- Bytes that may have been released with k pieces paid: a piece is written after its debit and those of the pieces read
for it (R84). -/
def mayRelease (plan : Nat × Nat × Nat) (k : Nat) : Nat :=
  ((List.range plan.2.2).filter (fun j => decide (plan.1 + ceilDiv ((j + 1) * (plan.2.1 - plan.1)) plan.2.2 + (j + 1) ≤ k))).length
    * pieceSize

/-- What a record owes before its checking pass may end. -/
def firstCost (piece : Nat) (r : Rec) : Nat := r.cost - piece * (r.plan.2.1 + r.plan.2.2 - r.plan.1)

/-- The checking pass, its pieces paid. -/
def checkRec (w : OpWork) (asid n : Nat) (ch : Chain) (r : Rec) (g : Agent) (e : RecEnv) (s : State) : State :=
  let opc := (r.dws.headD 0).toNat % 256
  match w.judge s g e with
  | .error f => endRec asid n ch r opc 0 (some f) s
  | .ok _ => match w.check s g e r.ds with
    | some (.error f) =>
      let d := w.spoil g r.ds f s
      endRec asid n ch r opc d.2 (some f) d.1
    | some (.ok us) => modRec asid n r.seq (fun r => { r with els := some us }) s
    | none => s

/-- The data: what is paid for is released, and with everything paid the record is over. The pages are translated before
the first byte, and the record holds those translations until it ends (R100; 03 R46). A byte that must not be released ends
it (R93, R96). -/
def moveRec (w : OpWork) (asid n : Nat) (ch : Chain) (r : Rec) (g : Agent) (e : RecEnv) (left piece : Nat) (s : State) : State :=
  let opc := (r.dws.headD 0).toNat % 256
  let m := mayRelease r.plan (r.plan.2.1 + r.plan.2.2 - left / piece)
  if left ≠ 0 ∧ m ≤ r.moved then s
  else match (if r.moved = 0 then (w.judge s g e).map (fun _ => ()) else .ok ()) with
    | .error f => endRec asid n ch r opc 0 (some f) s
    | .ok () =>
      if writesTo s g e r.ds then s
      else if left ≠ 0 then
        let d := w.put g e r.ds m s
        if (((w.out s g e r.ds).take m).drop r.moved).any (·.isNone) then
          let x := w.done g e r.ds s d.1
          endRec asid n ch r opc (max d.2 x.2.1) x.2.2 x.1
        else modRec asid n r.seq (fun r => { r with
          moved := m, leaves := if r.moved = 0 then recLeaves s g e r.ds else r.leaves, wct := max r.wct d.2 }) d.1
      else
        let d := w.run g e r.ds s
        endRec asid n ch r opc d.2.1 d.2.2 d.1

/-- Pay what LEVEL covers: of the checking pass first, where the opcode has one, then of the rest; each as far as it is
paid. -/
def payAndRun (w : OpWork) (asid n : Nat) (c : Ctx) (ch : Chain) (r : Rec) (s : State) : State :=
  let piece := 4 * 2 ^ bits (r.dws.headD 0).toNat 9 8
  let g := recAgent asid ch r
  let e := heldEnv s c ch r
  let checking := r.els.isNone && (w.check s g e r.ds).isSome
  let due := if checking then firstCost piece r else r.cost
  let p := payPieces asid piece due s
  let s1 := modRec asid n r.seq (fun r => { r with cost := r.cost - due + p.1 }) p.2
  if checking then (if p.1 = 0 then checkRec w asid n ch r g e s1 else s1)
  else moveRec w asid n ch r g e p.1 piece s1

/-! ### Starting -/

/-- The chains of an engine that could start their next record now, as 64 × ASID + slot (R81, R82). -/
def startable (s : State) (eng : Nat) : List Nat :=
  s.liveCtxs.flatMap (fun c => c.chains.filterMap (fun p =>
    if p.2.engine ≠ eng then none
    else match p.2.recs.find? (fun r => r.phase == .queued) with
      | none => none
      | some r => if bit ((readRec s c p.2 r).headD 0).toNat 10 && p.2.head != r.idx then none else some (64 * c.asid + p.1)))

/-- The least of some numbers. -/
def leastOf (l : List Nat) : Option Nat := l.foldl (fun b x => match b with
  | none => some x
  | some y => some (min x y)) none

/-- The chain whose turn it is at an engine: round robin, one record start per chain per turn (R81). -/
def engineTurn (s : State) (eng : Nat) : Option Nat :=
  let l := startable s eng
  (leastOf (l.filter (fun x => decide (tabGet 0 eng s.dev.engTurns < x)))).orElse (fun _ => leastOf l)

/-- The engine has started a record of a chain. -/
def tookTurn (eng key : Nat) (s : State) : State :=
  { s with dev := { s.dev with engTurns := tabSet 0 eng key s.dev.engTurns } }

/-- Start the next queued record, if it has one of some opcodes: in order, in its chain's turn, at most four in flight for
the engine, ORD (R81, R82); k does what follows once it is judged. -/
def startRec (w : OpWork) (asid n : Nat) (c : Ctx) (ch : Chain) (r : Rec) (k : Rec → State → State) (s : State) : State :=
  let dws := readRec s c ch r
  let d0 := (dws.headD 0).toNat
  let r1 := { r with dws := dws }
  if !w.mine (d0 % 256) ∨ inFlight s ch.engine ≥ 4 ∨ engineTurn s ch.engine ≠ some (64 * asid + n) then s
  else
    let s1 := tookTurn ch.engine (64 * asid + n) (modRec asid n r.seq (fun r => { r with dws := dws }) s)
    if bit d0 10 ∧ ch.failed then endRec asid n ch r1 (d0 % 256) 0 (some (9, 0, (recEnv s c ch r1).addr)) s1
    else match w.judge s1 (recAgent asid ch r1) (recEnv s c ch r1) with
      | .error f => endRec asid n ch r1 (d0 % 256) 0 (some f) s1
      | .ok (ds, rd, wr) =>
        let r2 := { r1 with
          cost := copyCost (bits d0 9 8) rd wr, plan := (pieceCount (w.first (recEnv s c ch r1) ds), pieceCount rd, pieceCount wr), ds := ds, els := none
          moved := 0, phase := .paying }
        k r2 (modRec asid n r.seq (fun _ => r2) s1)

/-- One step of an engine for the record of a number: it starts, if it is the next of its chain, or goes on. Records in
flight go on in any order (R81). -/
def engineStep (mine : Nat → Bool) (start go : Ctx → Chain → Rec → State → State) (asid n seq : Nat) (s : State) : State :=
  match s.findCtx asid with
  | none => s
  | some c => match c.chain n with
    | none => s
    | some ch => match ch.recs.find? (fun r => r.seq == seq) with
      | none => s
      | some r =>
        if r.phase = .queued then (if ch.recs.find? (fun r => r.phase == .queued) = some r then start c ch r s else s)
        else if r.phase ≠ .done ∧ mine ((r.dws.headD 0).toNat % 256) then go c ch r s
        else s

/-- A record of an opcode that moves data. -/
def dataStep (w : OpWork) (asid n seq : Nat) (s : State) : State :=
  engineStep w.mine (fun c ch r => startRec w asid n c ch r (fun _ s => s)) (payAndRun w asid n) asid n seq s

/-- Opcodes of R83's table. -/
def knownOpc : List Nat := [0x01, 0x02, 0x03, 0x04, 0x05, 0x06, 0x07, 0x08, 0x10, 0x20]

/-- COPY also starts a record whose opcode the table does not hold, which fails (R83). -/
def copyWork : OpWork :=
  { mine := fun o => o == 0x01 || !knownOpc.contains o
    judge := fun s g e => if (e.dw 0).toNat % 256 = 0x01 then judgeCopy s g e else .error (3, 0, e.addr)
    out := outCopy }
def expandWork : OpWork :=
  { mine := (· == 0x02), judge := judgeExpand, check := checkExpand, out := outExpand, done := doneExpand
    first := fun _ ds => if dLayout (ds.headD 0) = 3 then rangesLen (tileRanges (ds.headD 0)) else 0 }
def quantWork : OpWork :=
  { mine := (· == 0x03), judge := judgeQuant, check := checkQuant, spoil := spoilQuant, out := outQuant, done := doneQuant
    first := fun _ ds => rangesLen (tileRanges ((ds[2]?).getD 0)) }
def unpackWork : OpWork :=
  { mine := (· == 0x04), judge := judgeUnpack, check := checkUnpack, out := outUnpack, done := doneUnpack
    first := fun _ ds => rangesLen (tileRanges (ds.headD 0)) }
def fillWork : OpWork := { mine := (· == 0x06), judge := judgeFill, out := outFill }
def gatherWork : OpWork :=
  { mine := (· == 0x07), judge := judgeGather false, check := checkGather false, out := outGather false
    first := fun e _ => shapeN e * shapeI e }
def scatterWork : OpWork :=
  { mine := (· == 0x08), judge := judgeGather true, check := checkGather true, out := outGather true
    first := fun e _ => shapeN e * shapeI e }

def execCopy (asid chain seq : Nat) (s : State) : Out := .next (dataStep copyWork asid chain seq s)
def execExpand (asid chain seq : Nat) (s : State) : Out := .next (dataStep expandWork asid chain seq s)
def execQuantise (asid chain seq : Nat) (s : State) : Out := .next (dataStep quantWork asid chain seq s)
def execDecompress (asid chain seq : Nat) (s : State) : Out := .next (dataStep unpackWork asid chain seq s)
def execFill (asid chain seq : Nat) (s : State) : Out := .next (dataStep fillWork asid chain seq s)
def execGather (asid chain seq : Nat) (s : State) : Out := .next (dataStep gatherWork asid chain seq s)
def execScatter (asid chain seq : Nat) (s : State) : Out := .next (dataStep scatterWork asid chain seq s)

/-! ## Tier migration (03 R48, 05 R99) -/

/-- Shoot down a frame's pages: its one page, or everything when it is shared. -/
def shootFrame (frame : Nat) (s : State) : Nat × State :=
  match leavesOf s frame with
  | [l] => (s.nextId, startShoot (some l.1) (some l.2.1) none s)
  | _ => (s.nextId, startShoot none none none s)

/-- Whether a shoot-down is over. -/
def shootOver (s : State) (id : Nat) : Bool := !s.shoots.any (fun k => k.id == id)

/-- Step 1 of R48: M is set and shot down; the shoot-down's number. -/
def holdFrame (frame : Nat) (s : State) : Nat × State := shootFrame frame (mapLeaves frame (fun l => leafSetM l true) s)

/-- Steps 2 and 3 of R48: the page is copied, FRAME and T written, M cleared, and shot down again; the old frame is read
until the shoot-down is complete. -/
def moveFrame (frame new tier : Nat) (s : State) : Nat × State :=
  let s1 := takeFrame new (copyFrame frame new s)
  let k := shootFrame new (doomFrame frame (mapLeaves frame (fun l => leafSetM (leafSetFrame l new tier) false) s1))
  (k.1, sentDoomed k.2)

/-- The pages of a frame under migration are under it no longer: its migration has ended in step 1. -/
def releaseHold (c : Ctx) (va : Nat) (s : State) : State := match ctxWalk s c va with
  | .leaf l => mapLeaves (leafFrame l) (fun l => leafSetM l false) s
  | .fail _ _ => s

/-- Step 1 of R48 for a record. -/
def migrateBegin (asid n : Nat) (seq frame : Nat) (s : State) : State :=
  let k := holdFrame frame s
  modRec asid n seq (fun r => { r with phase := .waiting, part := 1, shoot := k.1 }) k.2

/-- Steps 2 and 3 of R48 for a record. -/
def migrateCopy (asid n seq frame new tier : Nat) (s : State) : State :=
  let k := moveFrame frame new tier s
  modRec asid n seq (fun r => { r with phase := .waiting, part := 2, shoot := k.1 }) k.2

/-- One step of a migration record. -/
def migrateStep (asid n : Nat) (c : Ctx) (ch : Chain) (r : Rec) (s : State) : State :=
  let va := ((r.dws[1]?).getD 0).toNat
  let tier := ((r.dws[2]?).getD 0).toNat
  match ctxWalk s c va with
  | .fail why _ => endRec asid n ch r 0x05 0 (some (4, why, va)) s
  | .leaf l =>
    if r.part = 2 then (if shootOver s r.shoot then endRec asid n ch r 0x05 0 none s else s)
    else if r.part = 1 then
      if !shootOver s r.shoot then s
      else match freeFrame s (rangeOf s.parts c) tier with
        | some f => migrateCopy asid n r.seq (leafFrame l) f tier s
        | none => s
    else if bitOf (leafTier l) = tier then endRec asid n ch r 0x05 0 none s
    else if leafM l then s
    else migrateBegin asid n r.seq (leafFrame l) s

/-- A migration record in flight: pay, then its steps. -/
def migrateGo (asid n : Nat) (c : Ctx) (ch : Chain) (r : Rec) (s : State) : State :=
  if r.phase = .waiting then migrateStep asid n c ch r s
  else
    let p := payPieces asid (4 * 2 ^ bits (r.dws.headD 0).toNat 9 8) r.cost s
    let s1 := modRec asid n r.seq (fun r => { r with cost := p.1 }) p.2
    if p.1 = 0 then migrateStep asid n c ch r s1 else s1

/-! ### Ablas's privileged chains (12 R275) -/

def modAblas (seq : Nat) (f : AblasRec → AblasRec) (s : State) : State := { s with ablas := modFirst (fun r => r.seq == seq) f s.ablas }
/-- A record of Ablas's chain is complete. -/
def endAblas (seq : Nat) (s : State) : State := { s with ablas := s.ablas.filter (fun r => r.seq != seq) }

/-- A step of a migration into HBM: without a page of 256 KiB in the second tier or a free frame it ends, and changes
nothing. -/
def ablasStep (r : AblasRec) (s : State) : State :=
  match (s.findCtx r.asid).map (fun c => (c, ctxWalk s c r.va)) with
  | some (c, .leaf l) =>
    if r.part ≠ 0 ∧ !shootOver s r.shoot then s
    else if r.part = 2 then endAblas r.seq s
    else match freeFrame s (rangeOf s.parts c) 0 with
      | none => endAblas r.seq (if r.part = 1 then mapLeaves (leafFrame l) (fun l => leafSetM l false) s else s)
      | some new =>
        if r.part = 1 then
          let k := moveFrame (leafFrame l) new 0 s
          modAblas r.seq (fun r => { r with part := 2, shoot := k.1 }) k.2
        else if !leafTier l ∨ leafSZ l ≠ 0 then endAblas r.seq s
        else if leafM l then s
        else
          let k := holdFrame (leafFrame l) s
          modAblas r.seq (fun r => { r with part := 1, shoot := k.1 }) k.2
  | _ => endAblas r.seq s

/-- The number that TIER_MIGRATION gives Ablas's chain of a die (notes/assumptions/105.md). -/
def ablasChain (die : Nat) : Nat := 64 + die

/-- TIER_MIGRATION. -/
def tierMigration (asid n seq : Nat) (s : State) : State :=
  if 64 ≤ n then match s.ablas.find? (fun r => r.asid == asid && ablasChain r.die == n && r.seq == seq) with
    | some r => ablasStep r s
    | none => s
  else
  let w : OpWork := { mine := (· == 0x05), judge := judgeMigrate }
  engineStep w.mine (fun c ch r => startRec w asid n c ch r (fun _ s => s)) (migrateGo asid n) asid n seq s

def execTierMigration (asid chain seq : Nat) (s : State) : Out := .next (tierMigration asid chain seq s)

/-- LAUNCH 0x20 (R83): the packet goes to its queue; the record waits for the scheduler. -/
def judgeLaunch (_ : State) (_ : Agent) (e : RecEnv) : Except Err Judged := do
  recordOk e [] [3, 4, 5, 6, 7]
  need ((e.dw 2).toNat < 32 && (e.dw 1).toNat % 128 == 0) (3, 0, e.addr)
  .ok ([], 0, 0)

/-- A launch queue of a partition; one that nothing has used stands empty. -/
def State.queue (s : State) (part num : Nat) : LQueue :=
  (s.queues.find? (fun q => q.part == part && q.num == num)).getD { part := part, num := num }

def State.setQueue (s : State) (q : LQueue) : State :=
  if s.queues.any (fun x => x.part == q.part && x.num == q.num) then
    { s with queues := modFirst (fun x => x.part == q.part && x.num == q.num) (fun _ => q) s.queues }
  else { s with queues := s.queues ++ [q] }

/-- LAUNCH. -/
def launchStep (asid n seq : Nat) (s : State) : State :=
  let w : OpWork := { mine := (· == 0x20), judge := judgeLaunch }
  engineStep w.mine (fun c ch r => startRec w asid n c ch r (fun r s =>
      let q := s.queue c.part (((r.dws[2]?).getD 0).toNat % 32)
      let p : Packet := { asid := asid, addr := (r.dws[1]?).getD 0, chain := some (n, r.seq), priv := r.priv, wct := r.wct }
      modRec asid n r.seq (fun r => { r with phase := .waiting }) (s.setQueue { q with packets := q.packets ++ [p] })))
    (fun _ _ _ s => s) asid n seq s

def execLaunch (asid chain seq : Nat) (s : State) : Out := .next (launchStep asid chain seq s)

/-! ## Completion (05 R80, R101; 17 R366) -/

/-- Write bytes to host memory. -/
def hostPut (a : Nat) (bs : List Byte) (s : State) : State := { s with dev := { s.dev with hostMem := memPut s.dev.hostMem a bs } }

/-- The device wrote a host queue's completion word: the same value goes to HCW, then the vector is signalled. -/
def hostWord (q : Nat) (x : W64) (s : State) : State :=
  match s.dev.hostqs.find? (fun h => h.num == q) with
  | none => s
  | some h =>
    let s1 := hostPut h.hcw (toBytes 8 x.toNat) s
    { s1 with dev := { s1.dev with msix := h.vec :: s1.dev.msix } }

/-- An operation of engine work completes at its warp. -/
def retireWork (uid op wct : Nat) (exc : BitVec 5) (fail : Option EFail) (s : State) : State := completeWith uid op wct exc fail s

/-- The completion word of a record. -/
def completionWord (r : Rec) : W64 :=
  w64 (bitOf r.fail.isSome * 2 ^ 63 + (r.fail.map (·.sub)).getD 0 * 2 ^ 59 + r.seq % 2 ^ 59)

/-- A value of a chain's completion word, and of its host queue's (R80; 17 R366). -/
def chainWord (c : Ctx) (ch : Chain) (b : Writer) (x : W64) (s : State) : State × Nat :=
  let p := ownWrite c ch.cwAddr.toNat (toBytes 8 x.toNat) b s
  (match ch.host with
    | some q => hostWord q x p.1
    | none => p.1, p.2)

/-- RECORD_COMPLETION: in sequence order; a release at device scope, at host scope for a host queue (15 R336), so the WCTs of
the record's writes have passed. -/
def recordCompletion (asid n : Nat) (s : State) : State :=
  match s.findCtx asid with
  | none => s
  | some c => match c.chain n with
    | none => s
    | some ch => match ch.recs with
      | r :: rest =>
        if r.phase ≠ .done ∨ s.time ≤ r.wct + (if ch.host.isSome then Config.fabricSkew else 0) then s
        else
          let s1 := moveChain asid n (fun ch => { ch with
            head := nextIndex ch.head 1, recs := rest, failed := ch.failed || r.fail.isSome }) s
          let p := chainWord c ch (recAgent asid ch r).by_ (completionWord r) s1
          match r.warp with
          | some u => retireWork u r.op (max r.wct p.2) r.exc r.fail p.1
          | none => p.1
      | [] => s

def execRecordCompletion (asid chain : Nat) (s : State) : Out := .next (recordCompletion asid chain s)

end Sys2Proof.Machine
end

