-- ==== Sys2Proof/Machine/Ephemeris.lean ====
section
/-! DEFINITION. Handles, KV caches and the Ephemeris store (12 R256 to R269): the instructions of major 0x35. -/

namespace Sys2Proof.Machine

open Sys2Proof

/-! ## Handles (12 R256 to R258) -/

def hGen (h : W64) : Nat := bits h.toNat 63 48
def hTenant (h : W64) : Nat := bits h.toNat 47 36
def hBound (h : W64) : Nat := bits h.toNat 35 20
def hIdx (h : W64) : Nat := bits h.toNat 19 0

/-- An entry of the handle table as it stands in memory. -/
structure HEnt where
  /-- physical address -/
  pa    : Nat
  dws   : List W64
  deriving DecidableEq, Repr

def HEnt.dw (e : HEnt) (i : Nat) : Nat := ((e.dws[i]?).getD 0).toNat
def HEnt.type (e : HEnt) : Nat := e.dw 0 % 4
def HEnt.gen (e : HEnt) : Nat := bits (e.dw 0) 63 48
def HEnt.tenant (e : HEnt) : Nat := bits (e.dw 0) 47 36
def HEnt.bound (e : HEnt) : Nat := bits (e.dw 0) 35 20
def HEnt.vbase (e : HEnt) : Nat := e.dw 1
def HEnt.clen (e : HEnt) : Nat := e.dw 2
def HEnt.tlen (e : HEnt) : Nat := e.dw 3
def HEnt.slotb (e : HEnt) : Nat := 2 ^ (e.dw 4 % 32)
/-- SPP. -/
def HEnt.spp (e : HEnt) : Nat := 2 ^ 18 / e.slotb
def HEnt.sarea (e : HEnt) : Nat := e.dw 5
def HEnt.valid (e : HEnt) (i : Nat) : Bool := bit (e.dw 6) i
def HEnt.pin (e : HEnt) (i : Nat) : Bool := bit (e.dw 6) (8 + i)

/-- Entry idx of a context's table; an unreadable one is free. -/
def readEnt (s : State) (c : Ctx) (idx : Nat) : HEnt :=
  match ctxPA s c (c.htBase + 64 * idx) with
  | some pa => { pa := pa, dws := (List.range 8).map (fun i => w64 (memNat s.mem (pa + 8 * i) 8)) }
  | none => { pa := 0, dws := List.replicate 8 0 }

/-- The checks of R258 for a type (1 KV, 2 state): the entry, or the sub-code. -/
def checkHandle (s : State) (c : Ctx) (type : Nat) (h : W64) : Except Nat HEnt :=
  let e := readEnt s c (hIdx h)
  if hIdx h ≥ c.htSize ∨ e.type = 0 ∨ e.type = 3 then .error 0x01
  else if hGen h ≠ e.gen then .error 0x02
  else if hTenant h ≠ c.tenant % 4096 ∨ hTenant h ≠ e.tenant then .error 0x03
  else if hBound h > e.bound ∨ (e.type = 2 ∧ hBound h ≠ e.bound) then .error 0x04
  else if e.type ≠ type then .error 0x05
  else .ok e

/-- HANDLE (R258). -/
def handleCause (sub : Nat) (h : W64) (pos : Nat) (m : W32) : Cause :=
  { code := 0x07, tsub := sub, taddr := h, info := pos % 2 ^ 52, tmask := m }
def handleTrap (sub : Nat) (h : W64) (pos : Nat) (s : State) : State := takeTrap (handleCause sub h pos s.w.cur.active) s

/-- An instruction of major 0x35 completes with an acquire (R259): s[SD] ← x. -/
def putAcquired (d : BitVec 6) (x : W64) (s : State) : State := putS d x (acquireNow s)
/-- One that fails softly has read the entry too. -/
def failAcquired (d : BitVec 6) (why : Nat) (s : State) : State := softFail d why (acquireNow s)

/-- The frame of every instruction of major 0x35 (R259): speculation, release, handle. -/
def onHandle (spec rel : Bool) (type : Nat) (h : W64) (pos : Nat) (s : State) (k : HEnt → State → State) : State :=
  notDawn s fun s => (if spec then notSpec 1 s else fun k => k s) fun s =>
    (if rel then afterFence 4 s else fun k => k s) fun s =>
      match checkHandle s s.ctx type h with
      | .error sub => handleTrap sub h pos s
      | .ok e => k e s

/-- Write a dword of an entry; the hardware writes only CLEN, TLEN and the ring. -/
def putEnt (e : HEnt) (i x : Nat) (s : State) : State := putHome (e.pa + 8 * i) (toBytes 8 x) s

/-- s[SA + n]. -/
def argS (s : State) (a : BitVec 6) (n : Nat) : W64 := s.w.sGet (a.toNat + n)

/-! ## Shoot-downs that an instruction waits for (03 R46) -/

/-- The instruction's effect is done and its shoot-downs run: it completes when they have. -/
def afterShoots (s : State) (k : State → State) : State :=
  let me := some (s.w.uid, s.w.cur.num)
  if s.shoots.any (fun x => x.who == me) then
    if s.shoots.all (fun x => x.who != me || x.done) then finish { s with shoots := s.shoots.filter (fun x => x.who != me) }
    else parkHere s
  else k s

/-- Shoot down pages of the context, SD written; with none the instruction completes at once. -/
def shootAndPut (d : BitVec 6) (x : W64) (vas : List Nat) (s : State) : State :=
  let s1 := acquireNow { s with w := s.w.sSet d.toNat x }
  if vas = [] then finish s1
  else parkHere (vas.foldl (fun s va => startShoot (some s.ctx.asid) (some va) (some (s.w.uid, s.w.cur.num)) s) s1)

/-! ## KV pages (12 R260, R261, R263, R264) -/

def kvPage (e : HEnt) (i : Nat) : Nat := e.vbase + i * 2 ^ 18

/-- The leaf of page i of an entry, where it is present: its address and the leaf. -/
def kvLeaf (s : State) (c : Ctx) (e : HEnt) (i : Nat) : Option (Nat × W64) :=
  (leafAddr s c (kvPage e i)).bind (fun a =>
    let l := w64 (memNat s.mem a 8)
    if leafPresent l then some (a, l) else none)

def kvShared (s : State) (c : Ctx) (e : HEnt) (i : Nat) : Bool :=
  match kvLeaf s c e i with
  | some (_, l) => decide (leafSC l ≥ 2)
  | none => false

/-- A leaf of a frame from the pool: present, readable and writable by user code, LC = 1, SC = 1 (R261). -/
def poolLeaf (f : Nat) : W64 := w64 (f * 2 ^ 20 + 1 * 2 ^ 12 + 1 * 2 ^ 6 + 2 ^ 4 + 2 ^ 2 + 2 ^ 1 + 1)

/-- Take the first frame of the context's pool; it is handed out cleared. -/
def popFrame (s : State) : Option (Nat × State) :=
  match s.ctx.pool with
  | f :: fs => some (f, wakeFrame f { s with
      ctx := { s.ctx with pool := fs }
      mem := s.mem.filter (fun p => p.1 / 2 ^ 18 != f), mp := s.mp.filter (fun g => g / 2 ^ 12 != f) })
  | [] => none

/-- Bytes of page i that hold positions below a length. -/
def pageBytes (e : HEnt) (i len : Nat) : Nat := min e.spp (len - i * e.spp) * e.slotb

/-- The KV entry of a context whose region holds a virtual address, and the page. -/
def kvOwner (s : State) (c : Ctx) (va : Nat) : Option (HEnt × Nat) :=
  (List.range c.htSize).findSome? (fun i =>
    let e := readEnt s c i
    if e.type = 1 ∧ e.vbase ≤ va ∧ va < e.vbase + e.bound * 2 ^ 18 then some (e, (va - e.vbase) / 2 ^ 18) else none)

/-- Step 4 of R264: the one owner left loses the slots at or above its own TLEN and may write again. -/
def soleOwner (frame : Nat) (s : State) : State :=
  match leavesOf s frame with
  | [l] =>
    match s.findCtx l.1 with
    | some c => match kvOwner s c l.2.1 with
      | some (e, i) =>
        let keep := pageBytes e i e.tlen
        putLeaf l.2.2.1 (leafSetW l.2.2.2 true) (clearPhys (frame * 2 ^ 18 + keep) (2 ^ 18 - keep) s)
      | none => s
    | none => s
  | _ => s

/-- The copy rule of R264 for page i of an entry; len is the appender's TLEN before the append. -/
def makePrivate (e : HEnt) (i len : Nat) (s : State) : State :=
  match kvLeaf s s.ctx e i, popFrame s with
  | some (a, l), some (f, s1) =>
    let old := leafFrame l
    let s2 := copyPhys (old * 2 ^ 18) (f * 2 ^ 18) (pageBytes e i len) s1
    let s3 := putLeaf a (poolLeaf f) s2
    if leafSC l = 255 then s3
    else
      let s4 := mapLeaves old (fun x => leafSetSC x (leafSC l - 1)) s3
      if leafSC l = 2 then soleOwner old s4 else s4
  | _, _ => s

/-- A page under migration: its leaf is not changed until M clears (03 R48). -/
def kvHeld (s : State) (e : HEnt) (i : Nat) : Bool := match kvLeaf s s.ctx e i with
  | some (_, l) => leafM l
  | none => false

/-- A fresh zeroed frame mapped at page i. -/
def mapFresh (e : HEnt) (i : Nat) (s : State) : State :=
  match leafAddr s s.ctx (kvPage e i), popFrame s with
  | some a, some (f, s1) => putLeaf a (poolLeaf f) s1
  | _, _ => s

/-! ## Slots and lengths (12 R260 to R262) -/

/-- KVSLOT. -/
def kvslot (w : Bool) (d a : BitVec 6) (s : State) : State :=
  let h := sval s a
  let p := (argS s a 1).toNat
  inRange (decide (a.toNat ≤ 62)) s fun s => afterShoots s fun s =>
    onHandle w false 1 h p s fun e s =>
      let i := p / e.spp
      let r := w64 (kvPage e i + p % e.spp * e.slotb)
      if i ≥ hBound h then handleTrap 0x04 h p s
      else if p ≥ e.tlen then handleTrap 0x06 h p s
      else if w && kvShared s s.ctx e i then
        if s.ctx.pool = [] then failAcquired d 2 s
        else if kvHeld s e i then parkHere s
        else shootAndPut d r [kvPage e i] (makePrivate e i e.tlen s)
      else putAcquired d r s

def execKvslot (d a : BitVec 6) (w : BitVec 1) (s : State) : Out := .next (kvslot (w == 1) d a s)

/-- KVTENT: tables that a page needs come from Ablas's free frames (notes/assumptions/104.md). -/
def kvtent (d a : BitVec 6) (s : State) : State :=
  let h := sval s a
  let n := (argS s a 1).toNat
  inRange (decide (a.toNat ≤ 62)) s fun s => afterShoots s fun s =>
    onHandle true true 1 h n s fun e s =>
      if n < e.tlen then failAcquired d 1 s
      else if ceilDiv n e.spp > hBound h then handleTrap 0x04 h n s
      else
        let pages := (List.range (ceilDiv n e.spp - e.tlen / e.spp)).map (· + e.tlen / e.spp)
        let fresh := pages.filter (fun i => (kvLeaf s s.ctx e i).isNone)
        let shared := pages.filter (kvShared s s.ctx e)
        if s.ctx.pool.length < fresh.length + shared.length then failAcquired d 2 s
        else if shared.any (kvHeld s e) then parkHere s
        else match needLeaves s.ctx (fresh.map (kvPage e)) s with
          | none => failAcquired d 2 s
          | some s0 =>
            let s1 := pages.foldl (fun s i => if fresh.contains i then mapFresh e i s
              else if shared.contains i then makePrivate e i e.tlen s else s) s0
            shootAndPut d (w64 n) (shared.map (kvPage e)) (putEnt e 3 n s1)

def execKvtent (d a : BitVec 6) (s : State) : Out := .next (kvtent d a s)

/-- KVCOMMIT and KVROLL: dword 2 or 3. -/
def kvlenSet (dw : Nat) (d a : BitVec 6) (s : State) : State :=
  let h := sval s a
  let n := (argS s a 1).toNat
  inRange (decide (a.toNat ≤ 62)) s fun s => onHandle true true 1 h n s fun e s =>
    if n < e.clen then failAcquired d 1 s
    else if n > e.tlen then handleTrap 0x06 h n s
    else putAcquired d (w64 n) (putEnt e dw n s)

def execKvcommit (d a : BitVec 6) (s : State) : Out := .next (kvlenSet 2 d a s)
def execKvroll (d a : BitVec 6) (s : State) : Out := .next (kvlenSet 3 d a s)

/-- KVLEN. -/
def execKvlen (d a : BitVec 6) (s : State) : Out :=
  .next (inRange (decide (d.toNat ≤ 62)) s fun s => onHandle false false 1 (sval s a) 0 s fun e s =>
    finish (acquireNow { s with w := (s.w.sSet d.toNat (w64 e.clen)).sSet (d.toNat + 1) (w64 e.tlen) }))

/-- A page that a fork copies: its count is saturated, or it is part of a large page, whose SC stays 1 (03 R39, R49; log 128,
DESIGN CHOICE). -/
def forkCopies (l : W64) : Bool := leafSC l == 255 || leafSZ l != 0

/-- One page of a fork (R263): shared, or copied. -/
def forkPage (src dst : HEnt) (f i : Nat) (s : State) : State :=
  match kvLeaf s s.ctx src i, leafAddr s s.ctx (kvPage dst i) with
  | some (_, l), some a =>
    if forkCopies l then
      match popFrame s with
      | some (fr, s1) => putLeaf a (poolLeaf fr) (copyPhys (leafPA l (kvPage src i)) (fr * 2 ^ 18) (pageBytes src i f) s1)
      | none => s
    else
      let s1 := putLeaf a l s
      mapLeaves (leafFrame l) (fun x => leafSetW (leafSetSC x (leafSC l + 1)) false) s1
  | _, _ => s

/-- KVFORK. -/
def kvfork (d a : BitVec 6) (s : State) : State :=
  let h := sval s a
  let f := (argS s a 1).toNat
  let h2 := argS s a 2
  inRange (decide (a.toNat ≤ 61)) s fun s => afterShoots s fun s => onHandle true true 1 h f s fun src s =>
    match checkHandle s s.ctx 1 h2 with
    | .error sub => handleTrap sub h2 f s
    | .ok dst =>
      let n := ceilDiv f src.spp
      if n > hBound h then handleTrap 0x04 h f s
      else if f > src.clen then handleTrap 0x06 h f s
      else if dst.clen ≠ 0 ∨ dst.tlen ≠ 0 ∨ (List.range dst.bound).any (fun i => (kvLeaf s s.ctx dst i).isSome) then failAcquired d 3 s
      else if dst.dw 4 % 32 ≠ src.dw 4 % 32 ∨ hBound h2 < n then failAcquired d 4 s
      else
        let pages := List.range n
        let full := pages.filter (fun i => match kvLeaf s s.ctx src i with
          | some (_, l) => forkCopies l
          | none => false)
        let narrowed := pages.filter (fun i => match kvLeaf s s.ctx src i with
          | some (_, l) => leafWrite l && !forkCopies l
          | none => false)
        if s.ctx.pool.length < full.length then failAcquired d 2 s
        else if pages.any (kvHeld s src) then parkHere s
        else match needLeaves s.ctx (pages.map (kvPage dst)) s with
          | none => failAcquired d 2 s
          | some s0 =>
            let s1 := pages.foldl (fun s i => forkPage src dst f i s) s0
            shootAndPut d 1 (narrowed.map (kvPage src)) (putEnt dst 3 f (putEnt dst 2 f s1))

def execKvfork (d a : BitVec 6) (s : State) : Out := .next (kvfork d a s)

/-! ## The Ephemeris store (12 R265 to R269) -/

/-- EPMAP. -/
def execEpmap (d a : BitVec 6) (s : State) : Out :=
  .next (onHandle false false 2 (sval s a) 0 s fun e s => putAcquired d (w64 e.vbase) s)

/-- Granules of 4 KiB of a state. -/
def stateGrans (e : HEnt) : List Nat := List.range e.bound

/-- Where snapshot i keeps granule g (DESIGN CHOICE, notes/assumptions/40.md), and where the keys stand. -/
def snapVA (e : HEnt) (i g : Nat) : Nat := e.sarea + 4096 + (i * e.bound + g) * 4096
def keyVA (e : HEnt) (i : Nat) : Nat := e.sarea + 8 * i

/-- The key of ring entry i. -/
def ringKey (s : State) (c : Ctx) (e : HEnt) (i : Nat) : Nat :=
  match ctxPA s c (keyVA e i) with
  | some pa => memNat s.mem pa 8
  | none => 0

/-- The valid entries of the ring: index and key. -/
def ringKeys (s : State) (c : Ctx) (e : HEnt) : List (Nat × Nat) :=
  ((List.range 8).filter e.valid).map (fun i => (i, ringKey s c e i))

/-- The pages that a snapshot or a restore translates: the state's as writes, the area as writes or reads; U is judged
for the state only, since the area's pages have U = 0. -/
def ringFault (s : State) (c : Ctx) (priv : Bool) (e : HEnt) (area : Acc) : Option (Nat × Nat × Nat × Acc) :=
  let one := fun (p : Bool) (acc : Acc) (va : Nat) => match ctxWalk s c va with
    | .fail why level => some (0x04, why, level, va, acc)
    | .leaf l => (permWhy l acc p).map (fun why => (0x05, why, 3, va, acc))
  match ((stateGrans e).findSome? (fun g => one priv .write (e.vbase + 4096 * g))).orElse (fun _ =>
      (List.range (8 * e.bound + 1)).findSome? (fun g => one true area (e.sarea + 4096 * g))) with
  | some (code, why, level, va, acc) => some (code, why * 16 + level, va, acc)
  | none => none

/-- Whether a page that would be written is under migration. -/
def ringHeld (s : State) (c : Ctx) (e : HEnt) : Bool :=
  (stateGrans e).any (fun g => match ctxWalk s c (e.vbase + 4096 * g) with
    | .leaf l => leafM l
    | .fail _ _ => false)

/-- The entry that a snapshot with key k takes (R266), or the reason against it. -/
def snapSlot (ring : List (Nat × Nat)) (e : HEnt) (k : Nat) : Except Nat Nat :=
  if ring.any (fun p => decide (p.2 > k)) then .error 3
  else match ring.find? (fun p => p.2 == k) with
    | some p => .ok p.1
    | none => match (List.range 8).find? (fun i => !e.valid i) with
      | some i => .ok i
      | none =>
        match (ring.filter (fun p => !e.pin p.1)).foldl (fun (b : Option (Nat × Nat)) p => match b with
            | none => some p
            | some q => if p.2 < q.2 then some p else some q) none with
        | some p => .ok p.1
        | none => .error 1

/-- A copy's place belongs to a ring entry's snapshot. -/
def inSnap (e : HEnt) (i dst : Nat) : Bool := decide (snapVA e i 0 ≤ dst) && decide (dst < snapVA e i e.bound)

/-- Record the state in ring entry i with a key (R266): a granule is copied when it is first written afterwards (R267). -/
def recordSnap (c : Ctx) (e : HEnt) (i k : Nat) (pin : Bool) (s : State) : State :=
  let mine := fun (x : Snap) => x.asid == c.asid && inSnap e i x.dst
  let s1 := { s with snaps := s.snaps.filter (fun x => !mine x)
                       ++ (stateGrans e).map (fun g => { asid := c.asid, va := e.vbase + 4096 * g, dst := snapVA e i g }) }
  let s2 := match ctxPA s1 c (keyVA e i) with
    | some pa => putHome pa (toBytes 8 k) s1
    | none => s1
  let ring := e.dw 6 % 65536
  let v := if bit ring i then ring else ring + 2 ^ i
  let p := if bit v (8 + i) = pin then v else if pin then v + 2 ^ (8 + i) else v - 2 ^ (8 + i)
  putEnt e 6 p s2

/-- A precise XLATE or PROT of a ring access. -/
def ringTrap (f : Nat × Nat × Nat × Acc) (s : State) : State :=
  takeTrap { code := f.1, taddr := w64 f.2.2.1, info := accInfo 0 (f.2.1 / 16) (f.2.1 % 16) 0 f.2.2.2, tmask := s.w.cur.active } s

/-- EPSNAP. -/
def epsnap (pin : Bool) (d a : BitVec 6) (s : State) : State :=
  let h := sval s a
  let k := (argS s a 1).toNat
  inRange (decide (a.toNat ≤ 62)) s fun s => onHandle true true 2 h k s fun e s =>
    match ringFault s s.ctx s.w.cur.priv e .write with
    | some f => ringTrap f s
    | none =>
      if ringHeld s s.ctx e then parkHere s
      else match snapSlot (ringKeys s s.ctx e) e k with
        | .error why => failAcquired d why s
        | .ok i => putAcquired d 1 (recordSnap s.ctx e i k pin s)

def execEpsnap (d a : BitVec 6) (p : BitVec 1) (s : State) : Out := .next (epsnap (p == 1) d a s)

/-- The greatest key not above n. -/
def bestKey (ring : List (Nat × Nat)) (n : Nat) : Option (Nat × Nat) :=
  ring.foldl (fun b p => if p.2 > n then b else match b with
    | none => some p
    | some q => if q.2 < p.2 then some p else some q) none

/-- Drop ring entries: nothing is copied for them any more. -/
def dropRing (e : HEnt) (is : List Nat) (s : State) : State :=
  putEnt e 6 (is.foldl (fun r i => (if bit r i then r - 2 ^ i else r) - (if bit r (8 + i) then 2 ^ (8 + i) else 0)) (e.dw 6 % 65536))
    { s with snaps := s.snaps.filter (fun x => !(x.asid == s.ctx.asid && is.any (fun i => inSnap e i x.dst))) }

/-- Write a granule of a snapshot back; the WCT of the write (0 where nothing differs). One that the snapshot has not
copied has not changed since (R267). -/
def restoreGran (c : Ctx) (src dst : Nat) (s : State) : State × Nat :=
  match ctxPA s c src, ctxPA s c dst with
  | some a, some b =>
    if s.snaps.contains { asid := c.asid, va := dst, dst := src }
      ∨ (memBytes s.mem a 4096 = memBytes s.mem b 4096 ∧ (List.range 64).all (fun g => s.mp.contains (a / 64 + g) == s.mp.contains (b / 64 + g))) then (s, 0)
    else
      let o := saveOld (· == b / 4096) s
      let lines := (List.range 32).map (· + b / 128)
      let wct := lines.foldl (fun m l => max m (max s.time (s.lexpOf l) + copyTime s o.2)) 0
      (copyPhys a b 4096 o.1, wct)
  | _, _ => (s, 0)

/-- EPREST. -/
def eprest (d a : BitVec 6) (s : State) : State :=
  let h := sval s a
  let n := (argS s a 1).toNat
  inRange (decide (a.toNat ≤ 62)) s fun s => onHandle true true 2 h n s fun e s =>
    let ring := ringKeys s s.ctx e
    match bestKey ring n with
    | none => putAcquired d (-1) { s with w := { s.w with trap := { s.w.trap with tsub := 1 } } }
    | some (i, k) =>
      match ringFault s s.ctx s.w.cur.priv e .read with
      | some f => ringTrap f s
      | none =>
        if ringHeld s s.ctx e then parkHere s
        else
          let s1 := dropRing e ((ring.filter (fun p => decide (p.2 > k))).map (·.1)) s
          let r := (stateGrans e).foldl (fun (acc : State × Nat) g =>
            let x := restoreGran s.ctx (snapVA e i g) (e.vbase + 4096 * g) acc.1
            (x.1, max acc.2 x.2)) (s1, 0)
          let s1 := r.1
          let w1 := { s1.w with wmax := max s1.w.wmax r.2 }
          let lines := (stateGrans e).flatMap (fun g => match ctxPA s s.ctx (e.vbase + 4096 * g) with
            | some b => (List.range 32).map (· + b / 128)
            | none => [])
          putAcquired d (w64 k) { s1 with core := dropL1 lines s1.core, w := w1 }

def execEprest (d a : BitVec 6) (s : State) : Out := .next (eprest d a s)

/-- EPCOMMIT. -/
def epcommit (d a : BitVec 6) (s : State) : State :=
  let n := (argS s a 1).toNat
  inRange (decide (a.toNat ≤ 62)) s fun s => onHandle true false 2 (sval s a) n s fun e s =>
    let ring := ringKeys s s.ctx e
    match bestKey ring n with
    | none => putAcquired d 0 s
    | some (_, k) =>
      let old := ring.filter (fun p => decide (p.2 < k))
      putAcquired d (w64 old.length) (dropRing e (old.map (·.1)) s)

def execEpcommit (d a : BitVec 6) (s : State) : Out := .next (epcommit d a s)

end Sys2Proof.Machine
end

