-- ==== Sys2Proof/Machine/LaneDispatch.lean ====
section
/-! DEFINITION. The lane instructions that a PFX may precede or a routine may hold (02 R24, 11 R239): majors 0x10 to 0x17
and 0x1A to 0x1D, VSEL and VMOV. -/

namespace Sys2Proof.Machine

open Sys2Proof

/-- The meaning of a lane instruction; any other instruction changes nothing here. -/
def laneMeaning (i : Instr) (st : State) : Out :=
  match i with
  | .vadd d a b => execVadd d a b st
  | .vsub d a b => execVsub d a b st
  | .vmul d a b => execVmul d a b st
  | .vmulh d a b => execVmulh d a b st
  | .vmulhn d a b => execVmulhn d a b st
  | .vmad d a b => execVmad d a b st
  | .vmin d a b => execVmin d a b st
  | .vmax d a b => execVmax d a b st
  | .vminn d a b => execVminn d a b st
  | .vmaxn d a b => execVmaxn d a b st
  | .vand d a b => execVand d a b st
  | .vor d a b => execVor d a b st
  | .vxor d a b => execVxor d a b st
  | .vandn d a b => execVandn d a b st
  | .vshl d a b => execVshl d a b st
  | .vshr d a b => execVshr d a b st
  | .vsra d a b => execVsra d a b st
  | .vrot d a b => execVrot d a b st
  | .vabsd d a b => execVabsd d a b st
  | .vadds d a b => execVadds d a b st
  | .vsubs d a b => execVsubs d a b st
  | .vavg d a b => execVavg d a b st
  | .vbfx d a b => execVbfx d a b st
  | .vbfi d a b => execVbfi d a b st
  | .vpack d a b => execVpack d a b st
  | .vpermb d a b => execVpermb d a b st
  | .vclz d a => execVclz d a st
  | .vpopc d a => execVpopc d a st
  | .vbrev d a => execVbrev d a st
  | .vnot d a => execVnot d a st
  | .vabs d a => execVabs d a st
  | .vneg d a => execVneg d a st
  | .vcmp c k a b => execVcmp c k a b st
  | .fadd d a b => execFadd d a b st
  | .fsub d a b => execFsub d a b st
  | .fmul d a b => execFmul d a b st
  | .ffma d a b => execFfma d a b st
  | .fmin d a b => execFmin d a b st
  | .fmax d a b => execFmax d a b st
  | .fabs d a => execFabs d a st
  | .fneg d a => execFneg d a st
  | .fscale d a b => execFscale d a b st
  | .frnd d a => execFrnd d a st
  | .fclass d a => execFclass d a st
  | .fcopys d a b => execFcopys d a b st
  | .faddBf16x2 d a b => execFaddBf16x2 d a b st
  | .fsubBf16x2 d a b => execFsubBf16x2 d a b st
  | .fmulBf16x2 d a b => execFmulBf16x2 d a b st
  | .ffmaBf16x2 d a b => execFfmaBf16x2 d a b st
  | .fminBf16x2 d a b => execFminBf16x2 d a b st
  | .fmaxBf16x2 d a b => execFmaxBf16x2 d a b st
  | .fabsBf16x2 d a => execFabsBf16x2 d a st
  | .fnegBf16x2 d a => execFnegBf16x2 d a st
  | .fscaleBf16x2 d a b => execFscaleBf16x2 d a b st
  | .frndBf16x2 d a => execFrndBf16x2 d a st
  | .fclassBf16x2 d a => execFclassBf16x2 d a st
  | .fcopysBf16x2 d a b => execFcopysBf16x2 d a b st
  | .fdot2Bf16x2 d a b => execFdot2Bf16x2 d a b st
  | .faddF16x2 d a b => execFaddF16x2 d a b st
  | .fsubF16x2 d a b => execFsubF16x2 d a b st
  | .fmulF16x2 d a b => execFmulF16x2 d a b st
  | .ffmaF16x2 d a b => execFfmaF16x2 d a b st
  | .fminF16x2 d a b => execFminF16x2 d a b st
  | .fmaxF16x2 d a b => execFmaxF16x2 d a b st
  | .fabsF16x2 d a => execFabsF16x2 d a st
  | .fnegF16x2 d a => execFnegF16x2 d a st
  | .fscaleF16x2 d a b => execFscaleF16x2 d a b st
  | .frndF16x2 d a => execFrndF16x2 d a st
  | .fclassF16x2 d a => execFclassF16x2 d a st
  | .fcopysF16x2 d a b => execFcopysF16x2 d a b st
  | .fdot2F16x2 d a b => execFdot2F16x2 d a b st
  | .fcvt t d a s p => execFcvt t d a s p st
  | .fexp2 d a y => execFexp2 d a y st
  | .flog2 d a y => execFlog2 d a y st
  | .frcp d a y => execFrcp d a y st
  | .frsq d a y => execFrsq d a y st
  | .fsqrt d a y => execFsqrt d a y st
  | .fsinpi d a y => execFsinpi d a y st
  | .fcospi d a y => execFcospi d a y st
  | .ftanh d a y => execFtanh d a y st
  | .fsigm d a y => execFsigm d a y st
  | .fgelu d a y => execFgelu d a y st
  | .ferf d a y => execFerf d a y st
  | .vsel d a b => execVsel d a b st
  | .vaddScalar d a s h => execVaddScalar d a s h st
  | .vsubScalar d a s h => execVsubScalar d a s h st
  | .vmulScalar d a s h => execVmulScalar d a s h st
  | .vmulhScalar d a s h => execVmulhScalar d a s h st
  | .vmulhnScalar d a s h => execVmulhnScalar d a s h st
  | .vmadScalar d a s h => execVmadScalar d a s h st
  | .vminScalar d a s h => execVminScalar d a s h st
  | .vmaxScalar d a s h => execVmaxScalar d a s h st
  | .vminnScalar d a s h => execVminnScalar d a s h st
  | .vmaxnScalar d a s h => execVmaxnScalar d a s h st
  | .vandScalar d a s h => execVandScalar d a s h st
  | .vorScalar d a s h => execVorScalar d a s h st
  | .vxorScalar d a s h => execVxorScalar d a s h st
  | .vandnScalar d a s h => execVandnScalar d a s h st
  | .vshlScalar d a s h => execVshlScalar d a s h st
  | .vshrScalar d a s h => execVshrScalar d a s h st
  | .faddScalar d a s h => execFaddScalar d a s h st
  | .fsubScalar d a s h => execFsubScalar d a s h st
  | .fmulScalar d a s h => execFmulScalar d a s h st
  | .ffmaScalar d a s h => execFfmaScalar d a s h st
  | .fminScalar d a s h => execFminScalar d a s h st
  | .fmaxScalar d a s h => execFmaxScalar d a s h st
  | .fscaleScalar d a s h => execFscaleScalar d a s h st
  | .fcopysScalar d a s h => execFcopysScalar d a s h st
  | .vaddi d a im => execVaddi d a im st
  | .vandi d a im => execVandi d a im st
  | .vori d a im => execVori d a im st
  | .vxori d a im => execVxori d a im st
  | .vshli d a im => execVshli d a im st
  | .vshri d a im => execVshri d a im st
  | .vsrai d a im => execVsrai d a im st
  | .vmuli d a im => execVmuli d a im st
  | .vli d im => execVli d im st
  | .vlis d im => execVlis d im st
  | .vmov d a => execVmov d a st
  | _ => .next st

/-- The state a lane instruction leaves. -/
def laneState (i : Instr) (st : State) : State :=
  match laneMeaning i st with
  | .next t => t
  | _ => st

end Sys2Proof.Machine
end

