-- ==== Sys2Proof/Machine/PfxRules.lean ====
section
/-! DEFINITION. Which successors and fields a PFX permits (02 R24, R25), on the words themselves. -/

namespace Sys2Proof.Machine

open Sys2Proof

/-- The major and the function of a 32-bit word (02 R19). -/
def majorOf (w : Nat) : Nat := bits w 6 1
def fnOf (w : Nat) : Nat := bits w 10 7

/-- A permitted successor: majors 0x10 to 0x17 and 0x1A to 0x1C, and VSEL. -/
def succOk (w : Nat) : Bool :=
  w % 2 == 1 && (decide (0x10 ≤ majorOf w ∧ majorOf w ≤ 0x17) || decide (0x1A ≤ majorOf w ∧ majorOf w ≤ 0x1C)
    || (majorOf w == 0x19 && fnOf w == 6))

/-- The fields of a PFX word. -/
def pfxK (p : Nat) : Nat := bits p 9 7
def pfxRM (p : Nat) : Nat := bits p 12 10
def pfxZ (p : Nat) : Nat := bits p 13 13
def pfxVC (p : Nat) : Nat := bits p 20 14
def pfxEC (p : Nat) : Nat := bits p 22 21
def pfxSAT (p : Nat) : Nat := bits p 23 23

/-- The successors that take a third source (02 R25, R26): VMAD, VBFI, FFMA, FDOT2. -/
def thirdOk (w : Nat) : Bool :=
  match majorOf w with
  | 0x10 => fnOf w == 5
  | 0x1A => fnOf w == 5
  | 0x11 => fnOf w == 7
  | 0x13 => fnOf w == 3
  | 0x1B => fnOf w == 3
  | 0x14 => fnOf w == 3 || fnOf w == 12
  | 0x15 => fnOf w == 3 || fnOf w == 12
  | _ => false

/-- The successors that take a rounding mode and saturation. -/
def roundOk (w : Nat) : Bool := [0x13, 0x1B, 0x14, 0x15, 0x16, 0x17].contains (majorOf w)

/-- No field of a PFX that its successor does not permit is nonzero (R25). -/
def pfxFieldsOk (p w : Nat) : Bool :=
  if majorOf w = 0x19 then pfxZ p == 0 && pfxRM p == 0 && pfxVC p == 0 && pfxSAT p == 0 && pfxEC p == 0
  else (pfxRM p == 0 || roundOk w) && (pfxSAT p == 0 || roundOk w) && (pfxVC p == 0 || thirdOk w)

end Sys2Proof.Machine
end

