-- ==== Sys2Proof/Machine/Routines.lean ====
section
/-! DEFINITION. Routines and the tile operators (11 R238 to R255): images, one combination, the order of combination,
FOLD, SCAN, ZIP and OUTER, where they run and how they fail. -/

namespace Sys2Proof.Machine

open Sys2Proof

/-! ## One combination (11 R240, R243, R252) -/

/-- What failed in a routine: 0x0C with the enabled exceptions raised, or 0x06; the index of the body word. -/
structure RFault where
  code : Nat
  exc  : BitVec 5 := 0
  ix   : Nat := 0
  /-- flags of the combinations of its element that came before (R252) -/
  raised : BitVec 5 := 0
  deriving DecidableEq, Repr

/-- An element: w words. -/
abbrev RVal := List W32
/-- A combination's result: an element and the flags raised. -/
abbrev RRes := Except RFault (RVal × BitVec 5)

/-- A routine as a unit runs it. -/
structure RFun where
  width : Nat
  assoc : Bool
  comm  : Bool
  ident : RVal
  comb  : RVal → RVal → RRes

def word (v : RVal) (i : Nat) : W32 := (v[i]?).getD 0

/-- One lane operation of a built-in routine: RNE, never flushing; an enabled exception fails it. -/
def laneStep (fpe : BitVec 5) (ix : Nat) (op : LaneOp) (a b c : W32) : Except RFault (W32 × BitVec 5) :=
  let p := op {} a b c
  if p.2 &&& fpe ≠ 0 then .error { code := 0x0C, exc := p.2 &&& fpe, ix := ix } else .ok p

/-- A routine of one lane operation. -/
def oneOp (fpe : BitVec 5) (op : LaneOp) (l r : RVal) : RRes :=
  (laneStep fpe 0 op (word l 0) (word r 0) 0).map (fun p => ([p.1], p.2))

/-- LSE (R243). Which body word an exception is reported at is not stated: a free value below NI = 9. -/
def lse (tick : Nat) (fpe : BitVec 5) (l r : RVal) : RRes := do
  let ix := fun n => (Config.reading tick n).toNat % 9
  let m ← laneStep fpe (ix 0) (onF32 opMax) (word l 0) (word r 0) 0
  if m.1 = 0xFF800000 then .ok ([m.1, 0, 0], m.2)
  else
    let d1 ← laneStep fpe (ix 1) (onF32 opSub) (word l 0) m.1 0
    let e1 ← laneStep fpe (ix 2) (onF32 (spOp 0)) d1.1 0 0
    let d2 ← laneStep fpe (ix 3) (onF32 opSub) (word r 0) m.1 0
    let e2 ← laneStep fpe (ix 4) (onF32 (spOp 0)) d2.1 0 0
    let s2 ← laneStep fpe (ix 5) (onF32 opMul) (word r 1) e2.1 0
    let s1 ← laneStep fpe (ix 6) (onF32 opFma) (word l 1) e1.1 s2.1
    let a2 ← laneStep fpe (ix 7) (onF32 opMul) (word r 2) e2.1 0
    let a1 ← laneStep fpe (ix 8) (onF32 opFma) (word l 2) e1.1 a2.1
    .ok ([m.1, s1.1, a1.1], m.2 ||| d1.2 ||| e1.2 ||| d2.2 ||| e2.2 ||| s2.2 ||| s1.2 ||| a2.2 ||| a1.2)

/-- The built-in routines 1 to 15 (R243). -/
def builtin (tick : Nat) (fpe : BitVec 5) (h : Nat) : Option RFun :=
  let one := fun (id : W32) (op : LaneOp) => some ({ width := 1, assoc := true, comm := true, ident := [id], comb := oneOp fpe op } : RFun)
  match h with
  | 1 => one 0x80000000 (onF32 opAdd)
  | 2 => one 0xFF800000 (onF32 opMax)
  | 3 => one 0x7F800000 (onF32 opMin)
  | 4 => one 0x3F800000 (onF32 opMul)
  | 5 => one 0 (pureOp fun a b _ => a + b)
  | 6 => one 0x80000000 (pureOp fun a b _ => maxS32 a b)
  | 7 => one 0x7FFFFFFF (pureOp fun a b _ => minS32 a b)
  | 8 => one 1 (pureOp fun a b _ => a * b)
  | 9 => one 0x80008000 (onPacked fmtBF16 opAdd)
  | 10 => one 0xFF80FF80 (onPacked fmtBF16 opMax)
  | 11 => one 0x80008000 (onPacked fmtF16 opAdd)
  | 12 => one 0xFC00FC00 (onPacked fmtF16 opMax)
  | 13 => some { width := 3, assoc := true, comm := true, ident := [0xFF800000, 0, 0], comb := lse tick fpe }
  | 14 => one 0 (pureOp fun a b _ => maxU32 a b)
  | 15 => one 0xFFFFFFFF (pureOp fun a b _ => minU32 a b)
  | _ => none

/-- The thread-slot of a routine unit before the body runs (R240): v0 on hold l, v4 on hold r, all else 0. -/
def unitState (rnd : Nat) (l r : RVal) : State :=
  let put := fun (base : Nat) (v : RVal) (t : List (Nat × W32)) =>
    ((List.range v.length).zip v).foldl (fun t p => tabSet 0 (32 * (base + p.1)) p.2 t) t
  { w := { cur := { active := 1 }, rnd := w64 rnd, v := put 4 r (put 0 l []) } }

/-- Run the body words in order (R240); pf is the prefix read just before. -/
noncomputable def runBody (fpe : BitVec 5) : List W32 → Nat → Option Pfx → BitVec 5 → State → Except RFault (State × BitVec 5)
  | [], _, _, exc, s => .ok (s, exc)
  | x :: xs, ix, pf, exc, s =>
    match decodeWord x.toNat with
    | .ok (.pfx k r z c _ sat) =>
      runBody fpe xs (ix + 1) (some { k := k.toNat, rm := r.toNat, z := z == 1, vc := c.toNat, sat := sat == 1 }) exc s
    | .ok i =>
      let t := laneState i { s with ix := { pfx := pf }, w := { s.w with fpx := 0 } }
      let e : BitVec 5 := t.w.fpx.setWidth 5
      if e &&& fpe ≠ 0 then .error { code := 0x0C, exc := e &&& fpe, ix := ix }
      else runBody fpe xs (ix + 1) none (exc ||| e) t
    | .error _ => .ok (s, exc)

/-- A registered routine (R240, R252): RND and FPE as captured. -/
noncomputable def registered (rnd : Nat) (fpe : BitVec 5) (r : Routine) : RFun :=
  { width := r.width, assoc := r.assoc, comm := r.comm, ident := r.ident
    comb := fun a b => (runBody fpe r.words 0 none 0 (unitState rnd a b)).map (fun p =>
      ((List.range r.width).map (fun i => p.1.w.vGet i 0), p.2)) }

/-- IDX and GEN of a routine handle (R242). -/
def rIdx (h : W64) : Nat := bits h.toNat 11 0
def rGen (h : W64) : Nat := bits h.toNat 27 12

/-- The registered routine of a handle, if it is live. -/
def liveRoutine (c : Ctx) (h : W64) : Option Routine :=
  if h.toNat ≥ 2 ^ 28 ∨ rIdx h < 16 then none
  else match c.routines.find? (fun p => p.1 == rIdx h) with
    | some p => if p.2.gen = rGen h then some p.2 else none
    | none => none

/-- The routine that a handle names in a context. -/
noncomputable def routineOf (c : Ctx) (tick rnd : Nat) (fpe : BitVec 5) (h : W64) : Option RFun :=
  match builtin tick fpe h.toNat with
  | some f => some f
  | none => (liveRoutine c h).map (registered rnd fpe)

/-- A handle is live (R242). -/
def handleLive (c : Ctx) (h : W64) : Bool := (decide (1 ≤ h.toNat) && decide (h.toNat ≤ 15)) || (liveRoutine c h).isSome

/-! ## The order of combination (11 R248) -/

/-- What follows combinations that raised m: a failure keeps them (R252). -/
def withRaised {α : Type} (m : BitVec 5) (r : Except RFault α) : Except RFault α := r.mapError (fun x => { x with raised := m ||| x.raised })

/-- One combination, flags joined; the reads of both elements may fail. -/
def combine (f : RFun) (a : RVal × BitVec 5) (x : RVal × BitVec 5) : RRes :=
  withRaised (a.2 ||| x.2) ((f.comb a.1 x.1).map (fun r => (r.1, a.2 ||| x.2 ||| r.2)))

/-- r ⊕ x(0) ⊕ x(1) ⊕ …, left to right; an element that cannot be read fails its combination. -/
def foldFrom (f : RFun) (r : RVal × BitVec 5) : List (Except RFault RVal) → RRes
  | [] => .ok r
  | x :: xs => do
    let v ← withRaised r.2 x
    let q ← combine f r (v, 0)
    foldFrom f q xs

/-- The chunks of 16 (R248). -/
def chunksOf (xs : List (Except RFault RVal)) : List (List (Except RFault RVal)) :=
  (List.range (ceilDiv xs.length 16)).map (fun c => (xs.drop (16 * c)).take 16)

/-- The totals of chunks, in order; m holds the flags of the chunks before. -/
def totals (f : RFun) : List (List (Except RFault RVal)) → BitVec 5 → Except RFault (List (RVal × BitVec 5))
  | [], _ => .ok []
  | c :: cs, m => do
    let t ← withRaised m (foldFrom f (f.ident, 0) c)
    let r ← totals f cs (m ||| t.2)
    .ok (t :: r)

/-- The flags of some nodes. -/
def flagsOf (l : List (RVal × BitVec 5)) : BitVec 5 := l.foldl (fun m t => m ||| t.2) 0

/-- The next level of the tree: adjacent nodes combined; a last odd node is carried (keep) or left out. -/
def pairUp (f : RFun) (keep : Bool) : List (RVal × BitVec 5) → Except RFault (List (RVal × BitVec 5))
  | a :: b :: t => do
    let x ← combine f a b
    let r ← pairUp f keep t
    .ok (x :: r)
  | [a] => .ok (if keep then [a] else [])
  | [] => .ok []

/-- The root of the tree over chunk totals; fuel at least the number of levels. -/
def treeRoot (f : RFun) : Nat → List (RVal × BitVec 5) → RRes
  | _, [a] => .ok a
  | 0, l => .ok (l.headD ([], 0))
  | n + 1, l => do
    let r ← pairUp f true l
    treeRoot f n r

/-- Fold of a sequence. -/
def foldSeq (f : RFun) (xs : List (Except RFault RVal)) : RRes :=
  if f.assoc then do
    let ts ← totals f (chunksOf xs) 0
    treeRoot f ts.length ts
  else foldFrom f (f.ident, 0) xs

/-- The levels of complete aligned blocks over chunk totals. -/
def blockLevels (f : RFun) : Nat → List (RVal × BitVec 5) → Except RFault (List (List (RVal × BitVec 5)))
  | 0, l => .ok [l]
  | n + 1, l =>
    if l.length < 2 then .ok [l]
    else do
      let r ← pairUp f false l
      let t ← blockLevels f n r
      .ok (l :: t)

/-- The blocks that make up chunks 0 to c − 1, largest first: the binary digits of c. -/
def prefixBlocks (c : Nat) (levels : List (List (RVal × BitVec 5))) : List (RVal × BitVec 5) :=
  ((List.range levels.length).reverse).filterMap (fun a =>
    if bit c a then ((levels[a]?).getD [])[c / 2 ^ a - 1]? else none)

/-- The combination of blocks, left to right. -/
def foldBlocks (f : RFun) : List (RVal × BitVec 5) → RRes
  | [] => .ok ([], 0)
  | a :: t => t.foldlM (combine f) a

/-- Prefix j of a sequence. -/
def prefixSeq (f : RFun) (xs : List (Except RFault RVal)) (j : Nat) : RRes :=
  if f.assoc then do
    let c := j / 16
    let ts ← totals f ((chunksOf xs).take c) 0
    let own ← withRaised (flagsOf ts) (foldFrom f (f.ident, 0) ((xs.drop (16 * c)).take (j + 1 - 16 * c)))
    if c = 0 then .ok own
    else do
      let levels ← blockLevels f c ts
      let b ← foldBlocks f (prefixBlocks c levels)
      combine f b own
  else foldFrom f (f.ident, 0) (xs.take (j + 1))

/-! ## The operators (11 R245 to R247) -/

/-- The fields of the control word. -/
def ctlAxis (c : W64) : Bool := c.getLsbD 0
def ctlInit (c : W64) : Bool := c.getLsbD 1
def ctlOp (c : W64) : Nat := bits c.toNat 3 2
def ctlP (c : W64) : Nat := bits c.toNat 31 16
def ctlPbase (c : W64) : Nat := bits c.toNat 63 32

/-- A control word that R245 refuses for an operator. -/
def ctlBad (op : Nat) (c eh : W64) : Bool :=
  bits c.toNat 15 4 != 0 || (op != 1 && (ctlPbase c != 0 || ctlP c != 0)) || (decide (op ≥ 2) && ctlInit c)
  || (op != 0 && ctlAxis c) || ((ctlP c == 0) != (eh == 0))

/-- TDB is used. -/
def usesB (op : Nat) (c : W64) : Bool := decide (op ≥ 2) || ctlInit c

/-- A tile of words of width w, rows × elements (R246). -/
def wordTile (w : Nat) (d : Desc) : Bool :=
  (dType d == 0 || dType d == 7 || dType d == 8 || dType d == 13) && decide (dLayout d ≤ 2) && dCols d % w == 0
def hasShape (w : Nat) (d : Desc) (n c : Nat) : Bool := dRows d == n && dCols d == c * w

/-- Elements of a 1 × m or m × 1 operand. -/
def vecLen (w : Nat) (d : Desc) : Option Nat :=
  if dRows d = 1 then some (dCols d / w) else if dCols d = w then some (dRows d) else none

/-- The shapes of R246. -/
def shapesOk (op : Nat) (c : W64) (w : Nat) (dd da db : Desc) : Bool :=
  let n := dRows da
  let e := dCols da / w
  wordTile w da && wordTile w dd && (!usesB op c || wordTile w db) &&
  (match op with
  | 0 => if ctlAxis c then hasShape w dd n 1 && (!ctlInit c || hasShape w db n 1)
      else hasShape w dd 1 e && (!ctlInit c || hasShape w db 1 e)
  | 1 => hasShape w dd n e && (!ctlInit c || hasShape w db n 1)
  | 2 => hasShape w dd n e && hasShape w db n e
  | _ => match vecLen w da, vecLen w db with
    | some m, some q => hasShape w dd m q
    | _, _ => false)

/-- Element (i, e) of an operand; a poisoned word cannot be read. -/
def opElem (s : State) (g : Agent) (w : Nat) (d : Desc) (i e : Nat) : Except RFault RVal :=
  let cols := (List.range w).map (· + w * e)
  if cols.any (fun j => elemPoi (agentPoi s g (dSpace d)) d i j) then .error { code := 0x06 }
  else .ok (cols.map (fun j => w32 (elemGet (agentByte s g (dSpace d)) d i j)))

/-- Element k of a vector operand. -/
def vecElem (s : State) (g : Agent) (w : Nat) (d : Desc) (k : Nat) : Except RFault RVal :=
  if dRows d = 1 then opElem s g w d 0 k else opElem s g w d k 0

/-- A seed combined on the left (R247). -/
def withSeed (f : RFun) (seed : Option (Except RFault RVal)) (r : RRes) : RRes :=
  match seed with
  | none => r
  | some x => do
    let v ← r
    let y ← withRaised v.2 x
    combine f (y, 0) v

/-- Destination element (i, e) (R247). -/
def destElem (f : RFun) (s : State) (g : Agent) (op : Nat) (c : W64) (da db : Desc) (i e : Nat) : RRes :=
  let w := f.width
  let n := dRows da
  let k := dCols da / w
  match op with
  | 0 =>
    if ctlAxis c then
      withSeed f (if ctlInit c then some (opElem s g w db i 0) else none) (foldSeq f ((List.range k).map (opElem s g w da i)))
    else
      withSeed f (if ctlInit c then some (opElem s g w db 0 e) else none)
        (foldSeq f ((List.range n).map (fun r => opElem s g w da r e)))
  | 1 =>
    withSeed f (if ctlInit c then some (opElem s g w db i 0) else none) (prefixSeq f ((List.range k).map (opElem s g w da i)) e)
  | 2 => do
    let x ← opElem s g w da i e
    let y ← opElem s g w db i e
    combine f (x, 0) (y, 0)
  | _ => do
    let x ← vecElem s g w da i
    let y ← vecElem s g w db e
    combine f (x, 0) (y, 0)

/-- The destination elements in row-major order. -/
def destPlaces (w : Nat) (dd : Desc) : List (Nat × Nat) :=
  (List.range (dRows dd)).flatMap (fun i => (List.range (dCols dd / w)).map (fun e => (i, e)))

/-- The bytes of one element of words. -/
def elemOut (d : Desc) (w i e : Nat) (v : RVal) : List Out8 :=
  (List.range w).flatMap (fun k => outBytes (elemBit d i (w * e + k) / 8) (toBytes 4 (word v k).toNat))

/-! ## Checkpoints (11 R249) -/

/-- Write column e of a scan into a state's words. -/
def putColumn (g : Agent) (e : HEnt) (w col : Nat) (val : Nat → Nat → RVal) (rows : Nat) (s : State) : State × Nat :=
  agentPut g false ((List.range rows).flatMap (fun i => (List.range w).flatMap (fun k =>
    outBytes (e.vbase + 4 * (i * w + k)) (toBytes 4 (word (val i col) k).toNat)))) s

/-- The checkpoint columns, and the last column. -/
def checkCols (p cols : Nat) : List Nat := (List.range cols).filter (fun e => (e + 1) % p == 0 || e + 1 == cols)

/-- Record the checkpoints of a scan in ascending order; a refused one ends it with sub-code 7 and DETAIL 7. -/
def runChecks (g : Agent) (h : W64) (c : W64) (w rows : Nat) (val : Nat → Nat → RVal) :
    List Nat → State → Nat → State × Nat × Option Err
  | [], s, wct => (s, wct, none)
  | e :: es, s, wct =>
    let cx := g.ctx s
    let ent := readEnt s cx (hIdx h)
    let r := putColumn g ent w e val rows s
    if (e + 1) % ctlP c ≠ 0 then (r.1, max wct r.2, none)
    else match snapSlot (ringKeys r.1 cx ent) ent (ctlPbase c + e + 1) with
      | .error _ => (r.1, max wct r.2, some (7, 7, h.toNat))
      | .ok i => runChecks g h c w rows val es (recordSnap cx ent i (ctlPbase c + e + 1) false r.1) (max wct r.2)

/-! ## Running an operation -/

/-- An operation's operands. -/
structure OpArgs where
  op  : Nat
  ctl : W64
  eh  : W64
  dd  : Desc
  da  : Desc
  db  : Desc
  deriving DecidableEq, Repr

/-- The state handle of a scan: dereferenced, large enough, its granules translated (R249). -/
def stateFault (s : State) (g : Agent) (w : Nat) (a : OpArgs) : Option Err :=
  if ctlP a.ctl = 0 then none
  else match checkHandle s (g.ctx s) 2 a.eh with
    | .error sub => some (7, sub % 16, a.eh.toNat)
    | .ok e =>
      if dRows a.da * w > e.bound * 1024 then some (7, 4, a.eh.toNat)
      else (ringFault s (g.ctx s) g.priv e .write).map (fun f => (4, (if f.1 = 0x05 then 8 else 0) + f.2.1 / 16 % 8, f.2.2.1))

/-- The bytes that a scan writes into its state: a column at each checkpoint, and the last. -/
def stateBytes (w : Nat) (a : OpArgs) : Nat :=
  if ctlP a.ctl = 0 then 0 else (checkCols (ctlP a.ctl) (dCols a.da / w)).length * (dRows a.da * w * 4)

/-- What a unit checks when it starts an operation; bytes read and written. Of several failures the first of this order is
reported: the routine handle, the control word, the descriptors, their shapes, the state, the translations (log 131, DESIGN
CHOICE). -/
noncomputable def judgeOper (rnd : Nat) (fpe : BitVec 5) (h : W64) (opBad : Bool) (s : State) (g : Agent) (addr : Nat) (a : OpArgs)
    (descs : Except Err Unit) : Except Err (Nat × Nat) :=
  match routineOf (g.ctx s) s.tick rnd fpe h with
  | none => .error (7, 0, h.toNat)
  | some f => do
    need (!opBad && !ctlBad a.op a.ctl a.eh) (3, 0, addr)
    descs
    need (shapesOk a.op a.ctl f.width a.dd a.da a.db) (3, 6, addr)
    match stateFault s g f.width a with
    | some e => .error e
    | none => do
      faultErr (tileFault s g .read a.da)
      if usesB a.op a.ctl then faultErr (tileFault s g .read a.db) else .ok ()
      faultErr (tileFault s g .write a.dd)
      let rd := rangesLen (tileRanges a.da ++ (if usesB a.op a.ctl then tileRanges a.db else []))
      .ok (rd, rangesLen (tileRanges a.dd) + stateBytes f.width a)

/-- How an operation went: state, WCT, flags, and an engine failure or a routine fault with its element. -/
structure OperEnd where
  st   : State
  wct  : Nat := 0
  exc  : BitVec 5 := 0
  err  : Option Err := none
  rf   : Option (RFault × Nat × Nat) := none

/-- Perform an operation: every destination element from the operands as they stood. With a failed combination nobody says
which of the others were written, nor which were computed (R253); the flags are those of the ones that were, and of the failed
element's earlier combinations; with an enabled exception raised there are none (R252). Every checkpoint column all of whose
earlier columns could be computed is recorded then, and the routine's failure is reported before a refused checkpoint's
(log 38, DESIGN CHOICE). -/
noncomputable def performOper (f : RFun) (g : Agent) (a : OpArgs) (s : State) : OperEnd :=
  let w := f.width
  let res := (destPlaces w a.dd).map (fun p => (p, destElem f s g a.op a.ctl a.da a.db p.1 p.2))
  let vals := res.filterMap (fun r => match r.2 with
    | .ok v => some (r.1, v.1)
    | .error _ => none)
  let val := fun i e => ((vals.find? (fun p => p.1 == (i, e))).map (·.2)).getD []
  match res.findSome? (fun r => match r.2 with
      | .error x => some (x, r.1)
      | .ok _ => none) with
  | some (x, p) =>
    let some_ := ((List.range vals.length).zip vals).filter (fun q => (Config.freeByte s.tick q.1).getLsbD 0)
    let cols := (checkCols (ctlP a.ctl) (dCols a.da / w)).filter (fun e =>
      (List.range (dRows a.da)).all (fun i => (List.range (e + 1)).all (fun k => vals.any (fun q => q.1 == (i, k)))))
    let k := if ctlP a.ctl = 0 then (s, 0, none) else runChecks g a.eh a.ctl w (dRows a.da) val cols s 0
    let r := agentPut g (dSpace a.dd) (some_.flatMap (fun q => elemOut a.dd w q.2.1.1 q.2.1.2 q.2.2)) k.1
    let exc := res.foldl (fun m r => match r.2 with
      | .ok v => if some_.any (fun q => q.2.1 == r.1) || (Config.freeByte s.tick (2 ^ 20 * r.1.1 + r.1.2)).getLsbD 1 then m ||| v.2 else m
      | .error _ => m) x.raised
    { st := r.1, wct := max k.2.1 r.2, exc := if x.code = 0x06 then exc else 0, rf := some (x, p.1, p.2) }
  | none =>
    let exc := res.foldl (fun m r => match r.2 with
      | .ok v => m ||| v.2
      | .error _ => m) 0
    let r := agentPut g (dSpace a.dd) (vals.flatMap (fun q => elemOut a.dd w q.1.1 q.1.2 q.2)) s
    let k := if ctlP a.ctl = 0 then (r.1, 0, none)
      else runChecks g a.eh a.ctl w (dRows a.da) val (checkCols (ctlP a.ctl) (dCols a.da / w)) r.1 0
    { st := k.1, wct := max r.2 k.2.1, exc := exc, err := k.2.2 }

/-- ROUTINE (R253). -/
def routineCause (eng : Nat) (h : W64) (x : RFault) (i e : Nat) : Cause :=
  { code := 0x11
    tsub := x.code + x.exc.toNat * 256
    taddr := w64 (i % 2 ^ 24 * 2 ^ 32 + e % 2 ^ 24)
    info := eng * 2 ^ 45 + x.ix * 2 ^ 40 + h.toNat % 2 ^ 28 * 2 ^ 12 }

/-- The failure of an ended operation: ROUTINE for an instruction, ENGINE sub-code 8 for a pushed record. -/
def operFail (instr : Bool) (eng chain seq addr : Nat) (h : W64) (r : OperEnd) : Option EFail :=
  match r.rf, r.err with
  | some (x, i, e), _ =>
    if instr then some { sub := 8, detail := 0, cause := routineCause eng h x i e }
    else some (engineFail eng chain 0x10 seq 8 (if x.code = 0x06 then 1 else 0) addr)
  | none, some x => some (engineFail eng chain 0x10 seq x.1 x.2.1 x.2.2)
  | none, none => none

/-! ## Operator-run records (11 R250; 05 R83) -/

/-- The operands of an operator-run record. -/
def recArgs (s : State) (g : Agent) (e : RecEnv) : OpArgs × Except Err Unit :=
  let op := ctlOp (e.dw 2)
  let b := usesB op (e.dw 2)
  match recDescs s g e ([e.dw 4, e.dw 5] ++ (if b then [e.dw 6] else [])) with
  | .ok ds => ({ op := op, ctl := e.dw 2, eh := e.dw 3, dd := ds.headD 0, da := (ds[1]?).getD 0, db := (ds[2]?).getD 0 }, .ok ())
  | .error x => ({ op := op, ctl := e.dw 2, eh := e.dw 3, dd := 0, da := 0, db := 0 }, .error x)

/-- The judgement of a record. -/
noncomputable def judgeOperRec (r : Rec) (s : State) (g : Agent) (e : RecEnv) : Except Err Judged := do
  recordOk e [4, 5, 6] [7]
  let a := recArgs s g e
  let x ← judgeOper r.rnd r.fpe (e.dw 1) r.opBad s g e.addr a.1 a.2
  .ok ([a.1.dd, a.1.da, a.1.db], x.1, x.2)

/-- Perform a record once its debit is paid. -/
noncomputable def finishOperRec (asid n : Nat) (ch : Chain) (r : Rec) (g : Agent) (e : RecEnv) (s : State) : State :=
  match judgeOperRec r s g e with
  | .error x => endRec asid n ch r 0x10 0 (some x) s
  | .ok _ => match routineOf (g.ctx s) s.tick r.rnd r.fpe (e.dw 1) with
    | none => s
    | some f =>
      let a := (recArgs s g e).1
      if rangeHeld s g (dSpace a.dd) (tileRanges a.dd) then s
      else
        let d := performOper f g a s
        modRec asid n r.seq (fun r => { r with
          phase := .done, wct := max r.wct d.wct, exc := d.exc
          fail := operFail r.instr ch.engine n r.seq e.addr (e.dw 1) d }) d.st

/-- A routine unit's agent for a record. -/
def unitAgent (asid : Nat) (ch : Chain) (r : Rec) : Agent :=
  { recAgent asid ch r with by_ := { (recAgent asid ch r).by_ with kind := 7 } }

/-- Pay and perform. -/
noncomputable def payOperRec (asid n : Nat) (c : Ctx) (ch : Chain) (r : Rec) (s : State) : State :=
  let g := unitAgent asid ch r
  let p := payPieces asid (4 * 2 ^ bits (r.dws.headD 0).toNat 9 8) r.cost s
  let s1 := modRec asid n r.seq (fun r => { r with cost := p.1 }) p.2
  if p.1 ≠ 0 then s1 else finishOperRec asid n ch r g (heldEnv s c ch r) s1

/-- OPERATOR_RUN. -/
noncomputable def operatorRun (asid n seq : Nat) (s : State) : State :=
  engineStep (· == 0x10)
    (fun c ch r => startRec { mine := (· == 0x10), judge := judgeOperRec r } asid n c ch r
      (fun _ s => s))
    (payOperRec asid n) asid n seq s

noncomputable def execOperatorRun (asid chain seq : Nat) (s : State) : Out := .next (operatorRun asid chain seq s)

/-! ## Reset of an engine (05 R93, R100, R101) -/

/-- The work of an opcode that moves data and may leave part of it at a reset. -/
def workOf (opc : Nat) : Option OpWork :=
  match opc with
  | 0x01 => some copyWork | 0x02 => some expandWork | 0x04 => some unpackWork
  | 0x06 => some fillWork | 0x07 => some gatherWork | 0x08 => some scatterWork
  | _ => none

/-- Some of the bytes of some ranges as d has them, written to s (R100): which ones, nobody says. -/
def someBytes (g : Agent) (space : Bool) (rs : List (Nat × Nat)) (d s : State) : State × Nat :=
  agentPut g space (((rs.flatMap (fun p => (List.range p.2).map (p.1 + ·))).filter
    (fun a => (Config.freeByte s.tick a).getLsbD 0)).map (fun a => (a, agentByte d g space a, agentPoi d g space a))) s

/-- What a record that is reset while it pays leaves of its data, and the WCT of that; the row scales of a quantising one are
read before it writes (R93). -/
noncomputable def resetData (asid : Nat) (c : Ctx) (ch : Chain) (r : Rec) (s : State) : State × Nat :=
  let opc := (r.dws.headD 0).toNat % 256
  let g := recAgent asid ch r
  let e := heldEnv s c ch r
  if opc = 0x03 then
    match judgeQuant s g e with
    | .ok (ds, _, _) =>
      let b := if r.els.isSome then agentPut g false (begunBytes s g e ds) s else (s, 0)
      let z := deadTrailer g ((ds[1]?).getD 0) b.1
      (z.1, max b.2 z.2)
    | .error _ => (s, 0)
  else if opc = 0x10 then
    match judgeOperRec r s g e, routineOf c s.tick r.rnd r.fpe (e.dw 1) with
    | .ok _, some f =>
      let a := (recArgs s g e).1
      someBytes g (dSpace a.dd) (tileRanges a.dd) (performOper f (unitAgent asid ch r) a s).st s
    | _, _ => (s, 0)
  else match workOf opc with
    | none => (s, 0)
    | some w => match w.judge s g e with
      | .error _ => (s, 0)
      | .ok (ds, _, _) =>
        if (w.check s g e ds).isSome ∧ r.els = none then (s, 0)
        else
          let d := destOf s g e ds
          someBytes g d.1 d.2 (w.run g e ds s).1 s

/-- A record in flight ends with sub-code 6: a quantising one leaves a dead trailer, another that moves data may leave
some of it, a migration clears M. -/
noncomputable def resetRec (asid n : Nat) (c : Ctx) (ch : Chain) (r : Rec) (s : State) : State :=
  let opc := (r.dws.headD 0).toNat % 256
  let d := if opc = 0x05 then (if r.part = 1 then releaseHold c ((r.dws[1]?).getD 0).toNat s else s, 0)
    else if r.phase = .paying then resetData asid c ch r s
    else (s, 0)
  endRec asid n ch r opc d.2 (some (6, 0, (recEnv s c ch r).addr)) d.1

/-- ENGINE_RESET. -/
noncomputable def engineReset (eng : Nat) (s : State) : State :=
  s.liveCtxs.foldl (fun s c => c.chains.foldl (fun s p =>
    if p.2.engine ≠ eng then s
    else (p.2.recs.filter (fun r => r.phase == .paying || r.phase == .waiting)).foldl (fun s r => resetRec c.asid p.1 c p.2 r s) s) s) s

noncomputable def execEngineReset (eng : Nat) (s : State) : Out := .next (engineReset eng s)

/-! ## The output routine unit (11 R250, R254) -/

/-- The agent of a queued operation. -/
def outAgent (o : OutOp) : Agent :=
  { asid := o.asid, team := some o.team, priv := o.priv, by_ := { kind := 7, warp := some o.warp, asid := o.asid } }

def outArgs (o : OutOp) : OpArgs := { op := o.fn, ctl := o.ctl, eh := o.eh, dd := o.dd, da := o.da, db := o.db }

/-- The descriptors of a queued operation under R88. -/
def outDescs (o : OutOp) : Except Err Unit :=
  need (!([o.dd, o.da] ++ (if usesB o.fn o.ctl then [o.db] else [])).any dMalformed) (3, 1, 0)

/-- The unit's operation, changed. -/
def modOut (core : Nat) (op : Nat) (f : OutOp → OutOp) (s : State) : State :=
  s.modCore core (fun c => { c with outq := modFirst (fun o => o.op == op) f c.outq })

/-- An operation that ended before its data. -/
def outEnd (core : Nat) (o : OutOp) (e : Err) (s : State) : State :=
  modOut core o.op (fun o => { o with started := true, done := true, fail := some (engineFail 0x7F 0 0x10 0 e.1 e.2.1 e.2.2) }) s

/-- Pay and perform the running operation. -/
noncomputable def outRun (core : Nat) (o : OutOp) (s : State) : State :=
  let g := outAgent o
  let p := payPieces o.asid (4 * 2 ^ o.ec) o.cost s
  let s1 := modOut core o.op (fun o => { o with started := true, cost := p.1 }) p.2
  if p.1 ≠ 0 then s1
  else match judgeOper o.rnd o.fpe o.hnd (ctlOp o.ctl != 0) s1 g 0 (outArgs o) (outDescs o), routineOf (g.ctx s1) s1.tick o.rnd o.fpe o.hnd with
    | .error e, _ => outEnd core o e s1
    | .ok _, none => s1
    | .ok _, some f =>
      let d := performOper f g (outArgs o) s1
      modOut core o.op (fun x => { x with done := true, exc := d.exc, fail := operFail true 0x7F 0 0 0 o.hnd d }) d.st

/-- OUTPUT_UNIT_OPERATION: one operation at a time, in issue order (R250). -/
noncomputable def outputUnit (core : Nat) (s : State) : State :=
  match (s.getCore core).outq with
  | o :: _ =>
    if o.done then s
    else if o.started then outRun core o s
    else match judgeOper o.rnd o.fpe o.hnd (ctlOp o.ctl != 0) s (outAgent o) 0 (outArgs o) (outDescs o) with
      | .error e => outEnd core o e s
      | .ok (rd, wr) =>
        let o1 := { o with started := true, cost := copyCost o.ec rd wr }
        outRun core o1 (modOut core o.op (fun _ => o1) s)
  | [] => s

noncomputable def execOutputUnitOperation (core : Nat) (s : State) : Out := .next (outputUnit core s)

/-- An operation of a core's queue leaves it. -/
def dropOut (op : Nat) (c : Core) : Core := { c with outq := c.outq.filter (fun x => x.op != op) }

/-- An operation of the output routine unit retires, on its core or switched out (16 R359). -/
def outputRetire (op : Nat) (s : State) : State :=
  let mine := fun (o : OutOp) => o.op == op && o.done
  let cs := s.core :: s.cores ++ s.saves.map (·.core)
  match cs.findSome? (fun c => c.outq.find? mine) with
  | none => s
  | some o =>
    retireWork o.warp op s.time o.exc o.fail { s with
      core := dropOut op s.core, cores := s.cores.map (dropOut op)
      saves := s.saves.map (fun (x : Saved) => { x with core := dropOut op x.core }) }

/-- A record of FOLD, SCAN, ZIP or OUTER whose data have been written: context, chain slot, record. -/
def doneOperRec (op : Nat) (s : State) : Option (Nat × Nat × Rec) :=
  s.liveCtxs.findSome? (fun c => c.chains.findSome? (fun p =>
    (p.2.recs.find? (fun r => r.op == op && r.instr && r.phase == .done && r.warp.isSome)).map (fun r => (c.asid, p.1, r))))

/-- OPERATION_RETIRE (R251): an operation whose writes are acknowledged, whether or not their leases have passed. A record's
completion word follows them (05 R80). -/
def operationRetire (op : Nat) (s : State) : State :=
  match doneOperRec op s with
  | some (asid, n, r) => retireWork (r.warp.getD 0) op r.wct r.exc r.fail (modRec asid n r.seq (fun r => { r with warp := none }) s)
  | none => outputRetire op s

def execOperationRetire (op : Nat) (s : State) : Out := .next (operationRetire op s)

/-! ## FOLD, SCAN, ZIP, OUTER (11 R244, R250) -/

/-- A tile operator issues; what it has read of its scalars it keeps while it is parked (R250). -/
def tileOper (fn : Nat) (d a b : BitVec 4) (h : BitVec 6) (e : BitVec 2) (s : State) : State :=
  inRange (decide (h.toNat ≤ 61)) s fun s => notDawn s fun s => withRoom .tl s fun s => notSpec 4 s fun s =>
    let again := !s.w.cur.arg.isEmpty
    let xs := sampled [sval s h, s.w.sGet (h.toNat + 1), s.w.sGet (h.toNat + 2)] s
    let hnd := xs.headD 0
    let raw := (xs[1]?).getD 0
    let eh := (xs[2]?).getD 0
    let opBad := ctlOp raw != 0
    let ctl := if opBad then raw else w64 (raw.toNat + 4 * fn)
    let dd := s.w.tdGet d.toNat
    let da := s.w.tdGet a.toNat
    let db := s.w.tdGet b.toNat
    let used := [dd, da] ++ (if usesB fn raw then [db] else [])
    if !again && !handleLive s.ctx hnd then handleTrap 0x10 hnd 0 s
    else if (fn = 0 ∨ fn = 3) ∧ used.all dSpace then keeping xs s fun s =>
      if s.core.outq.length ≥ 64 then parkHere s
      else afterFence 4 s fun s =>
        let op := s.nextId
        let o : OutOp := { op := op, warp := s.w.uid, team := s.w.team, asid := s.ctx.asid, priv := s.w.cur.priv, fn := fn
                           hnd := hnd, ctl := raw, eh := eh, dd := dd, da := da, db := db, ec := e.toNat, rnd := s.w.mode
                           fpe := s.w.enables }
        finish { s with
          nextId := op + 1
          core := { s.core with outq := s.core.outq ++ [o] }
          w := (s.w.addOp op .tl (.output op) [] 0 false 0).modOp op (fun o => { o with hnd := hnd }) }
    else openChain 0 s fun ch s => keeping xs s fun s =>
      if chainFull ch then parkHere s
      else afterFence 4 s fun s =>
        let at_ := annexVA ch ch.tail
        let ptr := fun i => if i < used.length then w64 (at_ + 32 * i) else 0
        finish (pushRec .tl 0 [w64 (0x10 + 256 * e.toNat), hnd, ctl, eh, ptr 0, ptr 1, ptr 2, 0] used true opBad s)

def execFold (d a b : BitVec 4) (h : BitVec 6) (e : BitVec 2) (s : State) : Out := .next (tileOper 0 d a b h e s)
def execScan (d a b : BitVec 4) (h : BitVec 6) (e : BitVec 2) (s : State) : Out := .next (tileOper 1 d a b h e s)
def execZip (d a b : BitVec 4) (h : BitVec 6) (e : BitVec 2) (s : State) : Out := .next (tileOper 2 d a b h e s)
def execOuter (d a b : BitVec 4) (h : BitVec 6) (e : BitVec 2) (s : State) : Out := .next (tileOper 3 d a b h e s)

/-! ## RTREG and RTFREE (11 R238, R239, R241) -/

/-- A header that breaks R238. -/
def headerBad (d0 d1 d2 : Nat) : Bool :=
  let w := bits d0 10 8
  let ids := [bits d1 31 0, bits d1 63 32, bits d2 31 0, bits d2 63 32]
  bits d0 63 18 != 0 || bits d0 15 11 != 0 || bits d0 7 6 != 0 || w == 0 || decide (w > 4) || bits d0 5 0 == 0
  || decide (bits d0 5 0 > 32) || (ids.drop w).any (· != 0)

/-- A body word's major and function (TSUB 3): a function its major does not assign is outside R239 too (DEDUCED,
notes/assumptions/50.md). -/
noncomputable def bodyMajor (w : Nat) : Bool :=
  w % 2 == 1 && (decide (0x10 ≤ majorOf w ∧ majorOf w ≤ 0x17) || majorOf w == 0x1C || majorOf w == 0x1D
    || (majorOf w == 0x1F && fnOf w == 4) || majorOf w == 0x3E)
  && (match decodeWord w with
    | .error (.illegal why) => why != 1
    | _ => true)

/-- VB names a register: the function accepts a nonzero one, whatever its other fields hold. -/
noncomputable def vbIsReg (w : Nat) : Bool :=
  decide (majorOf w ≤ 0x15) && (match decodeWord (w % 2 ^ 11 + 2 ^ 25) with
    | .ok _ => true
    | .error _ => false)

/-- Every vector register field names v0 to v15 (TSUB 4). -/
noncomputable def bodyRegs (w : Nat) : Bool :=
  if majorOf w = 0x3E then decide (pfxVC w ≤ 15)
  else (majorOf w == 0x12 || decide (bits w 17 11 ≤ 15)) && (majorOf w == 0x1D || decide (bits w 24 18 ≤ 15))
    && (!vbIsReg w || decide (bits w 31 25 ≤ 15))

/-- A PFX with its successor (TSUB 5). -/
def bodyPfx (w : Nat) (next : Option Nat) : Bool :=
  majorOf w != 0x3E || (match next with
    | none => false
    | some x => bits w 31 24 == 0 && decide (pfxRM w ≤ 5) && succOk x && pfxFieldsOk w x)

/-- Any other check of R22 (TSUB 6). -/
noncomputable def bodyOther (w : Nat) : Bool :=
  match decodeWord w with
  | .ok i => i.wf
  | .error _ => false

/-- The reason against a body word. -/
noncomputable def bodyBad (w : Nat) (next : Option Nat) : Option Nat :=
  if !bodyMajor w then some 3 else if !bodyRegs w then some 4 else if !bodyPfx w next then some 5
  else if !bodyOther w then some 6 else none

/-- The first reason against a body. -/
noncomputable def bodyReason : List Nat → Option Nat
  | [] => none
  | w :: ws => (bodyBad w ws.head?).orElse (fun _ => bodyReason ws)

/-- Read n words at home, in order. -/
def loadWords : Nat → W64 → List Nat → State → (List Nat → State → State) → State
  | 0, _, acc, s, k => k acc s
  | n + 1, va, acc, s, k => inlineLoad false false 4 va 6 s fun x s => loadWords n (va + 4) (acc ++ [x]) s k

/-- The lowest free IDX, and the generation of its next registration. -/
def nextRoutine (c : Ctx) : Nat × Nat :=
  let i := ((List.range 4080).map (· + 16)).find? (fun i => !c.routines.any (fun p => p.1 == i))
  let idx := i.getD 16
  let g := tabGet 0 idx c.rgens
  (idx, if g = 0xFFFF then 1 else g + 1)

/-- RTREG. -/
noncomputable def rtreg (d a : BitVec 6) (s : State) : State :=
  notDawn s fun s =>
    let va := sval s a
    inlineLoad false false 8 va 6 s fun d0 s => inlineLoad false false 8 (va + 8) 6 s fun d1 s =>
      inlineLoad false false 8 (va + 16) 6 s fun d2 s =>
        if headerBad d0 d1 d2 then softFail d 2 s
        else loadWords (bits d0 5 0) (va + 24) [] s fun ws s =>
          match bodyReason ws with
          | some why => softFail d why s
          | none =>
            if s.ctx.routines.length ≥ 4080 then softFail d 1 s
            else
              let n := nextRoutine s.ctx
              let w := bits d0 10 8
              let ids := [bits d1 31 0, bits d1 63 32, bits d2 31 0, bits d2 63 32]
              let r : Routine := { words := ws.map w32, width := w, assoc := bit d0 16, comm := bit d0 17
                                   ident := (ids.take w).map w32, gen := n.2 }
              putS d (w64 (n.2 * 4096 + n.1)) { s with ctx := { s.ctx with
                routines := tabIns n.1 r s.ctx.routines, rgens := tabSet 0 n.1 n.2 s.ctx.rgens } }

noncomputable def execRtreg (d a : BitVec 6) (s : State) : Out := .next (rtreg d a s)

/-- An operation that names a handle has not retired. -/
def handleUsed (s : State) (h : W64) : Bool :=
  (s.allWarps.any (fun w => ((s.findTeam w.team).map (·.asid)) == some s.ctx.asid && w.ops.any (fun o => o.hnd == h)))
  || s.ctx.chains.any (fun p => p.2.recs.any (fun r =>
    let dws := if r.dws.isEmpty then readRec s s.ctx p.2 r else r.dws
    (r.phase != .done || r.warp.isSome) && (dws.headD 0).toNat % 256 == 0x10 && dws[1]? == some h))

/-- RTFREE. -/
def execRtfree (d a : BitVec 6) (s : State) : Out :=
  .next (notDawn s fun s =>
    let h := sval s a
    if (liveRoutine s.ctx h).isNone then softFail d 1 s
    else if handleUsed s h then softFail d 2 s
    else putS d 1 { s with ctx := { s.ctx with routines := s.ctx.routines.filter (fun p => p.1 != rIdx h) } })

end Sys2Proof.Machine
end

