-- ==== Sys2Proof/Machine/Sums.lean ====
section
/-! DEFINITION. The order and rounding of accumulated products (04 R72), shared by the Orrery and the attention units. -/

namespace Sys2Proof.Machine

open Sys2Proof

/-- A value to be rounded. -/
def toExact : FVal → Exact
  | .nan _ => .nan
  | .inf n => .inf n
  | .fin n m e => .fin n m e false

/-- A zero result of an accumulation is +0 (R72). -/
def plusZero (x : Nat) : Nat := if x = 0x80000000 then 0 else x

/-- One group: acc plus the exact sum of its products, rounded once to f32 by RNE. -/
def groupAdd (acc : Nat) (ps : List (FVal × FVal)) : Nat :=
  let s := ps.foldl (fun a p => exactVal (fadd 1 a (exactVal (fmul p.1 p.2).1)).1) (.fin false 0 0)
  plusZero (fround fmtF32 1 false false (fadd 1 (fdecode fmtF32 acc) s).1).bits

/-- Products in ascending order, in groups of g: the accumulator after k groups. -/
def groupsFrom (g : Nat) : Nat → Nat → List (FVal × FVal) → Nat
  | 0, acc, _ => acc
  | n + 1, acc, ps => groupsFrom g n (groupAdd acc (ps.take g)) (ps.drop g)

/-- The sum of products in groups of g from an accumulator. -/
def dotFrom (g acc : Nat) (ps : List (FVal × FVal)) : Nat := groupsFrom g (ceilDiv ps.length g) acc ps

end Sys2Proof.Machine
end

