-- ==== Sys2Proof/Machine/Attention.lean ====
section
/-! DEFINITION. Attention on the base dies (12 R270 to R276): ATTN, the units' page groups, absent pages, the merge and
the completion word. -/

namespace Sys2Proof.Machine

open Sys2Proof

/-! ## The request (R271) -/

def Attn.dw (a : Attn) (i : Nat) : Nat := ((a.req[i]?).getD 0).toNat
def Attn.heads (a : Attn) : Nat := bits (a.dw 2) 7 0 + 1
def Attn.dim (a : Attn) : Nat := 64 * 2 ^ bits (a.dw 2) 9 8
def Attn.slotb (a : Attn) : Nat := 2 ^ a.slog
def Attn.spp (a : Attn) : Nat := 2 ^ 18 / a.slotb
def Attn.cookie (a : Attn) : Nat := bits (a.dw 2) 63 32
def Attn.cw (a : Attn) : Nat := a.dw 7
def Attn.out (a : Attn) : Nat := a.dw 6
/-- Rows of the workspace and of OUT. -/
def Attn.rows (a : Attn) : Nat := a.heads * a.dim
/-- The workspace (R273). -/
def Attn.work (a : Attn) : Nat := a.out + 64 * ceilDiv (12 * a.rows) 64
/-- Element g of row r of the workspace, and row r of OUT (R274). -/
def Attn.workAt (a : Attn) (r g : Nat) : Nat := a.work + 12 * a.groups.length * r + 12 * g
def Attn.outAt (a : Attn) (r : Nat) : Nat := a.out + 12 * r
/-- The address of a position's slot. -/
def Attn.slotAt (a : Attn) (p : Nat) : Nat := a.vbase + p / a.spp * 2 ^ 18 + p % a.spp * a.slotb
/-- Positions of a page group, ascending. -/
def Attn.positions (a : Attn) (page : Nat) : List Nat :=
  let lo := max (a.dw 3) (page * a.spp)
  (List.range (min (a.dw 4) ((page + 1) * a.spp) - lo)).map (· + lo)

/-- A unit, a merge or the completion word acts for the issuing warp. -/
def Attn.agent (a : Attn) (kind eng : Nat) : Agent :=
  { asid := a.asid, priv := a.priv, by_ := { kind := kind, eng := eng, seq := a.serial, warp := some a.warp, asid := a.asid } }

/-- A failure in a unit (R276): OPC 0xFE. -/
def Attn.unitFail (a : Attn) (unit sub detail addr : Nat) : EFail := engineFail unit 0 0xFE a.serial sub detail addr

/-! ## ATTN (R271, R272) -/

/-- Reason 2: a reserved field, DC = 3, CW or OUT malformed. -/
def attnBad (q : List W64) : Bool :=
  let dw := fun i => ((q[i]?).getD 0).toNat
  bits (dw 5) 63 32 != 0 || bits (dw 2) 31 10 != 0 || bits (dw 2) 9 8 == 3 || dw 7 == 0 || dw 7 % 8 != 0
  || bits (dw 7) 63 57 != 0 || dw 6 % 64 != 0

/-- The home stack of a page in HBM (R270). -/
def homeStack (r : PartRange) (frame : Nat) : Nat := 2 * r.quarter + (frame - tierBase r 0) % (2 * r.count)

/-- The unit of the next group of a page, in round robin over the units of its home stack. -/
def nextUnit (s : State) (page : Nat) : Nat × State :=
  match ctxWalk s s.ctx page with
  | .leaf l =>
    if leafTier l then (128, s)
    else
      let st := homeStack (rangeOf s.parts s.ctx) (leafPA l page / 2 ^ 18)
      let u := tabGet 0 st s.dev.rr
      (16 * st + u, { s with dev := { s.dev with rr := tabSet 0 st ((u + 1) % 16) s.dev.rr } })
  | .fail _ _ => (128, s)

/-- The page groups of a request, in page order. -/
def pageGroups (vbase : Nat) : List Nat → State → List AttnGroup × State
  | [], s => ([], s)
  | p :: ps, s =>
    let u := nextUnit s (vbase + p * 2 ^ 18)
    let r := pageGroups vbase ps u.2
    ({ page := p, unit := u.1 } :: r.1, r.2)

/-- The serial of the next request of a die. -/
def attnSerial (s : State) : Nat := if s.die = 0 then s.dev.serial0 else s.dev.serial1
def countAttn (s : State) : State :=
  { s with dev := if s.die = 0 then { s.dev with serial0 := s.dev.serial0 + 1 } else { s.dev with serial1 := s.dev.serial1 + 1 } }

/-- The request is posted. -/
def postAttn (e : HEnt) (q : List W64) (ec : Nat) (s : State) : State :=
  let dw := fun i => ((q[i]?).getD 0).toNat
  let p0 := dw 3 / e.spp
  let gs := pageGroups e.vbase ((List.range ((dw 4 - 1) / e.spp + 1 - p0)).map (· + p0)) s
  let a0 : Attn := { id := s.nextId, serial := attnSerial s, die := s.die, asid := s.ctx.asid, warp := s.w.uid, priv := s.w.cur.priv
                     op := s.nextId, ec := ec, req := q, vbase := e.vbase, slog := e.dw 4 % 32, groups := gs.1 }
  let bytes := (dw 4 - dw 3) * 4 * a0.rows + 2 * a0.rows
  let a := { a0 with cost := copyCost ec bytes 0 }
  let s1 := countAttn gs.2
  { s1 with
    nextId := s1.nextId + 1
    attns := s1.attns ++ [a]
    w := s1.w.addOp a.id .tl (.attn a.id) [] 0 false 0 }

/-- ATTN. -/
def attn (d a : BitVec 6) (ec : BitVec 2) (w : BitVec 1) (s : State) : State :=
  let q := sampled ((List.range 8).map (argS s a)) s
  let h := q.headD 0
  let dw := fun i => ((q[i]?).getD 0).toNat
  inRange (a.toNat % 8 == 0) s fun s => notDawn s fun s => withRoom .tl s fun s => notSpec 4 s fun s =>
    match checkHandle s s.ctx 1 h with
    | .error sub => handleTrap sub h (dw 4 - 1) s
    | .ok e =>
      let rows := (bits (dw 2) 7 0 + 1) * (64 * 2 ^ bits (dw 2) 9 8)
      if 0 < dw 4 ∧ (dw 4 - 1) / e.spp ≥ hBound h then handleTrap 0x04 h (dw 4 - 1) s
      else if dw 4 > e.tlen then handleTrap 0x06 h (dw 4 - 1) s
      else if attnBad q then softFail d 2 s
      else if e.slotb < 4 * rows then softFail d 3 s
      else if dw 3 ≥ dw 4 then softFail d 4 s
      else keeping q s fun s =>
        if (s.attns.filter (fun x => x.die == s.die)).length ≥ 256 then (if w = 0 then softFail d 1 s else parkHere s)
        else afterFence 4 s fun s => putS d 1 (postAttn e q ec.toNat s)

def execAttn (d a : BitVec 6) (e : BitVec 2) (w : BitVec 1) (s : State) : Out := .next (attn d a e w s)

/-! ## The units (R273) -/

/-- A bf16 value in memory. -/
def bf16At (rd : Nat → Byte) (a : Nat) : FVal := fdecode fmtBF16 (rdNat rd a 2)

/-- One rounding to f32 by RNE. -/
def rne32 (x : Exact) : Nat := (fround fmtF32 1 false false x).bits
def mulF32 (x y : Nat) : Nat := rne32 (fmul (fdecode fmtF32 x) (fdecode fmtF32 y)).1
def addF32 (x y : Nat) : Nat := rne32 (fadd 1 (fdecode fmtF32 x) (fdecode fmtF32 y)).1
def subF32 (x y : Nat) : Nat := rne32 (fadd 1 (fdecode fmtF32 x) (fneg (fdecode fmtF32 y))).1

/-- The score t(p) of a head at a position. -/
def attnScore (rd : Nat → Byte) (a : Attn) (h p : Nat) : Nat :=
  let z := dotFrom 16 0 ((List.range a.dim).map (fun d =>
    (bf16At rd (a.dw 1 + 2 * h * a.dim + 2 * d), bf16At rd (a.slotAt p + 2 * h * a.dim + 2 * d))))
  mulF32 z (bits (a.dw 5) 31 0)

/-- m, s and the weight of each position of a head; none when the triple is NaN or empty. -/
def attnWeights (ts : List Nat) : Nat × Nat × List Nat :=
  let m := ts.foldl (fun m t => fmaxBits fmtF32 m t) 0xFF800000
  let es := ts.map (fun t => (onF32 (spOp 0) {} (w32 (subF32 t m)) 0 0).1.toNat)
  (m, es.foldl addF32 0, es)

/-- a(d). -/
def attnSum (rd : Nat → Byte) (a : Attn) (h d : Nat) (ps es : List Nat) : Nat :=
  (ps.zip es).foldl (fun acc p =>
    addF32 acc (mulF32 p.2 (rdNat rd (a.slotAt p.1 + 2 * a.rows + 2 * h * a.dim + 2 * d) 2 * 65536))) 0

/-- The triples of a head for a group, by dimension. -/
def attnTriples (rd : Nat → Byte) (a : Attn) (h : Nat) (ps : List Nat) : List (List Nat) :=
  let ts := ps.map (attnScore rd a h)
  let r := attnWeights ts
  let nan := canonNaN fmtF32
  if ts.any (fun t => isNaN (fdecode fmtF32 t)) || r.1 == 0x7F800000 then List.replicate a.dim [nan, nan, nan]
  else if r.1 = 0xFF800000 then List.replicate a.dim [0xFF800000, 0, 0]
  else (List.range a.dim).map (fun d => [r.1, r.2.1, attnSum rd a h d ps r.2.2])

/-- Change a request. -/
def modAttn (id : Nat) (f : Attn → Attn) (s : State) : State := { s with attns := modFirst (fun a => a.id == id) f s.attns }
def modGroup (id g : Nat) (f : AttnGroup → AttnGroup) (s : State) : State :=
  modAttn id (fun a => { a with groups := (List.range a.groups.length).zip a.groups |>.map (fun p => if p.1 = g then f p.2 else p.2) }) s

/-- What a group reads: its slots' K and V, and the query. -/
def attnReads (a : Attn) (page : Nat) : List (Nat × Nat) :=
  (a.positions page).map (fun p => (a.slotAt p, 4 * a.rows)) ++ [(a.dw 1, 2 * a.rows)]

/-- What a group writes: one element of every row of the workspace. -/
def attnWrites (a : Attn) (g : Nat) : List (Nat × Nat) := (List.range a.rows).map (fun r => (a.workAt r g, 12))

/-- A failure of a request. -/
def failAttn (id : Nat) (f : EFail) (s : State) : State := modAttn id (fun a => { a with fail := some f }) s

/-- The first poisoned slot, or granule of the query, of a group (R276). -/
def attnPoison (s : State) (ag : Agent) (a : Attn) (page : Nat) : Option Nat :=
  (((a.positions page).find? (fun p => rangesPoi s ag false [(a.slotAt p, 4 * a.rows)])).map a.slotAt).orElse (fun _ =>
    ((granules (a.dw 1) (2 * a.rows)).find? (fun x => agentPoi s ag false (max (a.dw 1) (64 * x)))).map (64 * ·))

/-- A unit reads a page group and writes its triples. -/
def runGroup (a : Attn) (g : Nat) (x : AttnGroup) (unit : Nat) (s : State) : State :=
  let ag := a.agent 3 unit
  match rangesFault s ag false .read (attnReads a x.page), rangesFault s ag false .write (attnWrites a g) with
  | some f, _ => failAttn a.id (a.unitFail unit 4 f.1 f.2) s
  | none, some f => failAttn a.id (a.unitFail unit 4 f.1 f.2) s
  | none, none => match attnPoison s ag a x.page with
    | some at_ => failAttn a.id (a.unitFail unit 5 0 at_) s
    | none =>
      if rangeHeld s ag false (attnWrites a g) then s
      else
        let rd := agentByte s ag false
        let ts := (List.range a.heads).flatMap (fun h => attnTriples rd a h (a.positions x.page))
        let out := ((List.range ts.length).zip ts).flatMap (fun p => outBytes (a.workAt p.1 g) (p.2.flatMap (toBytes 4)))
        let r := agentPut ag false out s
        modAttn a.id (fun a => { a with wct := max a.wct r.2 }) (modGroup a.id g (fun x => { x with done := true }) r.1)

/-- The leaf of a group's page. -/
def groupLeaf (s : State) (a : Attn) (x : AttnGroup) : WalkRes :=
  match s.findCtx a.asid with
  | some c => ctxWalk s c (a.vbase + x.page * 2 ^ 18)
  | none => .fail 0 0

/-- The home stack of a group's page, where it stands in HBM. -/
def groupStack (s : State) (a : Attn) (x : AttnGroup) : Option Nat :=
  match s.findCtx a.asid, groupLeaf s a x with
  | some c, .leaf l =>
    if leafTier l then none
    else some (homeStack (rangeOf s.parts c) (leafPA l (a.vbase + x.page * 2 ^ 18) / 2 ^ 18))
  | _, _ => none

/-- The unit may serve the group: the one it went to, or any while its page has no home stack (R270; 03 R33). -/
def unitServes (s : State) (a : Attn) (x : AttnGroup) (unit : Nat) : Bool :=
  !x.done && decide (unit < Config.attentionUnits) && (x.unit == unit || (x.unit == 128 && (groupStack s a x).isNone))

/-- A group whose page has come to HBM, or to another stack, goes to that stack's next unit in its round robin (R270). -/
def rehome (id g : Nat) (s : State) : State :=
  match (s.attns.find? (fun a => a.id == id)).bind (fun a => (a.groups[g]?).map (fun x => (a, x))) with
  | none => s
  | some (a, x) => match groupStack s a x with
    | none => s
    | some st =>
      if x.unit / 16 = st ∨ x.done ∨ a.fail.isSome then s
      else
        let u := tabGet 0 st s.dev.rr
        modGroup id g (fun x => { x with unit := 16 * st + u }) { s with dev := { s.dev with rr := tabSet 0 st ((u + 1) % 16) s.dev.rr } }

/-- Pay what LEVEL covers of a request's debit; k goes on when all is paid. -/
def payAttn (a : Attn) (s : State) (k : State → State) : State :=
  let p := payPieces a.asid (4 * 2 ^ a.ec) a.cost s
  let s1 := modAttn a.id (fun a => { a with cost := p.1 }) p.2
  if p.1 = 0 then k s1 else s1

/-- An HBM frame is free for a migration. -/
def canMigrate (s : State) (a : Attn) : Bool := match s.findCtx a.asid with
  | some c => (freeFrame s (rangeOf s.parts c) 0).isSome
  | none => false

/-- A migration asked of Ablas's chain of the die for an absent page, where an HBM frame is free (R275). -/
def askMigration (a : Attn) (g : Nat) (x : AttnGroup) (s : State) : State :=
  if !canMigrate s a then s
  else
    let va := a.vbase + x.page * 2 ^ 18
    match s.ablas.find? (fun r => r.asid == a.asid && r.va == va) with
    | some r => modGroup a.id g (fun x => { x with mig := r.seq }) s
    | none => modGroup a.id g (fun x => { x with mig := s.nextId }) { s with
        nextId := s.nextId + 1, ablas := s.ablas ++ [{ die := a.die, seq := s.nextId, asid := a.asid, va := va }] }

/-- ATTN_PAGE_GROUP_DONE: a present page is read; an absent one is skipped, and for T = 1 its migration requested. -/
def attnGroup (id g unit : Nat) (s0 : State) : State :=
  let s := rehome id g s0
  match s.attns.find? (fun a => a.id == id) with
  | none => s
  | some a => match a.groups[g]? with
    | none => s
    | some x =>
      if !unitServes s a x unit ∨ x.absent ∨ a.fail.isSome then s
      else payAttn a s fun s => match groupLeaf s a x with
        | .fail _ _ => runGroup a g x unit s
        | .leaf l =>
          if leafTier l ∨ leafM l then
            let s1 := modGroup id g (fun x => { x with absent := true }) s
            if leafTier l then askMigration a g x s1 else s1
          else runGroup a g x unit s

def execAttnPageGroupDone (req group unit : Nat) (s : State) : Out := .next (attnGroup req group unit s)

/-- The migration requested for a group is not complete. -/
def migrating (s : State) (x : AttnGroup) : Bool := x.mig != 0 && s.ablas.any (fun r => r.seq == x.mig)

/-- ATTN_ABSENT_PAGE_READ: once every present group is done, a skipped page is read when its migration is complete, or
from the second tier when no HBM frame is free. -/
def attnAbsent (id g unit : Nat) (s0 : State) : State :=
  let s := rehome id g s0
  match s.attns.find? (fun a => a.id == id) with
  | none => s
  | some a => match a.groups[g]? with
    | none => s
    | some x =>
      if !unitServes s a x unit ∨ !x.absent ∨ a.fail.isSome ∨ a.groups.any (fun y => !y.absent && !y.done) then s
      else match groupLeaf s a x with
        | .fail _ _ => runGroup a g x unit s
        | .leaf l =>
          if migrating s x ∨ leafM l then s
          else if leafTier l ∧ canMigrate s a then askMigration a g x s
          else runGroup a g x unit s

def execAttnAbsentPageRead (req group unit : Nat) (s : State) : Out := .next (attnAbsent req group unit s)

/-! ## The merge and the completion word (R274, R276) -/

/-- Element g of a row of the workspace. -/
def workElem (s : State) (ag : Agent) (a : Attn) (r g : Nat) : Except RFault RVal :=
  if rangesPoi s ag false [(a.workAt r g, 12)] then .error { code := 0x06 }
  else .ok ((List.range 3).map (fun k => w32 (agentNat s ag (a.workAt r g + 4 * k) 4)))

/-- The merge of one row. -/
def mergeRow (f : RFun) (s : State) (ag : Agent) (a : Attn) (r : Nat) : RRes :=
  foldSeq f ((List.range a.groups.length).map (workElem s ag a r))

/-- The bytes of some rows of OUT. -/
def rowBytes (a : Attn) (rows : List (Nat × RRes)) : List Out8 := rows.flatMap (fun p => match p.2 with
  | .ok v => outBytes (a.outAt p.1) (v.1.flatMap (fun x => toBytes 4 x.toNat))
  | .error _ => [])

/-- The merge writes every row, or fails: some rows of OUT may then be new (R276). -/
def mergeRows (a : Attn) (eng : Nat) (f : RFun) (s : State) : State :=
  let ag := a.agent 1 eng
  let fail := fun sub detail addr => failAttn a.id (engineFail eng 0 0xFC a.serial sub detail addr) s
  let res := (List.range a.rows).map (mergeRow f s ag a)
  match rangeFault s ag false .read a.work (12 * a.groups.length * a.rows), rangeFault s ag false .write a.out (12 * a.rows) with
  | some x, _ => fail 4 x.1 x.2
  | none, some x => fail 4 x.1 x.2
  | none, none => match res.findSome? (fun r => match r with
      | .error x => some x
      | .ok _ => none) with
    | some x =>
      let some_ := ((List.range res.length).zip res).filter (fun p => (Config.freeByte s.tick p.1).getLsbD 0)
      let r := if rangeHeld s ag false [(a.out, 12 * a.rows)] then (s, 0) else agentPut ag false (rowBytes a some_) s
      modAttn a.id (fun a => { a with wct := max a.wct r.2 })
        (failAttn a.id (engineFail eng 0 0xFC a.serial 8 (if x.code = 0x06 then 1 else 0) a.work) r.1)
    | none =>
      if rangeHeld s ag false [(a.out, 12 * a.rows)] then s
      else
        let r := agentPut ag false (rowBytes a ((List.range res.length).zip res)) s
        modAttn a.id (fun a => { a with merged := true, eng := eng, wct := max a.wct r.2 }) r.1

/-- ATTN_MERGE: FOLD along axis 1 with handle 13, by a copy engine of the issuing die. -/
def attnMerge (id eng : Nat) (s : State) : State :=
  match s.attns.find? (fun a => a.id == id), builtin s.tick 0 13 with
  | some a, some f =>
    if a.fail.isSome ∨ a.merged ∨ !a.groups.all (·.done) ∨ eng ≥ Config.engines ∨ eng / 48 ≠ a.die then s else mergeRows a eng f s
  | _, _ => s

def execAttnMerge (req eng : Nat) (s : State) : Out := .next (attnMerge req eng s)

/-- A completion word in the layout of 09 R198. -/
def doneWord (fail : Option EFail) (rs ig : Bool) (nint cookie : Nat) : W64 :=
  w64 (2 ^ 63 + bitOf fail.isSome * 2 ^ 62 + bitOf rs * 2 ^ 61 + bitOf ig * 2 ^ 60 + (fail.map (·.sub)).getD 0 % 16 * 2 ^ 56
    + (fail.map (·.detail)).getD 0 % 16 * 2 ^ 52 + min nint 0xFFFFF * 2 ^ 32 + cookie)

/-- What a failed request leaves of its workspace: nobody says (R276). -/
def spoilWork (a : Attn) (ag : Agent) (s : State) : State :=
  let n := 12 * a.groups.length * a.rows
  if a.fail.isNone || (rangeFault s ag false .write a.work n).isSome || rangeHeld s ag false [(a.work, n)] then s
  else (agentPut ag false (outBytes a.work ((List.range n).map (Config.freeByte s.tick))) s).1

/-- ATTN_COMPLETION: a release; the word cannot be written where CW fails to translate. -/
def attnCompletion (id : Nat) (s : State) : State :=
  match s.attns.find? (fun a => a.id == id) with
  | none => s
  | some a =>
    let ag := a.agent 3 a.eng
    if (a.fail.isNone && !a.merged) || decide (s.time ≤ a.wct) || rangeHeld s ag false [(a.cw, 8)] then s
    else
      let s1 := spoilWork a ag { s with attns := s.attns.filter (fun x => x.id != id) }
      match rangeFault s ag false .write a.cw 8 with
      | some f => retireWork a.warp a.op a.wct 0 (a.fail.orElse (fun _ => some (engineFail a.eng 0 0xFC a.serial 4 f.1 f.2))) s1
      | none =>
        let r := agentPut ag false (outBytes a.cw (toBytes 8 (doneWord a.fail false false 0 a.cookie).toNat)) s1
        retireWork a.warp a.op (max a.wct r.2) 0 a.fail r.1

def execAttnCompletion (req : Nat) (s : State) : Out := .next (attnCompletion req s)

/-- ATTENTION_UNIT_RESET: the outstanding requests with a group at the unit fail with sub-code 6 (R276). -/
def unitReset (unit : Nat) (s : State) : State :=
  { s with attns := s.attns.map (fun a =>
      if a.fail.isNone && a.groups.any (fun x => x.unit == unit && !x.done) then { a with fail := some (a.unitFail unit 6 0 0) } else a) }

def execAttentionUnitReset (unit : Nat) (s : State) : Out := .next (unitReset unit s)

end Sys2Proof.Machine
end

