-- ==== Sys2Proof/Machine/Orrery.lean ====
section
/-! DEFINITION. The Orrery (09 R192 to R218): problem records, OPOST, stages and their requests, direct fills, steps,
conversion, sinks, self-test, and how walks stop and end (10 R231, R232, R234). -/

namespace Sys2Proof.Machine

open Sys2Proof

/-! ## Problem records (R192, R193, R201, R205 to R207) -/

/-- The eight dwords of a problem record. -/
abbrev PRec := List W64

def PRec.dw (r : PRec) (i : Nat) : Nat := ((r[i]?).getD 0).toNat
def PRec.m (r : PRec) : Nat := bits (r.dw 0) 23 0
def PRec.n (r : PRec) : Nat := bits (r.dw 0) 47 24
def PRec.k (r : PRec) : Nat := bits (r.dw 1) 23 0
/-- Walk tile T and K-step S. -/
def PRec.t (r : PRec) : Nat := 32 * 2 ^ bits (r.dw 0) 49 48
def PRec.s (r : PRec) : Nat := 32 * 2 ^ bits (r.dw 0) 51 50
def PRec.order (r : PRec) : Nat := bits (r.dw 0) 54 52
def PRec.sparse (r : PRec) : Nat := bits (r.dw 0) 56 55
def PRec.ec (r : PRec) : Nat := bits (r.dw 0) 58 57
def PRec.policy (r : PRec) : Nat := bits (r.dw 0) 60 59
/-- Stage positions per operand: the depth (field + 1) and one more (R202). -/
def PRec.positions (r : PRec) : Nat := bits (r.dw 0) 63 61 + 2
def PRec.aType (r : PRec) : Nat := bits (r.dw 1) 27 24
def PRec.bType (r : PRec) : Nat := bits (r.dw 1) 31 28
def PRec.dType (r : PRec) : Nat := bits (r.dw 1) 35 32
def PRec.batches (r : PRec) : Nat := bits (r.dw 1) 51 36 + 1
def PRec.tmo (r : PRec) : Nat := bits (r.dw 1) 63 53
def PRec.htab (r : PRec) : Nat := bits (r.dw 2) 15 0
def PRec.cw (r : PRec) : Nat := r.dw 6
def PRec.cookie (r : PRec) : Nat := bits (r.dw 7) 31 0
/-- The source of an operand (0 A, 1 B) or the sink (2): the address of its descriptor. -/
def PRec.src (r : PRec) (o : Nat) : Nat := r.dw (3 + o)
/-- Units (R205) and steps per tile (R201). -/
def PRec.units (r : PRec) : Nat := 128 / r.t
def PRec.steps (r : PRec) : Nat := r.k / r.s
def PRec.rows (r : PRec) : Nat := r.m / r.t
def PRec.cols (r : PRec) : Nat := r.n / r.t
/-- Tiles of the tile list, tiles and steps of a unit. -/
def PRec.tiles (r : PRec) : Nat := r.rows * r.cols * r.batches
def PRec.unitTiles (r : PRec) (u : Nat) : Nat := (r.tiles + r.units - 1 - u) / r.units
def PRec.unitSteps (r : PRec) (u : Nat) : Nat := r.unitTiles u * r.steps
/-- The debit of a step in quarter units (R213). -/
def PRec.debit (r : PRec) : Nat := 4 / r.units * 2 ^ r.ec

/-- A type with a scale area (R207). -/
def PRec.narrow (ty : Nat) : Bool := decide (3 ≤ ty) && decide (ty ≤ 6)
def PRec.opType (r : PRec) (o : Nat) : Nat := if o = 0 then r.aType else r.bType
/-- Columns of a stage. -/
def PRec.stageCols (r : PRec) (o : Nat) : Nat := if o = 0 ∧ r.sparse ≠ 0 then r.s / 2 else r.s
/-- Bytes of T rows of bricks. -/
def PRec.brickBytes (r : PRec) (ty cols : Nat) : Nat := r.t / 32 * ceilDiv cols (brickW (typeWidth ty)) * 4096
/-- Metadata words of a row, and bytes of a stage's metadata (R70). -/
def PRec.metaWords (r : PRec) : Nat := if r.sparse = 1 then r.s / 32 else if r.sparse = 2 then r.s / 16 else 0
def PRec.metaOff (r : PRec) (o : Nat) : Nat := r.brickBytes (r.opType o) (r.stageCols o)
def PRec.metaLen (r : PRec) (o : Nat) : Nat := if o = 0 then 4 * r.t * r.metaWords else 0
def PRec.scaleOff (r : PRec) (o : Nat) : Nat := r.metaOff o + roundUp (r.metaLen o) 8
/-- Bytes of the row scales, padded. -/
def PRec.rowScales (r : PRec) : Nat := roundUp (2 * r.t) 8
def PRec.scaleBytes (r : PRec) (o : Nat) : Nat := if PRec.narrow (r.opType o) then r.rowScales + 8 * r.t else 0
def PRec.stageLen (r : PRec) (o : Nat) : Nat := r.scaleOff o + r.scaleBytes o
/-- Z, one size for both operands (notes/assumptions/41.md). -/
def PRec.z (r : PRec) : Nat := roundUp (max (r.stageLen 0) (r.stageLen 1)) 4096
def PRec.footprint (r : PRec) : Nat := 2 * r.units * r.positions * r.z
/-- D, the bytes of a delivery slot. -/
def PRec.slotLen (r : PRec) : Nat := roundUp (r.brickBytes r.dType r.t) 4096

/-- Types that form a pair of R193, and those that may be sparse. -/
def PRec.pairOk (r : PRec) : Bool :=
  let a := r.aType
  let b := r.bType
  (a == b && (decide (a ≤ 2) || a == 5 || a == 6)) || ((a == 3 || a == 4) && (b == 3 || b == 4))
def PRec.sparseOk (r : PRec) : Bool := r.sparse == 0 || (decide (1 ≤ r.aType) && decide (r.aType ≤ 4))
/-- The group of R72. -/
def PRec.group (r : PRec) : Nat := if r.aType = 0 then 1 else if r.aType ≤ 2 then 16 else 32

/-! The tile list (R200) -/

/-- Even bits of a number, compacted. -/
def PRec.evenBits : Nat → Nat → Nat
  | 0, _ => 0
  | n + 1, x => x % 2 + 2 * PRec.evenBits n (x / 4)
/-- The Morton sequence. -/
def PRec.morton (r : PRec) : List (Nat × Nat) :=
  let nb := Nat.log2 (2 * max r.rows r.cols)
  ((List.range (4 ^ nb)).map (fun x => (PRec.evenBits nb (x / 2), PRec.evenBits nb x))).filter
    (fun p => decide (p.1 < r.rows) && decide (p.2 < r.cols))
/-- Tile x of a batch. -/
def PRec.tileOf (r : PRec) (x : Nat) : Nat × Nat :=
  match r.order with
  | 0 => (x / r.cols, x % r.cols)
  | 1 => (x % r.rows, x / r.rows)
  | 2 => (x / r.cols, if x / r.cols % 2 = 0 then x % r.cols else r.cols - 1 - x % r.cols)
  | _ => (r.morton[x]?).getD (0, 0)
/-- Batch, i and j of tile number x of the list. -/
def PRec.place (r : PRec) (x : Nat) : Nat × Nat × Nat :=
  let per := r.rows * r.cols
  (x / per, r.tileOf (x % per))
/-- The number in the list of a unit's tile. -/
def PRec.unitTile (r : PRec) (u x : Nat) : Nat := u + r.units * x
/-- Batch, i, j and k of a unit's step. -/
def PRec.stepPlace (r : PRec) (u st : Nat) : Nat × Nat × Nat × Nat :=
  let p := r.place (r.unitTile u (st / r.steps))
  (p.1, p.2.1, p.2.2, st % r.steps)

/-- W(q) (R206). -/
def windowBase (q : Nat) : Nat := 0x1000000 + (q - 1) * 0x80000
/-- The address of a stage position and of a delivery slot. -/
def stageAddr (r : PRec) (q u o p : Nat) : Nat := windowBase q + ((u * 2 + o) * r.positions + p) * r.z
def slotAddr (r : PRec) (q u : Nat) : Nat := windowBase q + 0x50000 + u * r.slotLen

/-- The accumulators of a slot and, above them, their shadows, as places of the accumulator store: the spec says how many
bytes they take, not their order (log 106, DESIGN CHOICE). -/
def accOff (r : PRec) (q n : Nat) : Nat := (q - 1) * 0x80000 + 0x60000 + n * (4 * r.t * r.t)
def shadowOff (r : PRec) (q u : Nat) : Nat := accOff r q (r.units + u)

/-- A descriptor of bricks in the scratchpad space. -/
def brickDesc (base rows cols ty : Nat) : Desc :=
  BitVec.ofNat 256 (base % 2 ^ 32 + rows * 2 ^ 64 + cols * 2 ^ 88 + ty * 2 ^ 144 + 2 * 2 ^ 148 + 2 ^ 255)
def stageDesc (r : PRec) (q u o p : Nat) : Desc := brickDesc (stageAddr r q u o p) r.t (r.stageCols o) (r.opType o)
def slotDesc (r : PRec) (q u : Nat) : Desc := brickDesc (slotAddr r q u) r.t r.t r.dType

/-! ## Walks in State -/

def WalkS.id (w : WalkS) : W64 := w64 (w.slot * 2 ^ 32 + w.serial)
def WalkS.prob (w : WalkS) : PRec := w.rec_
def WalkS.direct (w : WalkS) (o : Nat) : Option Direct := if o = 0 then w.a else if o = 1 then w.b else w.c
def WalkS.unit (w : WalkS) (u : Nat) : UnitS := (w.units[u]?).getD {}
def WalkS.modUnit (w : WalkS) (u : Nat) (f : UnitS → UnitS) : WalkS :=
  { w with units := ((List.range w.units.length).zip w.units).map (fun p => if p.1 = u then f p.2 else p.2) }
def UnitS.stage (x : UnitS) (o p : Nat) : Stage := tabGet {} (o * 16 + p) x.stages
def UnitS.setStage (x : UnitS) (o p : Nat) (st : Stage) : UnitS := { x with stages := tabSet {} (o * 16 + p) st x.stages }
def WalkS.entry (w : WalkS) (kind : Nat) : HEntry := (w.tab[kind]?).getD {}
/-- The walk has neither stopped nor ended. -/
def WalkS.live (w : WalkS) : Bool := w.ended.isNone

def State.findWalk (s : State) (core slot : Nat) : Option WalkS := (s.getCore core).walks.find? (fun w => w.slot == slot)
def modWalk (core slot : Nat) (f : WalkS → WalkS) (s : State) : State :=
  s.modCore core (fun c => { c with walks := modFirst (fun w => w.slot == slot) f c.walks })
def modUnit (core slot u : Nat) (f : UnitS → UnitS) (s : State) : State := modWalk core slot (fun w => w.modUnit u f) s

/-- The Orrery of a core. -/
def State.orr (s : State) (core : Nat) : Orrery := (s.orrs.find? (fun o => o.core == core)).getD { core := core }
def modOrr (core : Nat) (f : Orrery → Orrery) (s : State) : State :=
  if s.orrs.any (fun o => o.core == core) then { s with orrs := modFirst (fun o => o.core == core) f s.orrs }
  else { s with orrs := s.orrs ++ [f { core := core }] }

/-- On whose behalf a walk reads and writes: the walk's context and the mode of the split that posted it. -/
def walkAgent (w : WalkS) : Agent :=
  { asid := w.asid, priv := w.priv, by_ := { kind := 2, seq := w.serial, warp := some w.warp, asid := w.asid } }

/-- A failure of a walk (R199). -/
def walkFail (w : WalkS) (sub detail addr : Nat) : EFail := engineFail 0x7F w.slot 0xFF w.serial sub detail addr

/-! ## The window (R206, R224) -/

def openWindow (team addr len : Nat) (c : Core) : Core := { c with windows := c.windows ++ [(team, addr, len)] }
def closeWindow (addr : Nat) (c : Core) : Core := { c with windows := c.windows.filter (fun x => x.2.1 != addr) }
/-- Every window of a slot. -/
def closeSlot (q : Nat) (c : Core) : Core :=
  { c with windows := c.windows.filter (fun x => !(decide (windowBase q ≤ x.2.1) && decide (x.2.1 < windowBase q + 0x80000))) }
/-- The contents of a slot's part of the accumulator store are lost (10 R234). -/
def loseSlot (tick q : Nat) (c : Core) : Core :=
  let out := fun o => o / 0x80000 != q - 1
  { c with
    acc := c.acc.filter (fun p => out p.1), ap := c.ap.filter (fun g => out (64 * g))
    lost := tabIns (q - 1) tick (tabDel (q - 1) c.lost) }

/-- A byte of the window as the Orrery reads it. -/
def winByte (c : Core) (a : Nat) : Byte := accByte c (a - 0x1000000)
/-- Whether the granule of a window address is poisoned. -/
def winPoi (c : Core) (a : Nat) : Bool := granPoisoned c.ap (a - 0x1000000) 1
/-- The Orrery or an engine writes the window. -/
def winPut (out : List Out8) (c : Core) : Core :=
  writeLocals ((packOut out).map (fun p => (.acc (p.1 - 0x1000000), p.2))) c

/-! ## OPOST (R195 to R197, R208) -/

/-- Reason 2. -/
def recReserved (r : PRec) : Bool :=
  bits (r.dw 0) 63 61 == 0 || decide (r.policy ≥ 2) || r.sparse == 3 || decide (r.order ≥ 4) || bits (r.dw 0) 49 48 == 3
  || bit (r.dw 1) 52 || bits (r.dw 2) 63 16 != 0 || bits (r.dw 7) 63 32 != 0
  || decide (r.aType ≥ 14) || decide (r.bType ≥ 14) || decide (r.dType ≥ 14)
  || r.cw == 0 || r.cw % 8 != 0 || bits r.cw 63 57 != 0

/-- Reason 4. -/
def recShape (r : PRec) : Bool :=
  r.m == 0 || r.n == 0 || r.k == 0 || r.m % r.t != 0 || r.n % r.t != 0 || r.k % r.s != 0

/-- Reason 5: the handler table. -/
def recTable (c : Ctx) (r : PRec) : Option (List HEntry) :=
  match c.htabs.find? (fun p => p.1 == r.htab) with
  | some p => some p.2
  | none => if r.htab = 0 then some [] else none
def recHandlers (r : PRec) (tab : List HEntry) : Bool :=
  (List.range 3).all (fun o => r.src o != 0 || ((tab[o]?).getD {}).present)

/-- The shape of a direct descriptor by role. -/
def directShape (r : PRec) (o : Nat) : Nat × Nat :=
  if o = 0 then (r.m, if r.sparse = 0 then r.k else r.k / 2) else if o = 1 then (r.n, r.k) else (r.m, r.n)

/-- The layouts of a role. -/
def directLayout (r : PRec) (o l : Nat) : Bool := decide (l ≤ 1) || (l == 3 && decide (o ≤ 1) && !(o == 0 && r.sparse != 0))

/-- A direct descriptor as OPOST reads it, where it passes (R208). -/
def readDirect (s : State) (r : PRec) (o : Nat) : Option Direct :=
  let g : Agent := { asid := s.ctx.asid, priv := s.w.cur.priv }
  let a := r.src o
  if a % 64 ≠ 0 ∨ (rangeFault s g false .read a 64).isSome ∨ rangesPoi s g false [(a, 64)] then none
  else
    let dw := fun i => agentNat s g (a + 8 * i) 8
    let d : Desc := BitVec.ofNat 256 (agentNat s g a 32)
    let ty := if o = 2 then r.dType else r.opType o
    let sp := o = 0 ∧ r.sparse ≠ 0
    if dMalformed d || dSpace d || dw 7 != 0 || dType d != ty || !directLayout r o (dLayout d)
      || (dRows d, dCols d) != directShape r o || (!sp && (dw 5 != 0 || dw 6 != 0)) || (decide sp && dw 5 % 8 != 0) then none
    else some { desc := d, bstride := dw 4, meta_ := dw 5, mstride := dw 6 }

/-- Every nonzero descriptor passes (reason 6). -/
def directsOk (s : State) (r : PRec) : Bool := (List.range 3).all (fun o => r.src o == 0 || (readDirect s r o).isSome)

/-- The first reason against a record. -/
def opostReason (s : State) (r : PRec) : Option Nat :=
  if recReserved r then some 2
  else if !r.pairOk || decide (r.dType ≥ 7) || !r.sparseOk then some 3
  else if recShape r then some 4
  else if !((recTable s.ctx r).map (recHandlers r)).getD false then some 5
  else if !directsOk s r then some 6
  else if r.footprint > 320 * 1024 then some 7
  else if (s.orr s.core.num).fenced.length ≥ 4 then some 8
  else none

/-- The record with the class raised. -/
def raiseEC (r : PRec) (e : Nat) : PRec :=
  w64 (r.dw 0 - r.ec * 2 ^ 57 + max r.ec e * 2 ^ 57) :: r.drop 1

/-- The slot a walk is bound to, if it is free and not another's to take. -/
def walkSlot (taken : List Nat) (c : Core) (ch : Nat) : Option Nat :=
  let free := fun q => !taken.contains q && !c.walks.any (fun w => w.slot == q)
  if ch = 0 then [1, 2, 3, 4].find? free else if free ch then some ch else none

/-- A direct descriptor among the operands that a parked OPOST keeps: eight words. -/
def directWords (x : Option Direct) : List W64 :=
  match x with
  | none => List.replicate 8 0
  | some x => (List.range 4).map (fun i => x.desc.extractLsb' (64 * i) 64) ++ [w64 x.bstride, w64 x.meta_, w64 x.mstride, 0]
def wordsDirect (l : List W64) : Direct :=
  let dw := fun i => ((l[i]?).getD 0).toNat
  { desc := BitVec.ofNat 256 ((List.range 4).foldl (fun n i => n + dw i * 2 ^ (64 * i)) 0), bstride := dw 4, meta_ := dw 5, mstride := dw 6 }

/-- What an OPOST keeps once it has been judged: the record, the direct descriptors as read, CH. -/
def postArgs (s : State) (r : PRec) (ch : Nat) : List W64 :=
  r ++ (List.range 3).flatMap (fun o => directWords (if r.src o = 0 then none else readDirect s r o)) ++ [w64 ch]
def postedDirect (x : List W64) (o : Nat) : Option Direct :=
  if PRec.src x o = 0 then none else some (wordsDirect (x.drop (8 + 8 * o)))

/-- The judged OPOSTs of the core that wait for a slot in warps of lower resident slots, in their order. -/
def postsBefore (s : State) : List (List W64) :=
  (List.range s.w.slot).flatMap (fun n => (s.ws.filter (fun w => w.core == s.w.core && w.saved.isNone && !w.ended && w.slot == n)).flatMap
    (fun w => ((w.cur :: w.others).filter (fun p => p.active != 0 && p.arg.length == 33)).map (·.arg)))

/-- The slots that are theirs (R195: lower resident slot first). -/
def slotsTaken (s : State) : List Nat :=
  (postsBefore s).foldl (fun t x => match walkSlot t s.core ((x[32]?).getD 0).toNat with
    | some q => q :: t
    | none => t) []

/-- The walk is bound to its slot, with the handler table as it stands then: of an OPOST that was parked meanwhile too (log 132,
DESIGN CHOICE). -/
def postWalk (x : List W64) (q : Nat) (s : State) : State × W64 :=
  let r : PRec := x.take 8
  let serial := if s.core.serial + 1 ≥ 2 ^ 32 then 1 else s.core.serial + 1
  let op := s.nextId
  let w : WalkS := { slot := q, serial := serial, rec_ := r, asid := s.ctx.asid, team := s.w.team, warp := s.w.uid
                     priv := s.w.cur.priv, op := op, posted := s.time, tab := (recTable s.ctx r).getD []
                     a := postedDirect x 0, b := postedDirect x 1, c := postedDirect x 2, units := List.replicate r.units {} }
  ({ s with
    nextId := op + 1
    core := { s.core with walks := s.core.walks ++ [w], serial := serial }
    w := { (s.w.addOp op .tl (.walk w.id.toNat) [] 0 false 0).modOp op (fun o => { o with hnd := w64 r.htab }) with
      walks := tabIns q { id := w.id } (tabDel q s.w.walks) } }, w.id)

/-- A judged OPOST takes a slot, fails, or parks for one. -/
def postJudged (d : BitVec 6) (ch : Nat) (w : BitVec 1) (x : List W64) (s : State) : State :=
  match walkSlot (slotsTaken s) s.core ch with
  | none => if w = 0 then softFail d 1 s else parkWith x s
  | some q =>
    let p := postWalk x q s
    putS d p.2 p.1

/-- OPOST. The record is read once, and judged once: an OPOST that waits for a slot keeps both. -/
def opost (d a c : BitVec 6) (e : BitVec 2) (w : BitVec 1) (s : State) : State :=
  inRange (a.toNat % 8 == 0 && decide (c.toNat ≤ 4)) s fun s => notDawn s fun s => withRoom .tl s fun s => notSpec 4 s fun s =>
    let x := sampled ((List.range 8).map (argS s a)) s
    if x.length = 33 then postJudged d c.toNat w x s
    else keeping x s fun s => afterFence 4 s fun s =>
      let r := raiseEC x e.toNat
      match opostReason s r with
      | some why => softFail d why s
      | none =>
        if effRate s s.ctx = 0 ∧ s.ctx.ebudLevel < r.debit then takeTrap { code := 0x13, tmask := s.w.cur.active } s
        else postJudged d c.toNat w (postArgs s r c.toNat) s

def execOpost (d a c : BitVec 6) (e : BitVec 2) (w : BitVec 1) (s : State) : Out := .next (opost d a c e w s)

/-! ## Requests (R202; 10 R222) -/

/-- Append an upcall to the pending list of the cohort of its kind. -/
def raiseUpcall (w : WalkS) (u kind pos : Nat) (s : State) : State :=
  s.modTeam w.team (fun t => { t with pending := t.pending ++ [((w.entry kind).cohort, { slot := w.slot, unit := u, kind := kind, pos := pos })] })

/-- A batch's tile of a direct descriptor. -/
def batchDesc (x : Direct) (b : Nat) : Desc := dPut x.desc 63 0 (dField x.desc 63 0 + b * x.bstride)

/-- The part of a layout 0 or 1 tile from (i, j) on, rows × cols. -/
def subTile (d : Desc) (i j rows cols : Nat) : Desc :=
  dPut (dPut (dPut d 63 0 ((tdoffBase d i j).getD 0)) 87 64 rows) 111 88 cols

/-- The part of a descriptor that a stage holds: first row and first column. -/
def fillFrom (w : WalkS) (u o st : Nat) : Nat × Nat × Nat :=
  let p := w.prob.stepPlace u st
  (p.1, (if o = 0 then p.2.1 else p.2.2.1) * w.prob.t, p.2.2.2 * w.prob.stageCols o)

/-- The byte ranges a fill reads of its tile; a layout 3 tile in full (R209). -/
def fillRanges (w : WalkS) (x : Direct) (u o st : Nat) : List (Nat × Nat) :=
  let f := fillFrom w u o st
  let d := batchDesc x f.1
  if dLayout d = 3 then tileRanges d else tileRanges (subTile d f.2.1 f.2.2 w.prob.t (w.prob.stageCols o))

/-- Metadata words of a row of the source, and the range that a fill reads (R70, R208). -/
def metaRow (w : WalkS) : Nat := if w.prob.sparse = 1 then w.prob.k / 8 else w.prob.k / 4
def metaAt (w : WalkS) (x : Direct) (u st row : Nat) : Nat :=
  let f := fillFrom w u 0 st
  x.meta_ + f.1 * x.mstride + (f.2.1 + row) * metaRow w + (w.prob.stepPlace u st).2.2.2 * (4 * w.prob.metaWords)
def metaRanges (w : WalkS) (x : Direct) (u o st : Nat) : List (Nat × Nat) :=
  if o = 0 ∧ w.prob.sparse ≠ 0 then (List.range w.prob.t).map (fun i => (metaAt w x u st i, 4 * w.prob.metaWords)) else []

/-- The debit of a fill (05 R84), and that of the checking pass that a layout 3 source has before it. -/
def fillCost (w : WalkS) (x : Direct) (u o st : Nat) : Nat :=
  copyCost w.prob.ec (rangesLen (fillRanges w x u o st) + rangesLen (metaRanges w x u o st)) (w.prob.stageLen o)
def fillFirst (w : WalkS) (x : Direct) (u o st : Nat) : Nat :=
  if dLayout x.desc = 3 then copyCost w.prob.ec (rangesLen (fillRanges w x u o st)) 0 else fillCost w x u o st

/-- Request one stage of a step. -/
def requestStage (core slot u o st : Nat) (s : State) : State :=
  match s.findWalk core slot with
  | none => s
  | some w =>
    let p := st % w.prob.positions
    let cost := match w.direct o with
      | some x => fillFirst w x u o st
      | none => 0
    let s1 := modUnit core slot u (fun x => x.setStage o p { st := .requested, step := st, raised := s.time, cost := cost }) s
    if (w.direct o).isNone then raiseUpcall w u o p s1 else s1

/-- Request A and then B of a step, if it exists. -/
def requestStep (core slot u st : Nat) (s : State) : State :=
  match s.findWalk core slot with
  | none => s
  | some w => if st < w.prob.unitSteps u then requestStage core slot u 1 st (requestStage core slot u 0 st s) else s

/-- WALK_START: every unit requests the stages of its steps 0 to DEPTH, lowest unit first. -/
def walkStart (core slot : Nat) (s : State) : State :=
  match s.findWalk core slot with
  | none => s
  | some w =>
    if w.started ∨ !w.live then s
    else
      let s1 := modWalk core slot (fun w => { w with started := true }) s
      (List.range w.prob.units).foldl (fun s u =>
        (List.range w.prob.positions).foldl (fun s st => requestStep core slot u st s) s) s1

def execWalkStart (core slot : Nat) (s : State) : Out := .next (walkStart core slot s)

/-! ## Stopping a walk (10 R231, R234) -/

/-- An upcall of the walk with some number, or any of its upcalls, is revoked in the warp that serves it. -/
def revokeIn (w : WalkS) (p : Upcall → Bool) (s : State) : State :=
  let f := fun (x : Warp) => match x.upcall with
    | some u => if u.walk = w.id ∧ x.team = w.team ∧ p u then { x with upcall := some { u with revoked := true } } else x
    | none => x
  { s with w := f s.w, ws := s.ws.map f }

/-- The cohorts that a walk's table names, each with the ENTRY of its first present entry. -/
def cancelEntries (w : WalkS) : List (Nat × W64) :=
  (w.tab.filter (·.present)).foldl (fun l h => if l.any (fun p => p.1 == h.cohort) then l else l ++ [(h.cohort, h.entry)]) []

/-- A warp is parked in a cohort (10 R221). -/
def parkedIn (t : Team) (c uid : Nat) : Bool := (tabGet [] c t.cohorts).contains uid

/-- Each parked warp of the walk's cohorts, and each that has served it, is owed one cancel upcall; a parked warp only in
its own cohort. -/
def oweCancels (w : WalkS) (t : Team) (s : State) : State :=
  let es := cancelEntries w
  let f := fun (x : Warp) =>
    if x.team ≠ w.team ∨ x.dawn ∨ x.ended then x
    else
      let here := es.filter (fun e => parkedIn t e.1 x.uid)
      let mine := if w.served.contains x.uid then es else here
      if mine.isEmpty then x else { x with cancels := x.cancels ++ [{ walk := w.id, posted := w.posted, entries := mine }] }
  { s with w := f s.w, ws := s.ws.map f }

/-- A walk stops: everything of it but its completion word (R234 steps 1 to 5). -/
def stopWalk (core slot : Nat) (rs : Bool) (f : EFail) (s : State) : State :=
  match s.findWalk core slot with
  | none => s
  | some w =>
    if !w.live then s
    else
      let s1 := modWalk core slot (fun w => { w with
        ended := some (rs, f)
        units := w.units.map (fun x => { x with running := false, stages := [], readyAt := none, ready := false, slot := .free }) }) s
      let s2 := (revokeIn w (fun _ => true) s1).modCore core (fun c => loseSlot s.tick slot (closeSlot slot c))
      let s3 := s2.modTeam w.team (fun t => { t with pending := t.pending.filter (fun p => p.2.slot != slot) })
      oweCancels w ((s3.findTeam w.team).getD {}) s3

/-! ## Failed upcalls (10 R232) -/

/-- Raise an upcall again to its cohort, avoiding the warp that failed. -/
def reraise (core slot u kind pos : Nat) (avoid : Option Nat) (s : State) : State :=
  match s.findWalk core slot with
  | none => s
  | some w =>
    let re := fun (x : Stage) => { x with raised := s.time, retry := true, avoid := avoid }
    let s1 := if kind = 2 then
        (modUnit core slot u (fun x => { x with slot := .pending, up := re x.up }) s).modCore core (closeWindow (slotAddr w.prob slot u))
      else
        (modUnit core slot u (fun x => x.setStage kind pos { re (x.stage kind pos) with st := .requested }) s).modCore core
          (closeWindow (stageAddr w.prob slot u kind pos))
    raiseUpcall w u kind pos s1

/-- The stage or slot of an upcall. -/
def upStage (w : WalkS) (u kind pos : Nat) : Stage := if kind = 2 then (w.unit u).up else (w.unit u).stage kind pos

/-- A delivered upcall failed: DETAIL 0 a timeout, 1 a reported failure. -/
def failUpcall (core slot u kind pos detail : Nat) (s : State) : State :=
  match s.findWalk core slot with
  | none => s
  | some w =>
    let x := upStage w u kind pos
    if w.prob.policy = 0 ∨ x.retry then stopWalk core slot false (walkFail w 9 detail 0) s
    else reraise core slot u kind pos (some x.warp) (revokeIn w (fun y => y.seq == x.num) s)

/-- Whether a deadline has been missed. -/
def missed (w : WalkS) (x : Stage) (now : Nat) : Bool := w.prob.tmo != 0 && decide (x.raised + w.prob.tmo * 1000 ≤ now)

/-- The delivered upcall with a number: unit, kind and position. -/
def deliveredUp (w : WalkS) (seq : Nat) : Option (Nat × Nat × Nat) :=
  (List.range w.units.length).findSome? (fun u =>
    let x := w.unit u
    if x.slot = .delivered ∧ x.up.num = seq then some (u, 2, 0)
    else (x.stages.find? (fun p => p.2.st == .given && p.2.num == seq)).map (fun p => (u, p.1 / 16, p.1 % 16)))

/-- An undelivered upcall that times out (R232): pending with a fresh deadline, or the walk ends. -/
def missedPending (core : Nat) (w : WalkS) (t : Team) (s : State) : State :=
  match t.pending.find? (fun p => p.2.slot == w.slot && missed w (upStage w p.2.unit p.2.kind p.2.pos) s.time) with
  | none => s
  | some p =>
    let x := upStage w p.2.unit p.2.kind p.2.pos
    if w.prob.policy = 0 ∨ x.retry then stopWalk core w.slot false (walkFail w 9 0 0) s
    else
      let x1 := { x with raised := s.time, retry := true }
      modUnit core w.slot p.2.unit (fun y => if p.2.kind = 2 then { y with up := x1 } else y.setStage p.2.kind p.2.pos x1) s

/-- UPCALL_TIMEOUT: of the delivered upcall with a number, or of a pending one (number 0). -/
def upcallTimeout (core slot seq : Nat) (s : State) : State :=
  match s.findWalk core slot with
  | none => s
  | some w =>
    if !w.live then s
    else if seq = 0 then (match s.findTeam w.team with
      | some t => missedPending core w t s
      | none => s)
    else match deliveredUp w seq with
      | none => s
      | some (u, kind, pos) =>
        if missed w (upStage w u kind pos) s.time then failUpcall core slot u kind pos 0 s else s

def execUpcallTimeout (core slot seq : Nat) (s : State) : Out := .next (upcallTimeout core slot seq s)

/-! ## Sparse metadata (04 R70, R71) -/

/-- Indices that a group names, and whether its reserved bits are zero. -/
def groupIdx (sp word g : Nat) : List Nat × Bool :=
  if sp = 1 then
    let x := word / 2 ^ (4 * (g % 8)) % 16
    ([x % 4, x / 4], true)
  else
    let x := word / 2 ^ (16 * (g % 2)) % 65536
    ([x % 8, x / 8 % 8, x / 64 % 8, x / 512 % 8], decide (x / 4096 = 0))

/-- The indices rise. -/
def rising : List Nat → Bool
  | a :: b :: t => decide (a < b) && rising (b :: t)
  | _ => true

/-- The word of a group within its row, and groups of a row of a stage. -/
def groupWord (sp g : Nat) : Nat := if sp = 1 then g / 8 else g / 2
def rowGroups (r : PRec) : Nat := if r.sparse = 1 then r.s / 4 else r.s / 8

/-- WHY of a group, if it is invalid; the indices are judged before the reserved bits (log 97, DESIGN CHOICE). -/
def groupBad (sp word g : Nat) : Option Nat :=
  let x := groupIdx sp word g
  if !rising x.1 then some 0 else if !x.2 then some 1 else none

/-- SPARSE: the first invalid group of a stage, its metadata words read by rd (row, word). -/
def sparseFault (r : PRec) (at_ : Nat) (rd : Nat → Nat → Nat) : Option Cause :=
  (List.range r.t).findSome? (fun row => (List.range (rowGroups r)).findSome? (fun g =>
    let k := groupWord r.sparse g
    (groupBad r.sparse (rd row k) g).map (fun why =>
      { code := 0x0E, taddr := w64 (at_ + 4 * (row * r.metaWords + k)), info := why * 2 ^ 32 + g * 2 ^ 16 + row })))

/-! ## Direct fills (R209) -/

/-- A scale word of a stage from a layout 3 source: the bs9 of K indices from first on. -/
def srcScale (rd : Nat → Byte) (d : Desc) (r : PRec) (row first : Nat) : Nat :=
  (List.range (ceilDiv r.s 64)).foldl (fun n k =>
    n + bsAt rd (dBase d + dScale d) (dRows d) (dCols d) row (first / 64 + k) * 2 ^ (9 * k)) 0

/-- The unit scales of a layout 0 or 1 source. -/
def unitScale (r : PRec) : Nat := (List.range (ceilDiv r.s 64)).foldl (fun n k => n + 0x078 * 2 ^ (9 * k)) 0

/-- The scale area of a filled stage. -/
def fillScales (w : WalkS) (rd : Nat → Byte) (d : Desc) (row0 k0 at_ : Nat) : List Out8 :=
  let r := w.prob
  let own := dLayout d = 3
  let rs := (List.range r.t).flatMap (fun i => toBytes 2 (if own then rdNat rd (dBase d + dScale d + rsOff (row0 + i)) 2 else 0x3F80))
  let sw := (List.range r.t).flatMap (fun i => toBytes 8 (if own then srcScale rd d r (row0 + i) k0 else unitScale r))
  outBytes at_ (rs ++ sw)

/-- The bytes of a filled stage. -/
def fillBytes (w : WalkS) (x : Direct) (u o st : Nat) (rd : Nat → Byte) : List Out8 :=
  let r := w.prob
  let f := fillFrom w u o st
  let d := batchDesc x f.1
  let p := st % r.positions
  let at_ := stageAddr r w.slot u o p
  tileBytes (stageDesc r w.slot u o p) (fun i j => (elemGet rd d (f.2.1 + i) (f.2.2 + j), false))
  ++ (if o = 0 ∧ r.sparse ≠ 0 then outBytes (at_ + r.metaOff 0)
      ((List.range r.t).flatMap (fun i => (List.range (4 * r.metaWords)).map (fun b => rd (metaAt w x u st i + b)))) else [])
  ++ (if PRec.narrow (r.opType o) then fillScales w rd d f.2.1 ((r.stepPlace u st).2.2.2 * r.s) (at_ + r.scaleOff o) else [])

/-- What ends the walk at the checking pass of a layout 3 source, and what that pass read (04 R69; 05 R96). -/
def fillCheck (w : WalkS) (x : Direct) (u o st : Nat) (s : State) : Except EFail (List (List Nat)) :=
  let g := walkAgent w
  let d := batchDesc x (fillFrom w u o st).1
  match rangesFault s g false .read (fillRanges w x u o st) with
  | some f => .error (walkFail w 4 f.1 f.2)
  | none => match quantFault s g d with
    | some e => .error (walkFail w e.1 e.2.1 e.2.2)
    | none => .ok ((List.range (dRows d)).map (quantRowRead (agentByte s g false) d))

/-- What ends the walk where a fill writes its stage: translation, poison, a layout 3 source that no longer reads as in its
checking pass, metadata. -/
def fillFault (w : WalkS) (x : Direct) (u o st : Nat) (seen : Option (List (List Nat))) (s : State) : Option EFail :=
  let g := walkAgent w
  let rd := agentByte s g false
  let rs := fillRanges w x u o st ++ metaRanges w x u o st
  let d := batchDesc x (fillFrom w u o st).1
  match rangesFault s g false .read rs with
  | some f => some (walkFail w 4 f.1 f.2)
  | none =>
    if rangesPoi s g false rs || seen.any (fun l => l != (List.range (dRows d)).map (quantRowRead rd d)) then some (walkFail w 5 0 (dBase d))
    else if o = 0 ∧ w.prob.sparse ≠ 0 then
      (sparseFault w.prob (stageAddr w.prob w.slot u 0 (st % w.prob.positions) + w.prob.metaOff 0)
        (fun row k => rdNat rd (metaAt w x u st row + 4 * k) 4)).map (fun c => { sub := 0, detail := 0, cause := c })
    else none

/-- The oldest requested position of an operand of a unit: the model completes the direct fills of one operand of a unit in
the order of their requests, which the spec leaves open (log 109, DESIGN CHOICE). -/
def oldestRequest (x : UnitS) (o : Nat) : Option (Nat × Stage) :=
  (x.stages.filter (fun p => p.1 / 16 == o && p.2.st == .requested)).foldl (fun b p => match b with
    | some q => if q.2.step ≤ p.2.step then some q else some (p.1 % 16, p.2)
    | none => some (p.1 % 16, p.2)) none

/-- A fill whose present pass is paid: a layout 3 source's checking pass ends the walk or comes to its second pass; a last
pass seals its stage or ends the walk. -/
def finishFill (core slot u o p : Nat) (w : WalkS) (x : Direct) (y : Stage) (s : State) : State :=
  if dLayout x.desc = 3 ∧ y.seen = none then match fillCheck w x u o y.step s with
    | .error f => stopWalk core slot false f s
    | .ok l => modUnit core slot u (fun v => v.setStage o p { y with cost := fillCost w x u o y.step, seen := some l }) s
  else match fillFault w x u o y.step y.seen s with
  | some f => stopWalk core slot false f s
  | none =>
    let out := fillBytes w x u o y.step (agentByte s (walkAgent w) false)
    modUnit core slot u (fun v => v.setStage o p { y with st := .sealed, cost := 0, seen := none }) (s.modCore core (winPut out))

/-- A direct fill pays, and makes its present pass once that is paid. -/
def fillOnce (core slot u o : Nat) (s : State) : State :=
  match s.findWalk core slot with
  | none => s
  | some w => match w.direct o, oldestRequest (w.unit u) o with
    | some x, some (p, st) =>
      if !w.live ∨ o ≥ 2 then s
      else
        let pay := payPieces w.asid (4 * 2 ^ w.prob.ec) st.cost s
        let s1 := modUnit core slot u (fun y => y.setStage o p { st with cost := pay.1 }) pay.2
        if pay.1 = 0 then finishFill core slot u o p w x { st with cost := 0 } s1 else s1
    | _, _ => s

/-- A fill of a walk is in flight: something of it is paid, or its checking pass made. -/
def fillBegun (w : WalkS) (u o : Nat) : Bool :=
  match w.direct o, oldestRequest (w.unit u) o with
  | some x, some (_, st) => w.live && (st.seen.isSome || st.cost != fillFirst w x u o st.step)
  | _, _ => false

/-- A saved core context changed as though it stood on a core: its scratchpad and accumulator store where they live (16 R361).
No core has the number. -/
def onSaved (sv : Saved) (f : Nat → State → State) (s : State) : State :=
  let n := Config.cores + sv.id
  let s1 := f n { s with cores := { sv.full s with num := n } :: s.cores }
  let c := s1.getCore n
  { s1 with cores := s1.cores.filter (fun c => c.num != n) }.modSaved sv.id (fun k => { c with num := k.num })

/-- DIRECT_FILL_COMPLETE, by a copy engine of the core's die; one in flight when its core context was switched out completes
into the saved image (10 R235). -/
def directFill (core slot u o eng : Nat) (s : State) : State :=
  if eng ≥ Config.engines ∨ eng / 48 ≠ core / Config.coresPerDie then s
  else match s.saves.find? (fun sv => sv.core.num == core && sv.core.walks.any (fun w => w.slot == slot && fillBegun w u o)) with
    | some sv => onSaved sv (fun n => fillOnce n slot u o) s
    | none => fillOnce core slot u o s

def execDirectFillComplete (core slot unit opnd eng : Nat) (s : State) : Out := .next (directFill core slot unit opnd eng s)

/-! ## Steps (R203, R211, R213, R215) -/

/-- Sub-arrays in a step. -/
def busyArrays (s : State) (core : Nat) : Nat :=
  ((s.getCore core).walks.filter (·.live)).foldl (fun n v => n + (v.units.filter (·.running)).length * (4 / v.prob.units)) 0

/-- The core's self-test is due, or runs (R216): it comes before every step. -/
def testDue (s : State) (core : Nat) : Bool :=
  (s.orr core).testing || (decide (s.dev.interval ≤ (s.orr core).steps) && busyArrays s core == 0)

/-- A unit could start its next step but for its stages and its debit (R203, R214, R217). -/
def unitOpen (s : State) (core : Nat) (w : WalkS) (u : Nat) : Bool :=
  let x := w.unit u
  w.live && w.started && decide (u < w.units.length) && decide (x.next < w.prob.unitSteps u) && !x.running && !x.ready
  && decide (busyArrays s core + 4 / w.prob.units ≤ 4) && decide ((s.orr core).fenced.length < 4)
  && decide (dieLevel s (core / Config.coresPerDie) ≤ w.prob.ec)

/-- Both stages of a unit's next step are sealed. -/
def stagesSealed (w : WalkS) (u : Nat) : Bool :=
  let x := w.unit u
  let p := x.next % w.prob.positions
  (x.stage 0 p).st == .sealed && (x.stage 1 p).st == .sealed

/-- A step that is ready but for its debit (R203): previous step complete, tile converted, stages sealed, sub-arrays free,
its class not held back by the limiter (R214), no self-test. -/
def stepOpen (s : State) (core : Nat) (w : WalkS) (u : Nat) : Bool := unitOpen s core w u && stagesSealed w u && !testDue s core

/-- The budget covers the step's debit, or it has been taken. -/
def debitCovered (s : State) (w : WalkS) (u : Nat) : Bool :=
  (w.unit u).paid || decide (w.prob.debit ≤ ((s.findCtx w.asid).map (·.ebudLevel)).getD 0)

/-- Another step of the context became ready before the step's own time t and has not paid: it pays first (R213). -/
def debtBefore (s : State) (asid t : Nat) : Bool :=
  (s.core :: s.cores).any (fun c => c.walks.any (fun v => v.asid == asid && (List.range v.units.length).any (fun u =>
    !(v.unit u).paid && (v.unit u).readyAt.any (fun k => decide (k < t)) && stepOpen s c.num v u)))

/-- A step that may start but for the turn of others: all of R203. -/
def stepReady (s : State) (core : Nat) (w : WalkS) (u : Nat) : Bool :=
  stepOpen s core w u && debitCovered s w u && ((w.unit u).paid || !debtBefore s w.asid ((w.unit u).readyAt.getD s.tick))

/-- Whether another walk's ready step goes first: a higher class, or nearer in the round robin by slot. -/
def stepBefore (s : State) (core : Nat) (w : WalkS) : Bool :=
  let key := fun (v : WalkS) => (v.slot + 7 - (s.orr core).last) % 4
  ((s.getCore core).walks.filter (fun v => (List.range v.units.length).any (stepReady s core v))).any (fun v =>
    decide (w.prob.ec < v.prob.ec) || (v.prob.ec == w.prob.ec && decide (key v < key w)))

/-- A unit that could start its step but for an unsealed stage or an uncovered debit (R218), or that the self-test holds
with its step ready (R216). -/
def unitStalled (s : State) (core : Nat) (w : WalkS) (u : Nat) : Bool :=
  unitOpen s core w u && (!stagesSealed w u || !debitCovered s w u || (s.orr core).testing)

/-- Time passes for the walks on the cores: each stalled unit adds to its walk's STALL, by how many cycles nobody says
(log 42). -/
def countStalls (s : State) : State :=
  let add := fun (c : Core) (w : WalkS) => ((List.range w.units.length).filter (unitStalled s c.num w)).foldl
    (fun n u => n + (Config.reading s.tick (2000 + 16 * c.num + 4 * (w.slot % 4) + u)).toNat) w.stall
  let f := fun (c : Core) => { c with walks := c.walks.map (fun w => { w with stall := min (add c w) (2 ^ 40 - 1) }) }
  if (s.core :: s.cores).all (fun c => c.walks.isEmpty) then s else { s with core := f s.core, cores := s.cores.map f }

/-- After every step of the machine: which units' next steps are ready but for their debit, and since when (R213). -/
def settleReady (s : State) : State :=
  let f := fun (c : Core) => { c with walks := c.walks.map (fun w => { w with
    units := ((List.range w.units.length).zip w.units).map (fun p => { p.2 with
      readyAt := if stepOpen s c.num w p.1 then some (p.2.readyAt.getD s.tick) else none }) }) }
  if (s.core :: s.cores).all (fun c => c.walks.isEmpty) then s else { s with core := f s.core, cores := s.cores.map f }

/-- STEP_START. -/
def stepStart (core slot u : Nat) (s : State) : State :=
  match s.findWalk core slot with
  | none => s
  | some w =>
    if !stepReady s core w u ∨ stepBefore s core w then s
    else
      let s1 := if (w.unit u).paid then s else (payEbud w.asid w.prob.debit s).getD s
      modOrr core (fun o => { o with steps := o.steps + 1, last := slot })
        (modUnit core slot u (fun x => { x with running := true, paid := true, readyAt := none }) s1)

def execStepStart (core slot unit : Nat) (s : State) : Out := .next (stepStart core slot unit s)

/-- A value of a stage at its row and K index (R207, R211): a position that sparsity leaves out is +0. -/
def stageValue (r : PRec) (c : Core) (q u o p row k : Nat) : FVal :=
  let rd := winByte c
  let d := stageDesc r q u o p
  let at_ := stageAddr r q u o p
  let el := fun (col : Nat) =>
    let v := typeValue (r.opType o) (elemGet rd d row col)
    if PRec.narrow (r.opType o) then
      let sc := at_ + r.scaleOff o
      scaledValue (rdNat rd (sc + r.rowScales + 8 * row) 8 / 2 ^ (9 * (k / 64)) % 512) (rdNat rd (sc + 2 * row) 2) v
    else v
  if o = 0 ∧ r.sparse ≠ 0 then
    let gs := if r.sparse = 1 then 4 else 8
    let g := k / gs
    let word := rdNat rd (at_ + r.metaOff 0 + 4 * (row * r.metaWords + groupWord r.sparse g)) 4
    match (groupIdx r.sparse word g).1.findIdx? (fun i => i == k % gs) with
    | some x => el (g * (gs / 2) + x)
    | none => .fin false 0 0
  else el k

/-- The accumulator after a step (R72). -/
def stepSum (r : PRec) (c : Core) (q u p acc row col : Nat) : Nat :=
  dotFrom r.group acc ((List.range r.s).map (fun k => (stageValue r c q u 0 p row k, stageValue r c q u 1 p col k)))

/-- An element of a unit's accumulator before a step; a tile's first step starts from +0. -/
def accBefore (r : PRec) (c : Core) (q u st x : Nat) : Nat :=
  if st % r.steps = 0 then 0 else rdNat (accByte c) (accOff r q u + 4 * x) 4

/-- The contents of a unit's shadow after a step; a rerun that failed too leaves what the hardware computed. -/
def shadowAfter (r : PRec) (c : Core) (tick q u st : Nat) (bad : Bool) : List Byte :=
  (List.range (r.t * r.t)).flatMap (fun x => toBytes 4 (if bad then (Config.faultWord tick x).toNat
    else stepSum r c q u (st % r.positions) (accBefore r c q u st x) (x / r.t) (x % r.t)))

/-- The shadow is written, and committed as the accumulator (R215). -/
def commitStep (r : PRec) (q u : Nat) (bs : List Byte) (c : Core) : Core :=
  writeLocals [(.acc (shadowOff r q u), bs, false), (.acc (accOff r q u), bs, false)] c

/-- The counts and the log entry of a step's checks (R215): a corrected error where the rerun agreed, else an uncorrected
one, under the walk's id (log 107, DESIGN CHOICE). -/
def noteChecks (core bad : Nat) (w : WalkS) (s : State) : State :=
  let s1 := { s with dev := { s.dev with orrc := s.dev.orrc + (if bad = 1 then 1 else 0), orru := s.dev.orru + (if bad ≥ 2 then 1 else 0) } }
  if bad = 0 then s1 else logError (if bad = 1 then 0xFE else 0xFF) w.id core s1

/-- STEP_COMPLETE: badRuns counts the runs whose checksums failed (0, 1, or 2 and more). A tile's last step waits after
computing until the delivery slot is free (R204; log 110, DEDUCED: it is not complete till then). -/
def stepComplete (core slot u bad : Nat) (s : State) : State :=
  match s.findWalk core slot with
  | none => s
  | some w =>
    let x := w.unit u
    if !x.running ∨ !w.live ∨ ((x.next + 1) % w.prob.steps = 0 ∧ x.slot ≠ .free) then s
    else
      let p := x.next % w.prob.positions
      let out := shadowAfter w.prob (s.getCore core) s.tick slot u x.next (decide (bad ≥ 2))
      let last := (x.next + 1) % w.prob.steps = 0
      let s1 := modUnit core slot u (fun y => (({ y with
        next := y.next + 1, running := false, paid := false, marked := y.marked || decide (bad ≥ 2)
        ready := decide last }).setStage 0 p {}).setStage 1 p {}) (s.modCore core (commitStep w.prob slot u out))
      requestStep core slot u (x.next + w.prob.positions) (noteChecks core bad w s1)

def execStepComplete (core slot unit badRuns : Nat) (s : State) : Out := .next (stepComplete core slot unit badRuns s)

/-! ## Conversion and delivery (R204, R210) -/

/-- An accumulator value in the delivery type: RNE, no SAT, no flush. A NaN for e4 is 0x7F, the only NaN R54 gives it,
where R72's parenthesis says 0x7E (log 10, DEDUCED). -/
def deliverBits (ty x : Nat) : Nat := if ty = 0 then x else (convert {} ty 0 x).1

/-- A tile counts as delivered (10 R233; R198): IG and NINT with its mark. -/
def countTile (marked : Bool) (w : WalkS) : WalkS :=
  { w with tiles := w.tiles + 1, ig := w.ig || marked, nint := w.nint + bitOf marked }

/-- The unit's tile whose last step is complete. -/
def readyTile (w : WalkS) (x : UnitS) : Nat := (x.next - 1) / w.prob.steps

/-- The accumulator of a unit in the delivery type, as bricks in the delivery slot and as bytes of a sink's tile. -/
def tileOut (r : PRec) (c : Core) (q u : Nat) (d : Desc) : List Out8 :=
  tileBytes d (fun i j => (deliverBits r.dType (rdNat (accByte c) (accOff r q u + 4 * (i * r.t + j)) 4), false))

/-- A tile through the sink, with its slot written before (R204). -/
def sinkTile (core slot u : Nat) (w : WalkS) (x : Direct) (s : State) : State :=
  let y := w.unit u
  let pl := w.prob.place (w.prob.unitTile u (readyTile w y))
  let d := subTile (batchDesc x pl.1) (pl.2.1 * w.prob.t) (pl.2.2 * w.prob.t) w.prob.t w.prob.t
  let g := walkAgent w
  if rangeHeld s g false (tileRanges d) then s
  else match rangesFault s g false .write (tileRanges d) with
    | some f => stopWalk core slot false (walkFail w 4 f.1 f.2) s
    | none =>
      let c := s.getCore core
      let r := agentPut g false (tileOut w.prob c slot u d) (s.modCore core (winPut (tileOut w.prob c slot u (slotDesc w.prob slot u))))
      modWalk core slot (fun w => { countTile y.marked (w.modUnit u (fun y => { y with ready := false, marked := false })) with
        wct := max w.wct r.2 }) r.1

/-- DELIVERY_CONVERSION_DONE. -/
def conversionDone (core slot u : Nat) (s : State) : State :=
  match s.findWalk core slot with
  | none => s
  | some w =>
    let x := w.unit u
    if !w.live ∨ !x.ready ∨ x.slot ≠ .free then s
    else match w.c with
      | some d => sinkTile core slot u w d s
      | none =>
        let s1 := modUnit core slot u (fun y => { y with
          ready := false, marked := false, slot := .pending, tile := readyTile w y, ig := y.marked, up := { raised := s.time } })
          (s.modCore core (fun c => winPut (tileOut w.prob c slot u (slotDesc w.prob slot u)) c))
        raiseUpcall w u 2 0 s1

def execDeliveryConversionDone (core slot unit : Nat) (s : State) : Out := .next (conversionDone core slot unit s)

/-! ## The end of a walk (R198, R199; 10 R225) -/

/-- Every tile is delivered and consumed, or written. -/
def walkDone (w : WalkS) : Bool :=
  w.started && (List.range w.units.length).all (fun u =>
    let x := w.unit u
    decide (x.next ≥ w.prob.unitSteps u) && !x.running && !x.ready && x.slot == .free)

/-- The walk's word reaches the poster's walk list. -/
def listWord (w : WalkS) (x : W64) (s : State) : State :=
  s.modWarp w.warp (fun v => { v with walks := v.walks.map (fun p => if p.2.id = w.id then (p.1, { p.2 with word := some (x, s.time) }) else p) })

/-- WALK_COMPLETION: a release; where the word cannot be written the walk fails with sub-code 4, and one that has failed
keeps its own sub-code (log 111, DEDUCED). -/
def walkCompletion (core slot : Nat) (s : State) : State :=
  match s.findWalk core slot with
  | none => s
  | some w =>
    let g := walkAgent w
    if (w.live && !walkDone w) || decide (w.wct ≠ 0 ∧ s.time ≤ w.wct) || rangeHeld s g false [(w.prob.cw, 8)] then s
    else
      let fail := w.ended.map (·.2)
      let rs := (w.ended.map (·.1)).getD false
      let s1 := s.modCore core (fun c => closeSlot slot { c with walks := c.walks.filter (fun v => v.slot != slot) })
      match rangeFault s g false .write w.prob.cw 8 with
      | some f =>
        let e := fail.orElse (fun _ => some (walkFail w 4 f.1 f.2))
        retireWork w.warp w.op w.wct 0 e (listWord w (doneWord e rs w.ig w.nint w.prob.cookie) s1)
      | none =>
        let x := doneWord fail rs w.ig w.nint w.prob.cookie
        let r := agentPut g false (outBytes w.prob.cw (toBytes 8 x.toNat)) s1
        retireWork w.warp w.op (max w.wct r.2) 0 fail (listWord w x r.1)

def execWalkCompletion (core slot : Nat) (s : State) : Out := .next (walkCompletion core slot s)

/-! ## Self-test and fencing (R216, R217) -/

/-- Stop every live walk of a core. -/
def stopAll (core : Nat) (rs : Bool) (sub : Nat) (s : State) : State :=
  (s.getCore core).walks.foldl (fun s w => stopWalk core w.slot rs (walkFail w sub 0 0) s) s

/-- SELF_TEST: at the interval, when no sub-array is in a step. -/
def selfTest (core : Nat) (s : State) : State :=
  let o := s.orr core
  if o.testing ∨ o.steps < s.dev.interval ∨ busyArrays s core ≠ 0 then s
  else modOrr core (fun o => { o with testing := true, steps := 0 }) s

def execSelfTest (core : Nat) (s : State) : Out := .next (selfTest core s)

/-- Sub-arrays named by a mask. -/
def subArrays (m : BitVec 4) : List Nat := (List.range 4).filter (fun i => m.getLsbD i)

/-- SELF_TEST_RESULT: failing sub-arrays are fenced; with none left every walk ends with sub-code 5. -/
def selfTestResult (core : Nat) (failed : BitVec 4) (s : State) : State :=
  if !(s.orr core).testing then s
  else
    let s1 := modOrr core (fun o => { o with testing := false, fenced := (subArrays failed).foldl (fun l i => setIns i l) o.fenced }) s
    if (s1.orr core).fenced.length ≥ 4 then stopAll core false 5 s1 else s1

def execSelfTestResult (core : Nat) (failed : BitVec 4) (s : State) : Out := .next (selfTestResult core failed s)

end Sys2Proof.Machine
end

