-- ==== Sys2Proof/Machine/Handlers.lean ====
section
/-! DEFINITION. The handler side of the Orrery (10 R219 to R234): handler tables, cohorts, upcalls, stages filled and
handed over, tiles drained, and EXIT, which may end an upcall. -/

namespace Sys2Proof.Machine

open Sys2Proof

/-! ## Handler tables (R219, R220) -/

/-- An entry from its two dwords; none when it breaks R219. -/
def tableEntry (d0 d1 : Nat) : Option HEntry :=
  let p := bit d1 8
  if d1 / 512 ≠ 0 then none
  else if p ∧ (d0 = 0 ∨ d0 % 2 = 1 ∨ d0 / 2 ^ 57 ≠ 0) then none
  else if !p ∧ (d0 ≠ 0 ∨ d1 % 256 ≠ 0) then none
  else some { present := p, cohort := d1 % 256, entry := w64 d0 }

/-- The lowest free table id. -/
def nextTable (c : Ctx) : Nat := (((List.range 4095).map (· + 1)).find? (fun i => !c.htabs.any (fun p => p.1 == i))).getD 0

/-- HREG of a table. -/
def hreg (d a : BitVec 6) (s : State) : State :=
  notDawn s fun s =>
    let va := sval s a
    if va.toNat % 16 ≠ 0 then alignTrap va s.w.cur.active s
    else inlineLoad false false 16 va 6 s fun x0 s => inlineLoad false false 16 (va + 16) 6 s fun x1 s =>
      inlineLoad false false 16 (va + 32) 6 s fun x2 s =>
        match [x0, x1, x2].mapM (fun x => tableEntry (x % 2 ^ 64) (x / 2 ^ 64)) with
        | none => softFail d 2 s
        | some es =>
          if s.ctx.htabs.length ≥ 4095 then softFail d 1 s
          else
            let i := nextTable s.ctx
            putS d (w64 i) { s with ctx := { s.ctx with htabs := tabIns i es s.ctx.htabs } }

def execHreg (d a : BitVec 6) (s : State) : Out := .next (hreg d a s)

/-- Every core context, running or switched out. -/
def State.allCores (s : State) : List Core := s.core :: s.cores ++ s.saves.map (·.core)

/-- A walk that has not retired names the table. -/
def tableUsed (s : State) (id : Nat) : Bool :=
  s.allCores.any (fun c => c.walks.any (fun w => w.asid == s.ctx.asid && w.prob.htab == id))
  || s.allWarps.any (fun w => ((s.findTeam w.team).map (·.asid)) == some s.ctx.asid && w.ops.any (fun o => match o.kind with
    | .walk _ => o.hnd.toNat == id
    | _ => false))

/-- HREG freeing a table. -/
def execHregFree (d a : BitVec 6) (s : State) : Out :=
  .next (notDawn s fun s =>
    let id := (sval s a).toNat
    if !s.ctx.htabs.any (fun p => p.1 == id) then softFail d 3 s
    else if tableUsed s id then softFail d 4 s
    else putS d 1 { s with ctx := { s.ctx with htabs := s.ctx.htabs.filter (fun p => p.1 != id) } })

/-! ## Cohorts: HWAIT (R221, R225) -/

def joinCohort (c uid : Nat) (t : Team) : Team :=
  { t with cohorts := tabMod [] c (fun l => if l.contains uid then l else l ++ [uid]) t.cohorts }
def leaveCohort (c uid : Nat) (t : Team) : Team := { t with cohorts := tabMod [] c (fun l => l.filter (fun u => u != uid)) t.cohorts }

/-- The warp's walk list entry of an id. -/
def Warp.walkEntry (w : Warp) (id : W64) : Option WalkEntry := (w.walks.find? (fun p => p.2.id == id)).map (·.2)

/-- The warp is owed a cancel upcall of a walk in a cohort (R234). -/
def owed (w : Warp) (id : W64) (c : Nat) : Bool := w.cancels.any (fun x => x.walk == id && x.entries.any (fun e => e.1 == c))

/-- Leave HWAIT with a value. A warp whose upcall was revoked keeps the latch that its HRET returns to (log 130, DEDUCED). -/
def hwaitReturn (l : Latch) (x : W64) (ah : Nat) (s : State) : State :=
  let s1 := finishAt l.next { s with w := s.w.sSet l.sd x }
  { s1 with w := { s1.w with latch := if s1.w.upcall.isSome then s1.w.latch else none, ah := max s1.w.ah ah }
            team := leaveCohort l.cohort s1.w.uid s1.team }

/-- Park in the cohort, or return. A revoked upcall is over once the warp has parked anew (log 130, DEDUCED). -/
def hwaitAt (l : Latch) (s : State) : State :=
  let park := parkHere { s with w := { s.w with latch := some l, upcall := none }, team := joinCohort l.cohort s.w.uid s.team }
  if l.sa = 0 then park
  else match s.w.walkEntry l.sa with
    | none => hwaitReturn l 0 0 s
    | some e => match e.word with
      | some (x, t) => if owed s.w l.sa l.cohort then park else hwaitReturn l x t s
      | none => park

/-- HWAIT. A parked warp performs its latched HWAIT again when it is considered; after a revoked upcall HWAIT latches anew. -/
def hwait (d a : BitVec 6) (c : BitVec 9) (s : State) : State :=
  inRange (decide (c.toNat ≤ 255)) s fun s => notDawn s fun s =>
    if s.w.serving.isSome then stageTrap 0x01 s
    else if s.w.splits.length ≠ 1 then stageTrap 0x08 s
    else
      let fresh : Latch := { addr := s.ix.addr, sd := d.toNat, sa := sval s a, cohort := c.toNat, depth := s.w.stack.length, next := s.ix.next }
      match s.w.latch with
      | some l => if l.addr = s.ix.addr ∧ s.w.upcall.isNone then hwaitAt l s
        else hwaitAt fresh { s with team := leaveCohort l.cohort s.w.uid s.team }
      | none => hwaitAt fresh s

def execHwait (d a : BitVec 6) (c : BitVec 9) (s : State) : Out := .next (hwait d a c s)

/-! ## Delivery (R222, R234) -/

/-- A warp parked at its HWAIT that an upcall may start. -/
def canServe (s : State) (uid : Nat) : Bool :=
  match s.findWarp uid with
  | some w => !w.ended && w.serving.isNone && w.latch.any (fun l => l.addr == w.cur.pc) && !w.cur.stopped
      && w.splits.length == 1
  | none => false

/-- The registers of an upcall (R222). -/
def upcallRegs (w : Warp) (l : List W64) : Warp := ((List.range l.length).zip l).foldl (fun w p => w.sSet (p.1 + 1) p.2) w

/-- The warp starts at an entry. -/
def startAt (w : Warp) (pc : W64) (u : Upcall) (ah : Nat) : Warp :=
  { w with
    upcall := some u, ah := max w.ah ah
    cur := { w.cur with pc := pc, since := none, place := none, fresh := [], yielded := false } }

/-- A cancel upcall. -/
def deliverCancel (team c uid : Nat) (x : Cancel) (s : State) : State :=
  let entry := ((x.entries.find? (fun e => e.1 == c)).map (·.2)).getD 0
  (s.modTeam team (leaveCohort c uid)).modWarp uid (fun w =>
    startAt (upcallRegs { w with cancels := w.cancels.erase x } [3, x.walk, 0, 0, 0, 0, 0, 0]) entry
      { walk := x.walk, slot := 0, unit := 0, seq := 0, kind := 3 } x.posted)

/-- A produce or consume upcall of a walk. -/
def deliverUpcall (core : Nat) (w : WalkS) (c uid : Nat) (p : Pending) (s : State) : State :=
  let r := w.prob
  let x := w.unit p.unit
  let st := upStage w p.unit p.kind p.pos
  let seq := w.seq + 1
  let pl := if p.kind = 2 then
      let q := r.place (r.unitTile p.unit x.tile)
      (q.1, q.2.1, q.2.2, 0)
    else r.stepPlace p.unit st.step
  let addr := if p.kind = 2 then slotAddr r w.slot p.unit else stageAddr r w.slot p.unit p.kind p.pos
  let ig := decide (p.kind = 2) && x.ig
  let s1 := modUnit core w.slot p.unit (fun y =>
    let st1 := { st with num := seq, warp := uid }
    if p.kind = 2 then { y with slot := .delivered, up := st1 } else y.setStage p.kind p.pos { st1 with st := .given }) s
  let s2 := modWalk core w.slot (fun v =>
    let v1 := { v with seq := seq, served := setIns uid v.served }
    if p.kind = 2 ∧ st.num = 0 then countTile x.ig v1 else v1) s1
  let s3 := s2.modCore core (openWindow w.team addr (if p.kind = 2 then r.slotLen else r.z))
  let word := p.kind + bitOf ig * 2 ^ 8 + p.unit * 2 ^ 9 + bitOf st.retry * 2 ^ 16
  (s3.modTeam w.team (leaveCohort c uid)).modWarp uid (fun v =>
    startAt (upcallRegs v [w64 word, w.id, w64 pl.1, w64 pl.2.1, w64 pl.2.2.1, w64 pl.2.2.2, w64 addr, w64 seq])
      (w.entry p.kind).entry
      { walk := w.id, slot := w.slot, unit := p.unit, seq := seq, kind := p.kind, addr := addr, pos := p.pos } w.posted)

/-- UPCALL_DELIVERY: a cancel upcall owed to a parked warp, else the oldest pending upcall of the cohort to the warp
parked longest, a re-raised one to another than the one that failed where there is one. -/
def upcallDelivery (core team c : Nat) (s : State) : State :=
  match s.findTeam team with
  | none => s
  | some t =>
    if t.saved.isSome ∨ t.core ≠ core then s
    else
      let parked := (tabGet [] c t.cohorts).filter (canServe s)
      let cancel := parked.findSome? (fun uid => (s.findWarp uid).bind (fun w =>
        (w.cancels.find? (fun x => x.entries.any (fun e => e.1 == c))).map (fun x => (uid, x))))
      match cancel with
      | some (uid, x) => deliverCancel team c uid x s
      | none => match t.pending.find? (fun p => p.1 == c), parked with
        | some (_, p), u :: us => match s.findWalk core p.slot with
          | none => s
          | some w =>
            let avoid := (upStage w p.unit p.kind p.pos).avoid
            let uid := ((u :: us).find? (fun x => avoid != some x)).getD u
            deliverUpcall core w c uid p (s.modTeam team (fun t => { t with pending := t.pending.erase (c, p) }))
        | _, _ => s

def execUpcallDelivery (core team cohort : Nat) (s : State) : Out := .next (upcallDelivery core team cohort s)

/-! ## Filling and draining (R226 to R229) -/

/-- The walk that a warp's upcall serves. -/
def servedWalk (s : State) (u : Upcall) : Option WalkS := (s.core.walks.find? (fun w => w.id == u.walk))

/-- HSTAGE and HSEAL need a produce upcall, neither revoked nor sealed. -/
def produceUp (sub : Nat) (s : State) (k : Upcall → WalkS → State → State) : State :=
  match s.w.upcall with
  | none => stageTrap sub s
  | some u =>
    if u.revoked then stageTrap 0x0B s
    else if u.kind ≥ 2 ∨ u.sealed then stageTrap sub s
    else match servedWalk s u with
      | some w => k u w s
      | none => stageTrap 0x0B s

/-- Change the warp's upcall. -/
def modUpcall (f : Upcall → Upcall) (s : State) : State := { s with w := { s.w with upcall := s.w.upcall.map f } }

/-- Pieces of T rows of some columns (R226). -/
def pieces (r : PRec) (ty cols : Nat) : Nat := r.brickBytes ty cols / 4096

/-- One half of a brick row from a register: 16 threads, one granule. -/
def brickHalf (s : State) (a reg row half : Nat) : Local × List Byte × Bool :=
  let ts := (List.range 16).map (· + 16 * half)
  (.acc (a - 0x1000000 + 128 * row + 64 * half), ts.flatMap (fun t => toBytes 4 (s.w.vGet reg t).toNat), ts.any (fun t => s.w.pGet reg t))

/-- HSTAGE. -/
def hstage (a : BitVec 7) (s : State) : State :=
  inRange (decide (a.toNat ≤ 96)) s fun s => heldRegs (regGroup a.toNat 32) s fun s => notDawn s fun s => withRegs (regGroup a.toNat 32) [] s fun s =>
    produceUp 0x05 s fun u w s =>
      let r := w.prob
      if u.cursor ≥ pieces r (r.opType u.kind) (r.stageCols u.kind) then stageTrap 0x06 s
      else
        let at_ := u.addr + 4096 * u.cursor
        let ps := (List.range 32).flatMap (fun row => (List.range 2).map (fun h => brickHalf s at_ (a.toNat + row) row h))
        finish (modUpcall (fun u => { u with cursor := u.cursor + 1 }) { s with core := writeLocals ps s.core })

def execHstage (a : BitVec 7) (s : State) : Out := .next (hstage a s)

/-- HDRAIN: all 32 threads of each register, poison clear. -/
def hdrain (d : BitVec 7) (s : State) : State :=
  inRange (decide (d.toNat ≤ 96)) s fun s => heldRegs (regGroup d.toNat 32) s fun s => notDawn s fun s => withRegs [] (regGroup d.toNat 32) s fun s =>
    match s.w.upcall with
    | none => stageTrap 0x03 s
    | some u =>
      if u.revoked then stageTrap 0x0B s
      else if u.kind ≠ 2 then stageTrap 0x03 s
      else match servedWalk s u with
        | none => stageTrap 0x0B s
        | some w =>
          if u.cursor ≥ pieces w.prob w.prob.dType w.prob.t then stageTrap 0x06 s
          else
            let rd := winByte s.core
            let put := fun (v : Warp) row =>
              v.vSet (d.toNat + row) 0xFFFFFFFF (fun t => w32 (rdNat rd (u.addr + 4096 * u.cursor + 128 * row + 4 * t) 4)) 0
            finish (modUpcall (fun u => { u with cursor := u.cursor + 1 }) { s with w := (List.range 32).foldl put s.w })

def execHdrain (d : BitVec 7) (s : State) : Out := .next (hdrain d s)

/-! ## HSEAL (R228) -/

/-- What the Orrery reads of a stage, in address order: the used part of each brick row, metadata, scale area. -/
def stageReads (r : PRec) (o at_ : Nat) : List (Nat × Nat) :=
  let wb := typeWidth (r.opType o)
  let bw := brickW wb
  let grid := ceilDiv (r.stageCols o) bw
  (List.range (r.t / 32)).flatMap (fun bi => (List.range grid).flatMap (fun bj => (List.range 32).map (fun row =>
    (at_ + (bi * grid + bj) * 4096 + row * 128, min bw (r.stageCols o - bj * bw) * wb / 8))))
  ++ [(at_ + r.metaOff o, r.metaLen o), (at_ + r.scaleOff o, r.scaleBytes o)]

/-- The first poisoned granule among some ranges. -/
def firstPoison (c : Core) (l : List (Nat × Nat)) : Option Nat :=
  l.findSome? (fun p => (granules p.1 p.2).findSome? (fun g => if winPoi c (64 * g) then some (64 * g) else none))

/-- The first offending word of a scale area. -/
def scaleFault (r : PRec) (c : Core) (o at_ : Nat) : Option Nat :=
  let rd := winByte c
  let sc := at_ + r.scaleOff o
  if !PRec.narrow (r.opType o) then none
  else ((List.range r.t).findSome? (fun i => if (rowScale (rdNat rd (sc + 2 * i) 2)).isNone then some (sc + 2 * i) else none)).orElse (fun _ =>
    (List.range r.t).findSome? (fun i =>
      let x := rdNat rd (sc + r.rowScales + 8 * i) 8
      if bit x 63 || (List.range (ceilDiv r.s 64)).any (fun m => bsMalformed (x / 2 ^ (9 * m) % 512)) then some (sc + r.rowScales + 8 * i)
      else none))

/-- HSEAL. -/
def hseal (a : BitVec 6) (s : State) : State :=
  notDawn s fun s => produceUp 0x04 s fun u w s =>
    let r := w.prob
    if (sval s a).toNat ≠ u.addr then stageTrap 0x04 s
    else match firstPoison s.core (stageReads r u.kind u.addr) with
      | some g => takeTrap { code := 0x06, tsub := 5, taddr := w64 g, tmask := s.w.cur.active } s
      | none => match scaleFault r s.core u.kind u.addr with
        | some x =>
          takeTrap { code := 0x0F, tsub := 0x09, taddr := w64 x, info := u.walk.toNat % 2 ^ 35, tmask := s.w.cur.active } s
        | none =>
          let bad := if u.kind = 0 ∧ r.sparse ≠ 0 then
              sparseFault r (u.addr + r.metaOff 0) (fun row k => rdNat (winByte s.core) (u.addr + r.metaOff 0 + 4 * (row * r.metaWords + k)) 4)
            else none
          match bad with
          | some c => takeTrap { c with tmask := s.w.cur.active } s
          | none =>
            let s1 := modUnit s.core.num u.slot u.unit (fun y => y.setStage u.kind u.pos { y.stage u.kind u.pos with st := .sealed }) s
            finish (modUpcall (fun u => { u with sealed := true }) { s1 with core := closeWindow u.addr s1.core })

def execHseal (a : BitVec 6) (s : State) : Out := .next (hseal a s)

/-! ## HRET (R230, R232) -/

/-- What the end of an upcall does to its walk: ok, or a failure. -/
def endUpcall (core : Nat) (u : Upcall) (ok : Bool) (s : State) : State :=
  if u.revoked || u.kind == 3 || (u.kind != 2 && u.sealed) then s
  else if ok then
    (modUnit core u.slot u.unit (fun y => { y with slot := .free, up := {}, ig := false }) s).modCore core (closeWindow u.addr)
  else failUpcall core u.slot u.unit u.kind u.pos 1 s

/-- HRET. Of a revoked upcall it raises nothing about the stage, but still asks for one split at the recorded depth
(log 112, DEDUCED). -/
def hret (n : BitVec 9) (s : State) : State :=
  inRange (decide (n.toNat ≤ 3)) s fun s => notDawn s fun s =>
    match s.w.upcall, s.w.latch with
    | some u, some l =>
      let ok := n.toNat % 2 = 0
      if s.w.splits.length ≠ 1 ∨ s.w.stack.length ≠ l.depth then stageTrap 0x08 s
      else if ok ∧ !u.revoked ∧ u.kind ≤ 1 ∧ !u.sealed then stageTrap 0x0A s
      else
        let s1 := endUpcall s.core.num u (decide ok) { s with w := { s.w with upcall := none } }
        if n.toNat ≤ 1 then
          let s2 := finishAt l.addr s1
          { s2 with team := joinCohort l.cohort s2.w.uid s2.team }
        else
          let s2 := finishAt l.next { s1 with w := s1.w.sSet l.sd 0 }
          { s2 with w := { s2.w with latch := none } }
    | _, _ => stageTrap 0x07 s

def execHret (n : BitVec 9) (s : State) : Out := .next (hret n s)

/-! ## OSTAT and OCANCEL (R233, R234) -/

/-- OSTAT. -/
def execOstat (d a : BitVec 6) (s : State) : Out :=
  .next (notDawn s fun s =>
    match s.core.walks.find? (fun w => w.live && w.id == sval s a) with
    | none => putS d 0 s
    | some w =>
      putS d (w64 (2 ^ 63 + bitOf ((List.range w.units.length).any (unitStalled s s.core.num w)) * 2 ^ 62
        + min w.tiles 0x3FFFFF * 2 ^ 40 + w.stall % 2 ^ 40)) s)

/-- OCANCEL. A walk that has stopped is live no longer, though its slot stays its own until its completion word is written
(DEDUCED, notes/assumptions/51.md). -/
def execOcancel (d a : BitVec 6) (s : State) : Out :=
  .next (notDawn s fun s =>
    match s.core.walks.find? (fun w => w.live && w.id == sval s a && w.asid == s.ctx.asid) with
    | none => putS d 0 s
    | some w => putS d 1 (stopWalk s.core.num w.slot true (walkFail w 6 0 0) s))

/-! ## EXIT (14 R303, R307; 10 R231) -/

/-- An ended warp leaves its cohort and fails the upcall it served. -/
def settleWarp (w : Warp) (s : State) : State :=
  let s1 := match w.latch with
    | some l => s.modTeam w.team (leaveCohort l.cohort w.uid)
    | none => s
  let s2 := s1.modWarp w.uid (fun w => { w with upcall := none, latch := none, cancels := [] })
  match w.upcall with
  | some u => endUpcall w.core u false s2
  | none => s2

/-- Every ended warp that still holds an upcall or a latch (16 R348; R231). -/
def settleEnded (s : State) : State :=
  (s.allWarps.filter (fun w => w.ended && (w.upcall.isSome || w.latch.isSome))).foldl (fun s w => settleWarp w s) s

/-- A failure that no wait has reported by the end of its warp goes to the error log (05 R101). -/
def logFails (w : Warp) (s : State) : State :=
  w.fails.foldl (fun s f => logError f.cause.code f.cause.taddr w.core s) (s.modWarp w.uid (fun w => { w with fails := [] }))
def settleFails (s : State) : State :=
  (s.allWarps.filter (fun w => w.ended && !w.fails.isEmpty)).foldl (fun s w => logFails w s) s

/-- EXIT. -/
def exit_ (s : State) : State :=
  if s.w.dawn then dawnExit s
  else
    let s1 := { s with w := s.w.exitCur }
    if s1.w.ended then settleWarp s1.w { s1 with w := s1.w.retire.freeSlot } else s1

def execExit (s : State) : Out := .next (exit_ s)

end Sys2Proof.Machine
end

