-- ==== Sys2Proof/Machine/Keccak.lean ====
section
/-! DEFINITION. SHAKE256 (13 R280). The state is five planes of five lanes; the rotations and the round constants are
computed from the walk and the shift register that define them, not tabled. -/

namespace Sys2Proof.Machine

open Sys2Proof

/-- A plane: the five lanes of one y. -/
abbrev Plane := List W64

/-- Lane x of a plane, x modulo 5. -/
def Plane.lane (p : Plane) (x : Nat) : W64 := p.getD (x % 5) 0

/-- A plane from its lanes. -/
def plane (f : Nat → W64) : Plane := [f 0, f 1, f 2, f 3, f 4]

/-- Bitwise sum of two planes. -/
def Plane.add (p q : Plane) : Plane := p.zipWith (· ^^^ ·) q

/-- The walk over the lanes other than (0, 0), from (1, 0): each with the triangular number of its step, its rotation. -/
def spinWalk : Nat → Nat → Nat → Nat → List ((Nat × Nat) × Nat)
  | 0, _, _, _ => []
  | n + 1, turn, x, y => ((x, y), turn % 64) :: spinWalk n (turn + (25 - n)) y ((2 * x + 3 * y) % 5)

/-- The rotation of lane (x, y). -/
def spin (x y : Nat) : Nat := ((spinWalk 24 1 1 0).lookup (x, y)).getD 0

/-- Every column takes the parity of the column before it and, one bit on, that of the column after it. -/
def mixColumns (ps : List Plane) : List Plane :=
  let par := ps.foldl Plane.add (plane fun _ => 0)
  let d := plane fun x => par.lane (x + 4) ^^^ (par.lane (x + 1)).rotateLeft 1
  ps.map d.add

/-- The lanes are turned and moved: plane y's lane x comes from (x + 3y, x). -/
def scatter (ps : List Plane) : List Plane :=
  (List.range 5).map fun y => plane fun x =>
    let z := (x + 3 * y) % 5
    ((ps.getD x []).lane z).rotateLeft (spin z x)

/-- The nonlinear step within a plane. -/
def Plane.bend (p : Plane) : Plane := p.add (plane fun x => (p.lane (x + 2)) &&& ~~~(p.lane (x + 1)))

/-- One shift of the register behind the round constants: x^8 + x^6 + x^5 + x^4 + 1. -/
def shiftReg (r : Nat) : Nat := if r < 128 then 2 * r else (2 * r) ^^^ 0x171

/-- The round constant that the next n bits of the register give from position 2^j - 1 on, and the register after. -/
def roundBits : Nat → Nat → Nat → W64 × Nat
  | 0, _, r => (0, r)
  | n + 1, j, r =>
    let (c, q) := roundBits n (j + 1) (shiftReg r)
    (if r % 2 = 1 then c ^^^ (1 <<< (2 ^ j - 1)) else c, q)

/-- n rounds, with the register. -/
def rounds : Nat → Nat → List Plane → List Plane
  | 0, _, ps => ps
  | n + 1, r, ps =>
    let (c, q) := roundBits 7 0 r
    match (scatter (mixColumns ps)).map Plane.bend with
    | p :: rest => rounds n q (p.add (plane fun x => if x = 0 then c else 0) :: rest)
    | [] => []

/-- A block of 136 bytes as planes: 17 lanes, little-endian, and 8 of zero. -/
def blockPlanes (b : List Byte) : List Plane :=
  (List.range 5).map fun y => plane fun x => w64 (ofBytes ((b.drop (8 * x + 40 * y)).take 8))

/-- The sponge takes n blocks in. -/
def sponge : Nat → List Byte → List Plane → List Plane
  | 0, _, ps => ps
  | n + 1, m, ps => sponge n (m.drop 136) (rounds 24 1 (List.zipWith Plane.add ps (blockPlanes (m.take 136))))

/-- The message up to whole blocks: the suffix and the first padding bit, zeros, and the last bit of the block. -/
def shakePad (m : List Byte) : List Byte :=
  match 135 - m.length % 136 with
  | 0 => m ++ [0x9F]
  | z + 1 => m ++ 0x1F :: List.replicate z 0 ++ [0x80]

/-- The first plane after the message: the first 40 bytes of SHAKE256. -/
def shakeOut (m : List Byte) : Plane :=
  let p := shakePad m
  (sponge (p.length / 136) p (List.replicate 5 (plane fun _ => 0))).headD []

/-- The first 8 bytes of SHAKE256, little-endian. -/
def shake64 (m : List Byte) : W64 := (shakeOut m).lane 0

/-- The first 32 bytes of SHAKE256. -/
def shake256 (m : List Byte) : List Byte := ((shakeOut m).take 4).flatMap fun l => toBytes 8 l.toNat

/-- The signature of a tree (R280): P and the rank at each position, two bytes each. -/
def treeSig (ranks : List Nat) : W64 := shake64 (toBytes 2 ranks.length ++ ranks.flatMap (toBytes 2))

end Sys2Proof.Machine
end

