-- ==== Sys2Proof/Machine/Remote.lean ====
section
/-! DEFINITION. Remote memory (03 R35; 06 R117, R125; 13 R296): the remote accesses of major 0x26, their translation and
performance on another chip of the group, link failures. -/

namespace Sys2Proof.Machine

open Sys2Proof

/-! ## Translation on the remote chip (03 R35, 06 R117) -/

/-- The fabric chip of a remote handle's rank. -/
def remoteChip (s : State) (h : W64) : Option Nat := s.team.chips[h.toNat % 4096]?

/-- The remote virtual address of an offset. -/
def remoteVA (h : W64) (off : Nat) : Nat := bits h.toNat 56 12 * 4096 + off

/-- A chip that remote accesses reach. -/
def chipReached (s : State) (id : Nat) : Bool :=
  !s.dev.cut.contains id && (id == s.dev.chipId || s.chips.any (fun c => c.id == id && c.reachable))

/-- The walk on a chip, in its context of the same process group (03 R35), whose leaves are judged under R40; its leaf of a
page that it lists no leaf for is taken as absent at the first level (notes/assumptions/43.md). -/
def remoteWalk (s : State) (id va : Nat) : WalkRes :=
  if id = s.dev.chipId then ctxWalk s s.ctx va
  else match (s.chips.find? (fun c => c.id == id)).map (fun c => (c.ctxs.find? (fun x => x.asid == s.ctx.asid)).getD { asid := s.ctx.asid }) with
    | none => .fail 7 0
    | some c => match c.leaves.find? (fun p => p.1 == va / 2 ^ 18) with
      | none => .fail 1 1
      | some p =>
        if !leafPresent p.2 then .fail 1 3
        else if leafMalformed p.2 then .fail 2 3
        else if !inQuarters c.range.quarter c.range.count (leafFrame p.2 * 2 ^ 18) then .fail 3 3
        else .leaf p.2

/-- The judgement of one remote access; a failure's TADDR is the thread's offset, not the remote virtual address (log 54,
DESIGN CHOICE). -/
def chkRemote (s : State) (acc : Acc) (size : Nat) (h : W64) (off : Nat) (poi : Bool) : Chk :=
  let rank := h.toNat % 4096
  let x := fun why level => Chk.fail { code := 0x04, taddr := w64 off, info := accInfo 3 why level rank acc }
  if poi then .fail { code := 0x06, tsub := 4 }
  else if off % size ≠ 0 then .fail { code := 0x03, taddr := w64 off }
  else match remoteChip s h with
    | none => x 4 0
    | some id =>
      if bits h.toNat 63 57 ≠ 0 then x 4 0
      else if !chipReached s id then x 7 0
      else if remoteVA h off ≥ 2 ^ 57 then x 0 0
      else match remoteWalk s id (remoteVA h off) with
        | .fail why level => x why level
        | .leaf l => match permWhy l acc s.w.cur.priv with
          | some why => .fail { code := 0x05, taddr := w64 off, info := accInfo 3 why 3 rank acc }
          | none => .ok l (leafPA l (remoteVA h off))

/-- A write to a page under migration: its thread's access is held until M clears (03 R48). -/
def heldByMigration (acc : Acc) (l : List (Nat × Chk)) : Bool :=
  acc != .read && l.any (fun p => match p.2 with
    | .ok l _ => leafM l
    | _ => false)

/-- A remote access: until the remote chip has answered, the split waits (R117); a handle that names no rank, or a chip
that no route reaches, is judged here. -/
def remoteAccess (acc : Acc) (c : Cls) (size : Nat) (reads writes clean : List Nat) (sb : BitVec 6) (va : BitVec 7) (s : State)
    (k : Nat → List (Nat × W64 × Nat) → State → State) : State :=
  heldRegs ((va.toNat :: reads) ++ writes) s fun s => notDawn s fun s => withRegs (va.toNat :: reads) writes s fun s => specReads acc s fun s => withRoom c s fun s =>
    let h := sval s sb
    let l := (maskThreads s.w.cur.active).map (fun t => (t, chkRemote s acc size h (offVal s va t) (s.w.pGet va.toNat t)))
    let here := match remoteChip s h with
      | some id => bits h.toNat 63 57 != 0 || !chipReached s id
      | none => true
    if !here && s.w.cur.xlat < 2 then (parkHere s).modCur (fun p => { p with xlat := 1 })
    else if heldByMigration acc l then parkHere s
    else judged l s fun s => dataClean clean s fun s => k ((remoteChip s h).getD 0) (passed l) s

/-- REMOTE_TRANSLATION_DONE. -/
def translationDone (core slot split : Nat) (s : State) : State :=
  match s.allWarps.find? (fun w => w.resident && w.core == core && w.slot == slot) with
  | none => s
  | some w => s.modWarp w.uid (fun w => w.modSplit split (fun p => if p.xlat = 1 then { p with xlat := 2 } else p))

def execRemoteTranslationDone (core slot split : Nat) (s : State) : Out := .next (translationDone core slot split s)

/-! ## The instructions (06 R125) -/

/-- A remote load. -/
def remoteLoad (size : Nat) (d : BitVec 7) (sb : BitVec 6) (va : BitVec 7) (s : State) : State :=
  inRange (size == 4 || d.toNat % 2 == 0) s fun s =>
    remoteAccess .read .ld size [] (regGroup d.toNat (dataRegs size)) [] sb va s fun chip ps s =>
      issueLoad size .zero true false d.toNat
        (ps.map (fun p => { t := p.1, place := .remote chip p.2.2 (leafPR p.2.1) })) [] s

/-- Writes to a remote chip: one per line, none of which touches this core's L1. -/
def sendRemote (chip : Nat) (parts : List (Nat × WPart)) (s : State) : State :=
  let gs := groupLines parts
  let op := s.nextId
  let ws := (List.range gs.length).map (fun i =>
    ({ id := op + 1 + i, warp := s.w.uid, op := op, rank := some chip, line := (gs[i]?.map (·.1)).getD 0
       parts := (gs[i]?.map (·.2)).getD []
       by_ := { warp := some s.w.uid, asid := s.ctx.asid } } : Write))
  finish { s with
    nextId := op + 1 + gs.length
    writes := s.writes ++ ws
    w := s.w.addOp op .st .write [] gs.length gs.isEmpty 0 }

/-- A remote write that this very chip takes is a core's store to its own memory: watched (16 R353). -/
def watchRemote (chip size : Nat) (ps : List (Nat × W64 × Nat)) (s : State) (k : State → State) : State :=
  if chip = s.dev.chipId then watchChecked size (ps.map (fun p => (p.1, p.2.2))) s k else k s

/-- A remote store. -/
def remoteStore (size : Nat) (d : BitVec 7) (sb : BitVec 6) (va : BitVec 7) (s : State) : State :=
  inRange (size == 4 || d.toNat % 2 == 0) s fun s =>
    remoteAccess .write .st size (regGroup d.toNat (dataRegs size)) [] [] sb va s fun chip ps s => watchRemote chip size ps s fun s =>
      sendRemote chip (ps.map (fun p =>
        (lineOf p.2.2, WPart.store p.2.2 (storeBytes s.w size d.toNat p.1) (storePois s.w size d.toNat p.1)))) s

/-- A remote reduction. -/
def remoteReduce (fn : Rmw) (d : BitVec 7) (sb : BitVec 6) (va : BitVec 7) (s : State) : State :=
  remoteAccess .atomic .st 4 [d.toNat] [] [d.toNat] sb va s fun chip ps s => watchRemote chip 4 ps s fun s =>
    sendRemote chip (ps.map (fun p => (lineOf p.2.2, WPart.rmw p.2.2 fn (s.w.vGet d.toNat p.1) 0 p.1))) s

def execLdxw (d : BitVec 7) (sb : BitVec 6) (va : BitVec 7) (s : State) : Out := .next (remoteLoad 4 d sb va s)
def execStxw (d : BitVec 7) (sb : BitVec 6) (va : BitVec 7) (s : State) : Out := .next (remoteStore 4 d sb va s)
def execNxadd (d : BitVec 7) (sb : BitVec 6) (va : BitVec 7) (s : State) : Out := .next (remoteReduce .add d sb va s)
def execNxfadd (d : BitVec 7) (sb : BitVec 6) (va : BitVec 7) (s : State) : Out := .next (remoteReduce .fadd d sb va s)
def execLdxd (d : BitVec 7) (sb : BitVec 6) (va : BitVec 7) (s : State) : Out := .next (remoteLoad 8 d sb va s)
def execStxd (d : BitVec 7) (sb : BitVec 6) (va : BitVec 7) (s : State) : Out := .next (remoteStore 8 d sb va s)

/-! ## At the remote home (06 R104, R110, R117) -/

/-- The memory, poison and leases of a chip of the group. -/
def chipMem (s : State) (id : Nat) : List Host.Cell × List Nat × List (Nat × Nat) :=
  if id = s.dev.chipId then (s.mem, s.mp, s.lexp)
  else match s.chips.find? (fun c => c.id == id) with
    | some c => (c.mem, c.mp, c.lexp)
    | none => ([], [], [])
def setChipMem (id : Nat) (mem : List Host.Cell) (mp : List Nat) (s : State) : State :=
  if id = s.dev.chipId then { s with mem := mem, mp := mp }
  else { s with chips := modFirst (fun c => c.id == id) (fun c => { c with mem := mem, mp := mp }) s.chips }

/-- A remote write is applied, exactly once, and gets its WCT; on this chip a snapshot copies its granule first (12 R267). -/
def applyRemote (x : Write) (chip : Nat) (s : State) : State :=
  if !writeMayRun x s then s
  else
    let o := if chip = s.dev.chipId ∧ (applyParts x.parts s.mem s.mp).did then saveOld (· == x.line / 32) s else (s, false)
    let m := chipMem o.1 chip
    let r := applyParts x.parts m.1 m.2.1
    let wct := if r.did then max s.time (tabGet 0 x.line m.2.2) + copyTime s o.2 else 0
    let s1 := setChipMem chip r.mem r.mp { o.1 with
      shoots := s.shoots.map (Shoot.seen x.id wct)
      writes := modFirst (fun y => y.id == x.id) (fun y => { y with applied := some wct }) s.writes }
    if chip ≠ s.dev.chipId then s1 else barHome x.warp x.line (if r.did then wakeMonitors x.line s1 else s1)

/-- Read the remote parts of a load at their homes; on this very chip a speculative team sees what it holds (06 R137). -/
def readRemote (t : Option Team) (size : Nat) (s : State) (p : LoadPart) : LoadPart := match p.place with
  | .remote chip pa pr =>
    let m := chipMem s chip
    let r := specOverlay (if chip = s.dev.chipId then t else none) pa size (memBytes m.1 pa size) (granPoisoned m.2.1 pa size)
    { p with place := .got r.1 (pr || r.2) }
  | _ => p

/-- A remote load is performed. -/
def performRemote (w : Warp) (id : Nat) (s : State) : State :=
  s.modWarp w.uid (fun w => w.modOp id (fun o => match o.kind with
    | .load size ext d h acq ps => if loadMayRun s w.uid id (loadSpans s.dev.chipId size ps) then { o with kind := .load size ext d h acq (ps.map (readRemote ((s.findTeam w.team).filter (·.spec)) size s)) } else o
    | _ => o))

/-- REMOTE_ACCESS: a remote write, or a remote load by its operation. -/
def remoteArrives (k : Nat) (s : State) : State :=
  match s.writes.find? (fun x => x.id == k && x.applied == none && x.rank.isSome) with
  | some x => applyRemote x (x.rank.getD 0) s
  | none => match s.allWarps.find? (fun w => w.ops.any (fun o => o.id == k && !o.done)) with
    | some w => performRemote w k s
    | none => s

def execRemoteAccess (k : Nat) (s : State) : Out := .next (remoteArrives k s)

/-! ## Links (13 R296) -/

/-- The address of a context's table of a group, from its directory. -/
def groupTable (s : State) (c : Ctx) (g : Nat) : Option Nat :=
  match ctxPA s c (c.gdBase + 8 * g) with
  | some pa => let a := memNat s.mem pa 8; if a = 0 then none else some a
  | none => none

/-- Ablas writes the positions of a group's ranks and its signature. -/
def writeTree (s : State) (c : Ctx) (table : Nat) (pos : List Nat) : State :=
  let put := fun (s : State) (a : Nat) (f : Nat → Nat) => match ctxPA s c a with
    | some pa => putHome pa (toBytes 8 (f (memNat s.mem pa 8))) s
    | none => s
  let ranks := (List.range pos.length).map (fun p => (pos.findIdx? (fun x => x == p)).getD 0)
  let s1 := (List.range pos.length).foldl (fun s r =>
    put s (table + 64 + 8 * r) (fun x => x - bits x 23 12 * 2 ^ 12 + (pos.getD r 0) % 4096 * 2 ^ 12)) s
  put s1 (table + 8) (fun _ => (treeSig ranks).toNat)

/-- The table of a group that Ablas reroutes: of the directory, or of the launch whose number and 256 it gives as the
group. -/
def reroutedTable (s : State) (c : Ctx) (g : Nat) : Option Nat :=
  if g < 256 then groupTable s c g
  else (s.launches.find? (fun l => l.id + 256 == g && l.asid == c.asid && l.xmode == 1)).map (·.group.toNat)

/-- The fabric map gives the ranks on some chips these positions from now on. -/
def noteTree (chips pos : List Nat) (s : State) : State :=
  { s with dev := { s.dev with trees := (chips, pos) :: s.dev.trees.filter (fun x => x.1 != chips) } }

/-- The chips of a table's first n ranks. -/
def tableChips (s : State) (c : Ctx) (t n : Nat) : List Nat :=
  (List.range n).map (fun r => (((ctxPA s c (t + 64 + 8 * r)).map (fun pa => memNat s.mem pa 8)).getD 0) % 4096)

/-- LINK_FAILURE: new positions for the named groups (ASID, group, position of each rank), and the chips no route
reaches. -/
def linkFailure (groups : List (Nat × Nat × List Nat)) (cut : List Nat) (s : State) : State :=
  let s1 := { s with dev := { s.dev with cut := cut.foldl (fun l c => setIns c l) s.dev.cut, reroutes := s.dev.reroutes + 1 } }
  groups.foldl (fun s g => match s.findCtx g.1 with
    | none => s
    | some c => match reroutedTable s c g.2.1 with
      | none => s
      | some t =>
        let p := (ctxPA s c t).map (fun pa => memNat s.mem pa 8 % 8192)
        if p = some g.2.2.length ∧ (List.range g.2.2.length).all g.2.2.contains then
          noteTree (tableChips s c t g.2.2.length) g.2.2 (writeTree s c t g.2.2)
        else s) s1

def execLinkFailure (groups : List (Nat × Nat × List Nat)) (cut : List Nat) (s : State) : Out := .next (linkFailure groups cut s)

end Sys2Proof.Machine
end

