-- ==== Sys2Proof/Machine/Collectives.lean ====
section
/-! DEFINITION. Collectives and barrier objects (13 R278 to R295): COLL, the collective service, and the instructions of
major 0x37. -/

namespace Sys2Proof.Machine

open Sys2Proof

/-! ## Groups (R278 to R280, R299) -/

/-- A group: chip and team index of each rank, position of each rank, signature. -/
structure Group where
  ranks : List (Nat × Nat)
  pos   : List Nat
  sig   : W64
  deriving DecidableEq, Repr

/-- A group whose positions are its ranks. -/
def plainGroup (ranks : List (Nat × Nat)) : Group :=
  { ranks := ranks, pos := List.range ranks.length, sig := treeSig (List.range ranks.length) }

/-- A process-group table that is well formed but for its positions (R279). -/
def readTable (s : State) (c : Ctx) (t : Nat) : Option Group :=
  let dw := fun a => (ctxPA s c a).map (fun pa => memNat s.mem pa 8)
  match dw t, dw (t + 8), dw (t + 16), ([24, 32, 40, 48, 56].map (fun o => dw (t + o))).all (· == some 0) with
  | some h0, some h1, some h2, true =>
    let p := h0 % 8192
    let es := (List.range p).filterMap (fun r => dw (t + 64 + 8 * r))
    let ranks := es.map (fun e => (e % 4096, e / 2 ^ 32))
    let ok := t % 64 == 0 && decide (1 ≤ p) && decide (p ≤ 4096) && bits h0 31 13 == 0 && h2 / 4096 == 0 && es.length == p
      && es.all (fun e => bits e 31 24 == 0) && decide ranks.Nodup
      && (ranks.map (·.1)).eraseDups.length == h2 % 4096
    if ok then some { ranks := ranks, pos := es.map (fun e => bits e 23 12), sig := w64 h1 } else none
  | _, _, _, _ => none

/-- The group of a process-group table, where it is well formed (R279). -/
def tableGroup (s : State) (c : Ctx) (t : Nat) : Option Group :=
  (readTable s c t).filter (fun g => decide g.pos.Nodup && g.pos.all (fun x => decide (x < g.pos.length)))

/-- The positions that Ablas gives the ranks on some chips by its map of the fabric: those it gave before, else a permutation
that the model leaves free for each state of the map. -/
def treePositions (s : State) (chips : List Nat) : List Nat :=
  let n := chips.length
  let key := Config.treeKey s.dev.reroutes chips
  (s.dev.trees.lookup chips).getD
    ((List.range n).map (fun r => ((List.range n).filter (fun q => decide (key q < key r) || (key q == key r && decide (q < r)))).length))

/-- Ablas binds a table: POS and SIG are written once for a launch and the ranks it names, and again by a reroute (R279,
R296). The spec has no command that binds a group: a table is bound when a packet or a collective of a launch first names it
(log 113, DESIGN CHOICE). -/
def bindTable (asid launch t : Nat) (s : State) : State :=
  let c := (s.findCtx asid).getD {}
  match readTable s c t with
  | none => s
  | some g =>
    if c.bound.contains (t, launch, g.ranks) then s
    else
      let chips := g.ranks.map (·.1)
      let pos := treePositions s chips
      (noteTree chips pos (writeTree s c t pos)).modCtx asid (fun c => { c with bound := (t, launch, g.ranks) :: c.bound })

/-- Group 0 of a team, the launch's own (R278, R299). -/
def ownGroup (s : State) (c : Ctx) (t : Team) : Option Group :=
  match t.xmode with
  | 1 => tableGroup s c t.group.toNat
  | _ =>
    let ranks := t.chips.flatMap (fun x => (List.range t.nteam).map (fun i => (x, i)))
    if ranks.length ≤ 4096 then some (plainGroup ranks) else none

/-- The table of a group, where it has one. -/
def teamTable (s : State) (c : Ctx) (t : Team) (g : Nat) : Option Nat :=
  if g ≠ 0 then groupTable s c g else if t.xmode = 1 then some t.group.toNat else none

def groupOf (s : State) (c : Ctx) (t : Team) (g : Nat) : Option Group :=
  if g = 0 then ownGroup s c t else (groupTable s c g).bind (tableGroup s c)

/-- What tells a group's collectives apart: its ranks are teams of one launch (R278). -/
def groupKeyOf (t : Team) (g : Nat) : Nat := 256 * t.launch + g

/-! ## COLL (R281 to R283) -/

def ctlGroup (c : W64) : Nat := bits c.toNat 15 8
def ctlCollOp (c : W64) : Nat := bits c.toNat 3 0
def ctlRoot (c : W64) : Nat := bits c.toNat 35 24
def ctlTmo (c : W64) : Nat := bits c.toNat 23 16
def ctlHnd (c : W64) : W64 := w64 (bits c.toNat 63 36)

/-- The warps of a team that have not exited. -/
def liveWarps (s : State) (t : Team) : List Warp := s.allWarps.filter (fun w => w.team == t.uid && !w.dawn && !w.ended)

/-- The collectives of a group and order at this chip's ranks. -/
def ranksHere (s : State) (asid gkey ord : Nat) : List Coll :=
  s.colls.filter (fun x => x.member && x.asid == asid && x.gkey == gkey && x.ord == ord)

/-- A collective with its group: the one that another rank of the chip has started with, or as it is bound now (R296). -/
def withGroup (s : State) (t : Team) (c : Coll) (g : Nat) : Coll :=
  let put := fun (ranks : List (Nat × Nat)) (pos : List Nat) (sig : W64) =>
    let r := ranks.findIdx? (fun r => r == (s.dev.chipId, t.index))
    { c with bound := true, member := r.isSome, rank := r.getD 0, pos := pos, sig := sig, chips := ranks.map (·.1), teams := ranks.map (·.2) }
  match ranksHere s c.asid c.gkey c.ord with
  | x :: _ => put (x.chips.zip x.teams) x.pos x.sig
  | [] => match groupOf s ((s.findCtx t.asid).getD {}) t g with
    | some gr => put gr.ranks gr.pos gr.sig
    | none => c

/-- Hand the next collective of a team over if every warp still there has arrived; at most n of them. -/
def handOver (team : Nat) : Nat → State → State
  | 0, s => s
  | n + 1, s => match s.findTeam team with
    | none => s
    | some t =>
      let k := t.collNo + 1
      let mine := t.arrivals.filter (fun a => a.k == k)
      match mine with
      | [] => s
      | a :: _ =>
        if (liveWarps s t).any (fun w => decide (w.collNo < k)) then s
        else
          let g := ctlGroup a.ctl
          let key := groupKeyOf t g
          let o := tabGet 0 key t.collOrds
          let s1 := match teamTable s ((s.findCtx t.asid).getD {}) t g with
            | some a => bindTable t.asid t.launch a s
            | none => s
          let lead := (s.allWarps.find? (fun w => w.team == team && !w.dawn && w.wid == 0)).map (·.uid)
          let c : Coll := { id := s.nextId, team := team, asid := t.asid, k := k, arr := mine, handed := s.time, gkey := key, ord := o, lead := lead }
          handOver team n ({ s1 with nextId := s.nextId + 1, colls := s.colls ++ [withGroup s1 t c g] }.modTeam team (fun t => { t with
            collNo := k, collOrds := tabSet 0 key (o + 1) t.collOrds, arrivals := t.arrivals.filter (fun a => a.k != k) }))

/-- Hand over whatever is complete. -/
def handAll (team : Nat) (s : State) : State := handOver team (((s.findTeam team).map (·.arrivals.length)).getD 0) s

/-- COLL. -/
def coll (d a : BitVec 4) (h : BitVec 6) (e : BitVec 2) (s : State) : State :=
  inRange (decide (h.toNat ≤ 62)) s fun s => notDawn s fun s => withRoom .cl s fun s =>
    if s.w.splits.length ≠ 1 then stageTrap 0x11 s
    else notSpec 4 s fun s => afterFence 4 s fun s =>
      let op := s.nextId
      let k := s.w.collNo + 1
      let x : CollArrival := { warp := s.w.uid, k := k, dd := s.w.tdGet d.toNat, da := s.w.tdGet a.toNat, ctl := sval s h
                               obj := s.w.sGet (h.toNat + 1), ec := e.toNat, fpe := s.w.enables, op := op, priv := s.w.cur.priv }
      let s1 := { s with
        nextId := op + 1
        w := { (s.w.addOp op .cl (.coll k) [] 0 false 0).modOp op (fun o => { o with hnd := if ctlCollOp x.ctl ≤ 1 then ctlHnd x.ctl else 0 }) with
          collNo := k }
        team := { s.team with arrivals := s.team.arrivals ++ [x] } }
      finish (handAll s.team.uid s1)

def execColl (d a : BitVec 4) (h : BitVec 6) (e : BitVec 2) (s : State) : Out := .next (coll d a h e s)

/-! ## The service's judgement (R284, R285) -/

/-- The arrival whose operands the service uses. -/
def Coll.first (c : Coll) : CollArrival :=
  c.arr.headD { warp := 0, k := 0, dd := 0, da := 0, ctl := 0, obj := 0, ec := 0, fpe := 0, op := 0, priv := false }
def Coll.ctl (c : Coll) : W64 := c.first.ctl
def Coll.op (c : Coll) : Nat := ctlCollOp c.ctl
/-- FPE as captured at the last arrival (R287). -/
def Coll.fpe (c : Coll) : BitVec 5 := ((c.arr.getLast?).map (·.fpe)).getD 0
def Coll.ranks (c : Coll) : Nat := c.pos.length

/-- The service acts for the issuing warps. -/
def Coll.agent (c : Coll) : Agent :=
  { asid := c.asid, priv := c.first.priv, by_ := { kind := 4, seq := c.k, warp := c.lead, asid := c.asid } }

def collFail (c : Coll) (sub detail addr : Nat) : EFail := engineFail 0x7E (ctlGroup c.ctl % 64) 0xFD c.k sub detail addr

/-- The routine of a reduction; RNE, and a built-in one never fails (R287). -/
noncomputable def collFun (s : State) (c : Coll) : Option RFun :=
  let h := ctlHnd c.ctl
  match builtin s.tick 0 h.toNat with
  | some f => some f
  | none => routineOf (c.agent.ctx s) s.tick 1 c.fpe h

/-- DETAIL 0: the object's alignment, reserved fields, ROOT. -/
def collReserved (c : Coll) (p : Nat) : Bool :=
  c.first.obj.toNat % 64 != 0 || bits c.ctl.toNat 6 4 != 0 || decide (c.op ≥ 5) || (c.op != 3 && ctlRoot c.ctl != 0)
  || decide (ctlRoot c.ctl ≥ max p 1)

/-- Shapes of R285 for P ranks, as far as P is known. -/
def collShapes (op : Nat) (p : Option Nat) (dd da : Desc) : Bool :=
  dCols dd == dCols da && (match op with
  | 1 => p.all (fun p => dRows da == p * dRows dd)
  | 2 => p.all (fun p => dRows dd == p * dRows da)
  | 4 => dRows da == dRows dd && p.all (fun p => dRows da % p == 0)
  | _ => dRows da == dRows dd)

/-- DETAIL 6: operands that differ, shapes, types, layout, a handle where none belongs. -/
def collShapeBad (c : Coll) (p : Option Nat) (f : Option RFun) : Bool :=
  let a := c.first
  c.arr.any (fun x => !(x.dd == a.dd && x.da == a.da && x.ctl == a.ctl && x.obj == a.obj))
  || dLayout a.dd != 0 || dLayout a.da != 0 || dType a.dd != dType a.da || !collShapes c.op p a.dd a.da
  || (match f with
    | some f => !f.assoc || !f.comm || !wordTile f.width a.dd || !wordTile f.width a.da
    | none => ctlHnd c.ctl != 0)

/-- The service cores that the issuing team's partition reserves on each die (R293). -/
def serviceCores (s : State) (c : Coll) : Nat :=
  ((s.parts.find? (fun p => p.range.quarter == (c.agent.ctx s).part)).map (·.service)).getD 0

/-- The collectives of the same group and order at this chip's other ranks. -/
def peersOf (s : State) (c : Coll) : List Coll :=
  if c.member then (ranksHere s c.asid c.gkey c.ord).filter (fun x => x.id != c.id) else []

/-- Elements of a source. -/
def Coll.count (c : Coll) : Nat := dRows c.first.da * dCols c.first.da

/-- DETAIL 6 too: a rank of this chip that started before gives another type, or another shape of as many elements (R285). -/
def peerShapeBad (s : State) (c : Coll) : Bool :=
  (peersOf s c).any (fun x => x.started && x.fail.isNone &&
    (dType x.first.da != dType c.first.da || (x.count == c.count && dRows x.first.da != dRows c.first.da)))

/-- DETAIL 10: a rank of this chip that started before disagrees. -/
noncomputable def collDiffers (s : State) (c : Coll) : Bool :=
  (peersOf s c).any (fun x => x.started && x.fail.isNone &&
    (x.op != c.op || ctlRoot x.ctl != ctlRoot c.ctl || x.count != c.count
    || ((collFun s x).map (fun f => (f.width, f.assoc)) != (collFun s c).map (fun f => (f.width, f.assoc)))))

/-- Bytes of a row of a buffer. -/
def rowLen (d : Desc) : Nat := lineLen (typeWidth (dType d)) (dCols d)

/-- The judgement: its first failure. -/
noncomputable def judgeColl (s : State) (c : Coll) : Option Err :=
  let g := c.agent
  let a := c.first
  let p := if c.bound then some c.ranks else none
  let f := if c.op ≤ 1 then collFun s c else none
  if collReserved c (p.getD 4096) then some (3, 0, a.obj.toNat)
  else if dMalformed a.dd || dMalformed a.da || dSpace a.dd || dSpace a.da then some (3, 1, 0)
  else if c.op ≤ 1 ∧ f.isNone then some (7, 0, (ctlHnd c.ctl).toNat)
  else if collShapeBad c p f || peerShapeBad s c then some (3, 6, 0)
  else if !c.bound || !c.member || serviceCores s c == 0 then some (3, 9, 0)
  else if collDiffers s c then some (3, 10, 0)
  else if c.chips.any (fun x => !chipReached s x) then some (4, 7, 0)
  else match rangesFault s g false .read (if c.op = 3 ∧ c.rank ≠ ctlRoot c.ctl then [] else tileRanges a.da),
      rangesFault s g false .write (tileRanges a.dd), rangeFault s g false .atomic a.obj.toNat 64 with
    | some f, _, _ => some (4, f.1, f.2)
    | none, some f, _ => some (4, f.1, f.2)
    | none, none, some f => some (4, f.1, f.2)
    | none, none, none => none

/-! ## Failures at every rank (R289) -/

def modColl (id : Nat) (f : Coll → Coll) (s : State) : State := { s with colls := modFirst (fun c => c.id == id) f s.colls }

/-- What another rank's failure is here: a timeout is an abort with DETAIL 2. -/
def abortOf (sub detail : Nat) : Nat × Nat := if sub = 9 ∧ detail = 0 then (9, 2) else (sub, detail)

/-- A collective fails at its rank and at every other rank of the chip that has not completed. -/
def failColl (c : Coll) (sub detail addr : Nat) (s : State) : State :=
  let s1 := modColl c.id (fun c => { c with fail := c.fail.orElse (fun _ => some (collFail c sub detail addr)) }) s
  let ab := abortOf sub detail
  (peersOf s c).foldl (fun s x => modColl x.id (fun x =>
    if x.done || x.fail.isSome then x else { x with fail := some (collFail x ab.1 ab.2 0) }) s) s1

/-- The failure that an earlier rank of the chip left for this one. -/
def inherited (s : State) (c : Coll) : Option (Nat × Nat) :=
  (peersOf s c).findSome? (fun x => x.fail.map (fun f => abortOf f.sub f.detail))

/-- The bytes of a buffer by row, with poison. -/
def readRows (s : State) (g : Agent) (d : Desc) : List (Byte × Bool) :=
  (List.range (dRows d)).flatMap (fun i => (List.range (rowLen d)).map (fun b =>
    (agentByte s g false (dBase d + i * dStride d + b), agentPoi s g false (dBase d + i * dStride d + b))))

/-- What the service reads of a rank's source: a broadcast reads the root's only. -/
def Coll.source (s : State) (c : Coll) : List (Byte × Bool) :=
  if c.op = 3 ∧ c.rank ≠ ctlRoot c.ctl then [] else readRows s c.agent c.first.da

/-- Whether the collective may reduce in the switches, as far as its own rank has a say (R295). -/
def Coll.mayswitch (c : Coll) : Bool :=
  decide (c.op ≤ 1) && decide (1 ≤ (ctlHnd c.ctl).toNat) && decide ((ctlHnd c.ctl).toNat ≤ 3) && !bit c.ctl.toNat 7 && Config.switched c.sig

/-- No rank of the chip that has started forbids the switches. -/
def switched (s : State) (c : Coll) : Bool := c.mayswitch && (peersOf s c).all (fun x => !x.started || x.mayswitch)

/-- Where a collective is reduced, at every rank of the chip that has not completed it; it starts from its contributions. -/
def setSwitched (c : Coll) (b : Bool) (s : State) : State :=
  (c :: peersOf s c).foldl (fun s x => modColl x.id (fun x => if x.done then x else { x with sw := b, nodes := if x.sw = b then x.nodes else [] }) s) s

/-- COLLECTIVE_START: the judgement, and the contribution. -/
noncomputable def collectiveStart (id : Nat) (s : State) : State :=
  let begin := modColl id (fun c => { c with started := true })
  match s.colls.find? (fun c => c.id == id && !c.started && c.fail.isNone) with
  | none => s
  | some c => match inherited s c with
    | some ab => begin (modColl id (fun c => { c with fail := some (collFail c ab.1 ab.2 0) }) s)
    | none => match judgeColl s c with
      | some e => begin (failColl c e.1 e.2.1 e.2.2 s)
      | none =>
        if c.op ≤ 1 ∧ (c.source s).any (·.2) then begin (failColl c 5 0 (dBase c.first.da) s)
        else begin (setSwitched c (switched s c) (modColl id (fun c => { c with raw := c.source s }) s))

noncomputable def execCollectiveStart (coll : Nat) (s : State) : Out := .next (collectiveStart coll s)

/-! ## The tree (R286, R287, R294) -/

/-- A number for a collective of a group, the same at every rank. -/
def Coll.key (c : Coll) : Nat := (c.asid * 2 ^ 64 + c.gkey) * 2 ^ 64 + c.ord

/-- Words of a contribution's bytes. -/
def rawWords : List (Byte × Bool) → Nat → List W32
  | _, 0 => []
  | l, n + 1 => w32 (ofBytes ((l.take 4).map (·.1))) :: rawWords (l.drop 4) n
def Coll.words (c : Coll) : Nat := dRows c.first.da * dCols c.first.da

/-- The contribution of a rank: its own, another rank's of this chip once that has started, or a remote chip's. -/
def contribution (s : State) (c : Coll) (rank : Nat) : Option (List (Byte × Bool)) :=
  let n := dRows c.first.da * rowLen c.first.da
  if rank = c.rank then some c.raw
  else if (c.chips[rank]?) = some s.dev.chipId then
    ((peersOf s c).find? (fun x => x.started && x.fail.isNone && x.rank == rank)).map (·.raw)
  else some ((List.range n).map (fun i => (Config.remoteByte c.key rank i, false)))

/-- The rank at a position. -/
def Coll.rankAt (c : Coll) (p : Nat) : Nat := (c.pos.findIdx? (fun x => x == p)).getD 0

/-- node(p, h), where it has been computed. -/
def nodeAt (s : State) (c : Coll) (p h : Nat) : Option (List W32) :=
  if h = 1 then
    let r := c.rankAt p
    if (c.chips[r]?) = some s.dev.chipId then (contribution s c r).map (fun l => rawWords l c.words)
    else some ((List.range c.words).map (Config.remoteWord c.key r))
  else (c.nodes.find? (fun x => x.1 == h * 8192 + p)).map (·.2)

/-- The elements of a list of words. -/
def elemsOf (w : Nat) (l : List W32) : List RVal := (List.range (l.length / w)).map (fun i => (l.drop (i * w)).take w)

/-- COLLECTIVE_TREE_NODE: node (p, h) from its two inputs, or from one where there is no other. -/
noncomputable def treeNode (id p h : Nat) (s : State) : State :=
  match s.colls.find? (fun c => c.id == id && c.started && c.fail.isNone && !c.wrote) with
  | none => s
  | some c => match collFun s c with
    | none => s
    | some f =>
      if c.op > 1 ∨ h < 2 ∨ 2 ^ Nat.log2 h ≠ h ∨ p % h ≠ 0 ∨ p ≥ c.ranks ∨ h ≥ 2 * c.ranks then s
      else
        let keep := fun (l : List W32) => modColl id (fun c => { c with nodes := tabIns (h * 8192 + p) l (tabDel (h * 8192 + p) c.nodes) }) s
        match nodeAt s c p (h / 2), if p + h / 2 < c.ranks then (nodeAt s c (p + h / 2) (h / 2)).map some else some none with
        | some a, some none => keep a
        | some a, some (some b) =>
          match ((elemsOf f.width a).zip (elemsOf f.width b)).mapM (fun x => (f.comb x.1 x.2).map (·.1)) with
          | .ok l => keep (l.flatMap id')
          | .error _ => failColl c 8 0 0 s
        | _, _ => s
where
  id' (v : RVal) : List W32 := v

noncomputable def execCollectiveTreeNode (coll pos height : Nat) (s : State) : Out := .next (treeNode coll pos height s)

/-- The height of the root: the least power of two not below P. -/
def rootHeight (p : Nat) : Nat := if p ≤ 1 then 1 else 2 ^ (Nat.log2 (p - 1) + 1)

/-- Rows of bytes of another buffer. -/
def rowsOf (l : List (Byte × Bool)) (n first count : Nat) : List (Byte × Bool) := (l.drop (n * first)).take (n * count)

/-- Every rank of this chip has started: none completes before another has issued it, and been judged (R284, R289). -/
def ranksStarted (s : State) (c : Coll) : Bool :=
  (List.range c.ranks).all (fun r => c.chips[r]? != some s.dev.chipId || (contribution s c r).isSome)

/-- The bytes that a rank's destination receives, by row; none: something is still missing. -/
def collResult (s : State) (c : Coll) : Option (List (Byte × Bool)) :=
  if !ranksStarted s c then none else
  let a := c.first
  let n := rowLen a.dd
  let m := dRows a.dd
  let ofWords := fun (l : List W32) => l.flatMap (fun x => (toBytes 4 x.toNat).map (fun b => (b, false)))
  match c.op with
  | 0 => (nodeAt s c 0 (rootHeight c.ranks)).map ofWords
  | 1 => (nodeAt s c 0 (rootHeight c.ranks)).map (fun l => rowsOf (ofWords l) n (c.rank * m) m)
  | 2 => ((List.range c.ranks).mapM (contribution s c)).map (fun l => l.flatten)
  | 3 => contribution s c (ctlRoot c.ctl)
  | _ => ((List.range c.ranks).mapM (contribution s c)).map (fun l => l.flatMap (fun x => rowsOf x n (c.rank * (m / c.ranks)) (m / c.ranks)))

/-- The last byte of a row of an odd number of d4 elements holds 0x7 above (05 R87). -/
def fixRow (d : Desc) (b : Nat) (x : Byte × Bool) : Byte × Bool :=
  if typeWidth (dType d) = 4 ∧ dCols d % 2 = 1 ∧ b + 1 = rowLen d then (BitVec.ofNat 8 (x.1.toNat % 16 + 0x70), x.2) else x

/-- Write a rank's destination. -/
def writeResult (c : Coll) (l : List (Byte × Bool)) (s : State) : State :=
  let d := c.first.dd
  let g := c.agent
  if rangeHeld s g false (tileRanges d) then s
  else
    let out := (List.range (dRows d)).flatMap (fun i => (List.range (rowLen d)).map (fun b =>
      let x := fixRow d b (l.getD (i * rowLen d + b) (0, false))
      ((dBase d + i * dStride d + b, x.1, x.2) : Out8)))
    let r := agentPut g false out s
    modColl c.id (fun c => { c with wrote := true, wct := max c.wct r.2 }) r.1

/-! ## Barrier objects (R290 to R292) -/

/-- A dword of an object as its bytes stand. -/
def objDw (bs : List Byte) (i : Nat) : Nat := ofBytes ((bs.drop (8 * i)).take 8)

/-- The bytes of an object. -/
def objBytes (dws : List Nat) : List Byte := dws.flatMap (toBytes 8)

/-- An arrival (R291). -/
def objArrive (now : Nat) (bs : List Byte) : List Byte :=
  let dw := objDw bs
  let pend := (dw 1 + 2 ^ 64 - 1) % 2 ^ 64
  if pend = 0 then objBytes [dw 0 + 1, dw 2 % 512, dw 2, dw 3, dw 4, now, dw 6, dw 7]
  else objBytes [dw 0, pend, dw 2, dw 3, dw 4, dw 5, dw 6, dw 7]

/-- STATUS (dword 6). -/
def statusWord (c : Coll) : Nat :=
  bitOf c.fail.isSome * 2 ^ 63 + (c.fail.map (·.sub)).getD 0 % 16 * 2 ^ 59 + (c.fail.map (·.detail)).getD 0 % 16 * 2 ^ 55
  + bitOf c.sw * 2 ^ 54 + c.k % 2 ^ 32

/-! ## Completion (R288, R289) -/

/-- The service's writes into the object, where it can be written: STATUS, and SIG of the group that the hand-over bound; with
no group SIG stays (notes/assumptions/114.md, DESIGN CHOICE). -/
def announce (c : Coll) (s : State) : State × Nat :=
  let g := c.agent
  let a := c.first.obj.toNat
  if a % 64 ≠ 0 ∨ (rangeFault s g false .atomic a 64).isSome then (s, 0)
  else
    let old := (List.range 64).map (fun i => agentByte s g false (a + i))
    let dw := objDw old
    let with_ := objBytes [dw 0, dw 1, dw 2, dw 3, dw 4, dw 5, statusWord c, if c.bound then c.sig.toNat else dw 7]
    agentPut g false (outBytes a (objArrive s.time with_)) s

/-- A collective goes once every rank of the chip has completed it: until then the others need what it contributed, and how
it failed. -/
def prune (c : Coll) (s : State) : State :=
  let ranks := ((c.chips.zip c.teams).filter (fun p => p.1 == s.dev.chipId)).length
  let all := c :: peersOf s c
  if !c.member then { s with colls := s.colls.filter (fun x => x.id != c.id) }
  else if all.all (·.done) ∧ all.length ≥ ranks then
    { s with colls := s.colls.filter (fun x => !(x.member && x.asid == c.asid && x.gkey == c.gkey && x.ord == c.ord)) }
  else s

/-- The collective completes: object, arrival, retirement at every warp of the team. -/
def finishColl (c : Coll) (s : State) : State :=
  let r := announce c s
  let s1 := c.arr.foldl (fun s a => retireWork a.warp a.op (max c.wct r.2) 0 c.fail s) r.1
  let c1 := { c with done := true }
  prune c1 (modColl c.id (fun _ => c1) s1)

/-- COLLECTIVE_COMPLETION: writes the destination, then, once its WCTs have passed at fabric scope, completes. -/
def collectiveCompletion (id : Nat) (s : State) : State :=
  match s.colls.find? (fun c => c.id == id && c.started && !c.done) with
  | none => s
  | some c =>
    if c.fail.isSome ∨ c.wrote then
      if c.wct ≠ 0 ∧ s.time ≤ c.wct + Config.fabricSkew then s else finishColl c s
    else match collResult s c with
      | none => s
      | some l => match rangesFault s c.agent false .write (tileRanges c.first.dd) with
        | some f => failColl c 4 f.1 f.2 s
        | none => writeResult c l s

def execCollectiveCompletion (coll : Nat) (s : State) : Out := .next (collectiveCompletion coll s)

/-- COLLECTIVE_TIMEOUT: TMO ms after the hand-over. -/
def collectiveTimeout (id : Nat) (s : State) : State :=
  match s.colls.find? (fun c => c.id == id && !c.done && c.fail.isNone) with
  | none => s
  | some c =>
    if ctlTmo c.ctl = 0 ∨ s.time < c.handed + ctlTmo c.ctl * 1000000 then s
    else modColl id (fun c => { c with started := true }) (failColl c 9 0 0 s)

def execCollectiveTimeout (coll : Nat) (s : State) : Out := .next (collectiveTimeout coll s)

/-- COLLECTIVE_ABORT: another rank's failure arrives. -/
def collectiveAbort (id sub detail : Nat) (s : State) : State :=
  match s.colls.find? (fun c => c.id == id && !c.done && c.fail.isNone) with
  | none => s
  | some _ => modColl id (fun c => { c with started := true, fail := some (collFail c (sub % 16) (detail % 16) 0) }) s

def execCollectiveAbort (coll sub detail : Nat) (s : State) : Out := .next (collectiveAbort coll sub detail s)

/-- SWITCH_REDUCTION_FAILURE: the service recomputes the whole collective at the endpoints on the same tree (R295). -/
def switchFailure (id : Nat) (s : State) : State :=
  match s.colls.find? (fun c => c.id == id && c.started && c.fail.isNone && !c.wrote && c.sw) with
  | none => s
  | some c => setSwitched c false s

def execSwitchReductionFailure (coll : Nat) (s : State) : Out := .next (switchFailure coll s)

/-! ## The barrier instructions (R291, R292) -/

/-- An instruction on an object: its bytes, and the physical address; a poisoned object raises POISON, and so does one that
is read on a page with PR = 1 (03 R40: every read of the page delivers poisoned data; DEDUCED, notes/assumptions/88.md). -/
def onObject (acc : Acc) (va : W64) (s : State) (k : Nat → List Byte → State → State) : State :=
  judgedScalar acc 64 va s fun l pa s =>
    if !loadMayRun s s.w.uid s.nextId [(s.dev.chipId, pa, 64)] then parkHere s
    else if granPoisoned s.mp pa 64 || (acc != .write && leafPR l) then takeTrap { code := 0x06, tsub := 6, taddr := va, tmask := s.w.cur.active } s
    else k pa (memBytes s.mem pa 64) s

/-- The object is written at home: the write has its WCT, and wakes the monitors of its line. -/
def putObject (pa : Nat) (bs : List Byte) (s : State) : State :=
  let r := homeWrite [(pa, bs, false)] { warp := some s.w.uid, asid := s.ctx.asid } s
  { r.1 with core := dropL1 [lineOf pa] r.1.core, w := { r.1.w with wmax := max r.1.w.wmax r.2 } }

/-- ABINIT and ABARR: a write of the object after a release, which a watchpoint may catch. -/
def writeObject (acc : Acc) (va : W64) (s : State) (k : Nat → List Byte → State → State) : State :=
  notDawn s fun s => notSpec 1 s fun s => afterFence 4 s fun s => onObject acc va s fun pa bs s =>
    watchChecked 64 ((maskThreads s.w.cur.active).map (fun t => (t, pa))) s fun s => k pa bs s

def execAbinit (d a : BitVec 6) (n : BitVec 9) (s : State) : Out :=
  .next (inRange (decide (1 ≤ n.toNat) && decide (n.toNat ≤ 256)) s fun s => writeObject .write (sval s a) s fun pa _ s =>
    putS d 1 (putObject pa (objBytes [0, n.toNat, n.toNat, 0, 0, 0, 0, 0]) s))

def execAbarr (d a : BitVec 6) (s : State) : Out :=
  .next (writeObject .atomic (sval s a) s fun pa bs s =>
    putS d (w64 (objDw bs 0)) (putObject pa (objArrive s.time bs) s))

def execAbwait (d a : BitVec 6) (s : State) : Out :=
  .next (inRange (decide (a.toNat ≤ 62)) s fun s => notDawn s fun s => onObject .read (sval s a) s fun _ bs s =>
    if objDw bs 0 > (argS s a 1).toNat then putS d (w64 (objDw bs 0)) (acquireNow s) else parkHere s)

def execAbtest (d a : BitVec 6) (s : State) : Out :=
  .next (inRange (decide (a.toNat ≤ 62)) s fun s => notDawn s fun s => onObject .read (sval s a) s fun _ bs s =>
    if objDw bs 0 > (argS s a 1).toNat then putS d 1 (acquireNow s) else putS d 0 s)

def execAbsig (d a : BitVec 6) (s : State) : Out :=
  .next (notDawn s fun s => onObject .read (sval s a) s fun _ bs s => putS d (w64 (objDw bs 7)) (acquireNow s))

end Sys2Proof.Machine
end

