-- ==== Sys2Proof/Machine/Schedule.lean ====
section
/-! DEFINITION. The scheduler (14 R301 to R326; 13 R293, R297 to R299): packets accepted and rejected, dependences and
priorities, placement, retirement and completion, job cards and the balancer. -/

namespace Sys2Proof.Machine

open Sys2Proof

/-! ## Partitions and cores (17 R370; 13 R293; 14 R321) -/

def State.partOf (s : State) (q : Nat) : Option Part := s.parts.find? (fun p => p.range.quarter == q)

/-- The cores of a partition: 40 of each quarter. -/
def partCores (p : Part) : List Nat := (List.range (40 * p.range.count)).map (· + 40 * p.range.quarter)

/-- The cores that placement may use: the highest-numbered ones of each die are the service's (13 R293). -/
def openCores (p : Part) : List Nat :=
  [0, 1].flatMap (fun d =>
    let l := (partCores p).filter (fun c => c / Config.coresPerDie == d)
    l.take (l.length - p.service))

/-- The teams resident on a core. -/
def residentTeams (s : State) (core : Nat) : List Team :=
  s.allTeams.filter (fun t => !t.retired && t.saved == none && t.core == core)

/-! ## Dependences and priority (R313 to R315) -/

def depOn (d : W64 × W64) : Bool := d.1.getLsbD 63
def depQ (d : W64 × W64) : Bool := d.1.getLsbD 6
def depNum (d : W64 × W64) : Nat := bits d.1.toNat 5 0

/-- A dependence is met (R313). -/
def depMet (s : State) (l : Launch) (d : W64 × W64) : Bool :=
  if !depOn d then true
  else if depQ d then decide (d.2.toNat ≤ (s.queue l.part (depNum d)).done)
  else match s.findCtx l.asid with
    | some c => match c.chain (depNum d) with
      | some ch => match ctxPA s c ch.cwAddr.toNat with
        | some pa => decide (d.2.toNat ≤ memNat s.mem pa 8 % 2 ^ 59)
        | none => false
      | none => false
    | none => false

/-- W needs L (R315). -/
def needs (s : State) (w l : Launch) : Bool :=
  !l.complete && !w.complete && w.part == l.part
  && w.deps.any (fun d => depOn d && depQ d && depNum d == l.queue && decide (l.seq ≤ d.2.toNat) && !depMet s w d)

/-- The effective priority through chains of at most n needs (R315). -/
def effPrio (s : State) : Nat → Launch → Nat
  | 0, l => l.prio
  | n + 1, l => (s.launches.filter (fun w => needs s w l)).foldl (fun m w => max m (effPrio s n w)) l.prio

def State.prio (s : State) (l : Launch) : Nat := effPrio s s.launches.length l

/-! ## Heads of the queues (R314) -/

/-- All teams of this chip have been placed. -/
def Launch.fullyPlaced (l : Launch) : Bool := decide (l.share.length ≤ l.placed)

/-- The heads of a partition's queues: the oldest launch of each that is not fully placed (R314). -/
def isHead (s : State) (l : Launch) : Bool :=
  !l.fullyPlaced && !l.complete
  && !s.launches.any (fun x => x.part == l.part && x.queue == l.queue && decide (x.seq < l.seq) && !x.fullyPlaced && !x.complete)

/-- A head that may start placement: dependences met, WCTs passed, released in replicated mode (R304, R313; 13 R299). -/
def eligible (s : State) (l : Launch) : Bool :=
  isHead s l && l.deps.all (depMet s l) && (decide (0 < l.placed) || decide (l.after < s.time) || l.after == 0)
  && (l.xmode != 2 || l.released)

/-- The order in which heads are served: effective priority, then acceptance (R314). -/
def servedBefore (s : State) (x l : Launch) : Bool :=
  decide (s.prio l < s.prio x) || (s.prio x == s.prio l && (decide (x.accepted < l.accepted) || (x.accepted == l.accepted && decide (x.id < l.id))))

/-! ## Switched-out core contexts hold their place (R316, R358) -/

def savedTeams (s : State) (id : Nat) : List Team := s.allTeams.filter (fun t => !t.retired && t.saved == some id)

/-- The context of a saved core context. -/
def savedCtx (s : State) (id : Nat) : Option Ctx := ((savedTeams s id).head?).bind (fun t => s.findCtx t.asid)

/-- The effective priority of a core context: that of its launches. -/
def teamsPrio (s : State) (ts : List Team) : Nat :=
  ts.foldl (fun m t => max m (((s.launches.find? (fun l => l.id == t.launch)).map s.prio).getD 0)) 0

/-- The cores a saved core context may take (R358; 06 R137). -/
def resumeCores (s : State) (id : Nat) : List Nat :=
  match s.saves.find? (fun x => x.id == id), savedCtx s id with
  | some sv, some c => match s.partOf c.part with
    | some p => (openCores p).filter (fun n => (residentTeams s n).isEmpty && (s.orr n).switch == 0
        && (!(savedTeams s id).any (·.spec) || n / Config.coresPerDie == sv.core.num / Config.coresPerDie))
    | none => []
  | _, _ => []

/-- Two teams of one constellation. -/
def mates (a b : Team) : Bool := a.launch == b.launch && decide (1 < a.csize) && a.index / a.csize == b.index / b.csize

/-- The saved core contexts that are resumed with one. -/
def linkedSaves (s : State) : Nat → List Nat → List Nat
  | 0, l => l
  | n + 1, l =>
    let ts := l.flatMap (savedTeams s)
    let more := (s.allTeams.filter (fun t => !t.retired && ts.any (mates t))).filterMap (·.saved)
    linkedSaves s n (l ++ more).eraseDups

/-- A core for each of some saved core contexts, all on one die. -/
def spreadSaves (s : State) (die : Nat) : List Nat → List Nat → Option (List (Nat × Nat))
  | [], _ => some []
  | id :: ids, used =>
    match (resumeCores s id).find? (fun n => n / Config.coresPerDie == die && !used.contains n) with
    | some n => (spreadSaves s die ids (n :: used)).map (fun l => (id, n) :: l)
    | none => none

/-- No eligible head of higher priority waits to place a team (14 R316). -/
def noneAbove (s : State) (part prio : Nat) : Bool :=
  !s.launches.any (fun l => l.part == part && eligible s l && decide (prio < s.prio l))

/-- The core contexts that go with a saved one can all be resumed now, this one onto that core: written out, each with a core
of one die, and no eligible head of higher priority waiting (R316; 16 R358). -/
def resumeSpread (s : State) (id core : Nat) : Option (List (Nat × Nat)) :=
  let ids := linkedSaves s Config.cores [id]
  if ids.all (fun i => s.saves.any (fun x => x.id == i && x.res)) && (resumeCores s id).contains core
      && (savedCtx s id).any (fun c => noneAbove s c.part (teamsPrio s (ids.flatMap (savedTeams s)))) then
    spreadSaves s (core / Config.coresPerDie) (ids.filter (· != id)) [core]
  else none

/-- An empty core that a switched-out core context with no lower priority than the launch's can be resumed onto now: it goes to
that (R316). -/
def heldForResume (s : State) (l : Launch) (core : Nat) : Bool :=
  s.saves.any (fun sv => (savedCtx s sv.id).any (fun c => c.part == l.part) && decide (s.prio l ≤ teamsPrio s (savedTeams s sv.id))
    && (resumeSpread s sv.id core).isSome)

/-! ## Where a team fits (R321) -/

/-- The free resident slots of a core, other than the dawn slot (R302). -/
def freeSlots (s : State) (core : Nat) : List Nat :=
  (List.range 255).filter (fun n => !s.allWarps.any (fun w => w.slotHeld && w.saved == none && w.core == core && w.slot == n))

/-- The lowest place of n scratchpad bytes that no resident team holds. -/
def spadGap (s : State) (p : Part) (core n : Nat) : Option Nat :=
  let held := (residentTeams s core).map (fun t => (t.sbase, t.ssize))
  let free := fun o => decide (o + n ≤ p.split * 1024) && held.all (fun h => decide (o + n ≤ h.1) || decide (h.1 + h.2 ≤ o))
  ((0 :: held.map (fun h => h.1 + h.2)).filter free).foldl (fun b o => match b with
    | none => some o
    | some x => some (min x o)) none

/-- What a team of a launch needs of scratchpad. -/
def Launch.spad (l : Launch) : Nat := roundUp l.scratch 4096

/-- A team fits on a core now (R321). -/
def fits (s : State) (p : Part) (l : Launch) (core : Nat) : Bool :=
  decide (l.warps ≤ (freeSlots s core).length)
  && decide (blocksHeld s core + l.warps * l.regs ≤ Config.blockQuota)
  && (spadGap s p core l.spad).isSome
  && (l.dawn == 0 || (s.getCore core).dawn.st == .free)

/-- A team may be placed on a core now: it fits, the core is not being switched, and no core context is to be resumed onto it. -/
def opens (s : State) (p : Part) (l : Launch) (core : Nat) : Bool :=
  fits s p l core && (s.orr core).switch == 0 && !heldForResume s l core

/-- The core with the most free slots, the lowest-numbered of equals (R319). -/
def bestCore (s : State) (cs : List Nat) : Option Nat :=
  cs.foldl (fun b c => match b with
    | none => some c
    | some x =>
      let n := (freeSlots s c).length
      let m := (freeSlots s x).length
      if m < n ∨ (m = n ∧ c < x) then some c else some x) none

/-- n distinct cores, best first. -/
def bestCores (s : State) : Nat → List Nat → List Nat
  | 0, _ => []
  | n + 1, cs => match bestCore s cs with
    | none => []
    | some c => c :: bestCores s n (cs.filter (· != c))

/-- Where the teams of the next constellation of a launch go now: a core each, or none (R319, R320). -/
def constellationCores (s : State) (p : Part) (l : Launch) (teams : List Nat) : Option (List Nat) :=
  let want := teams.map (fun t => (l.places[t]?).getD none)
  if want.all Option.isSome && !want.isEmpty then
    let cs := want.filterMap id
    if cs.all (opens s p l) then some cs else none
  else
    let ok := (openCores p).filter (opens s p l)
    let onDie := fun d => bestCores s teams.length (ok.filter (fun c => c / Config.coresPerDie == d))
    let first := ((bestCore s ok).getD 0) / Config.coresPerDie
    [first, 1 - first].findSome? (fun d => if (onDie d).length = teams.length then some (onDie d) else none)

/-- The TEAM numbers that the launch places next. -/
def Launch.nextTeams (l : Launch) : List Nat := (l.share.drop l.placed).take l.csize

/-- Where the launch could place its next constellation now. -/
def canPlace (s : State) (l : Launch) : Option (List Nat) :=
  match s.partOf l.part with
  | some p => if p.quiesced ∨ l.nextTeams = [] then none else constellationCores s p l l.nextTeams
  | none => none

def State.findLaunch (s : State) (id : Nat) : Option Launch := s.launches.find? (fun l => l.id == id)
def State.modLaunch (s : State) (id : Nat) (f : Launch → Launch) : State :=
  { s with launches := modFirst (fun l => l.id == id) f s.launches }

/-- How long each eligible head has been unable to place a team (R316). -/
def noteBlocked (s : State) : State :=
  { s with launches := s.launches.map (fun l =>
      if eligible s l && (canPlace s l).isNone then { l with blocked := some (l.blocked.getD s.time) } else { l with blocked := none }) }

/-! ## Judging a packet (R301, R311, R317 to R323) -/

/-- A dword of a block read from memory. -/
def dwAt (l : List Nat) (i : Nat) : Nat := (l[i]?).getD 0

/-- n dwords an agent may read, unpoisoned. -/
def readDws (s : State) (g : Agent) (a n : Nat) : Option (List Nat) :=
  if (rangeFault s g false .read a (8 * n)).isSome ∨ rangesPoi s g false [(a, 8 * n)] then none
  else some ((List.range n).map (fun i => agentNat s g (a + 8 * i) 8))

/-- Reason 1: the packet's own fields. -/
def packetBad (d : List Nat) : Bool :=
  let w1 := dwAt d 1
  let nteams := dwAt d 2 % 2 ^ 32
  bits w1 63 20 != 0 || bit w1 16 || bits w1 19 18 == 3 || decide (32 < bits w1 5 0) || bits w1 11 6 != 0
  || nteams == 0 || nteams % 2 ^ bits w1 13 12 != 0
  || dwAt d 0 % 256 != 0 || dwAt d 3 % 4 != 0 || dwAt d 7 % 16 != 0 || dwAt d 7 == 0
  || (if bit w1 17 then dwAt d 4 % 32 != 0 else dwAt d 4 != 0)
  || (bits w1 19 18 == 0 && dwAt d 6 != 0)

/-- Reason 2: the image header (R301); its dawn image's header with it (08 R186). -/
def imageBad (h : List Nat) (dawn : Option (List Nat)) : Bool :=
  let d0 := dwAt h 0
  let warps := bits (dwAt h 1) 37 32
  d0 % 2 != 0 || bits d0 42 32 > 1024 || bits d0 45 43 > 6 || bits d0 63 46 != 0
  || decide (917504 < dwAt h 1 % 2 ^ 32) || warps == 0 || decide (32 < warps) || bits (dwAt h 1) 63 38 != 0
  || dwAt h 2 % 4 != 0 || (bits d0 42 32 == 0 && dwAt h 2 != 0) || dwAt h 3 % 8 != 0
  || (h.drop 4).any (· != 0)
  || (dwAt h 3 != 0 && (match dawn with
      | some x => dawnBad (dwAt x 0) (dwAt x 1)
      | none => true))

/-- The map's entries, where they can be read and are legal (R319, R320). -/
def judgeMap (s : State) (g : Agent) (p : Part) (map nteams csize : Nat) : Option (List (Option Nat)) :=
  if map = 0 then some []
  else if (rangeFault s g false .read map (4 * nteams)).isSome ∨ rangesPoi s g false [(map, 4 * nteams)] then none
  else
    let es := (List.range nteams).map (fun t => agentNat s g (map + 4 * t) 4)
    let core := fun e => e % 256
    let groupOk := fun k =>
      let x := (es.drop (k * csize)).take csize
      x.all (fun e => bit e 31)
      || (x.all (fun e => !bit e 31 && (openCores p).contains (core e)) && decide ((x.map core).Nodup)
          && (x.map (fun e => core e / Config.coresPerDie)).eraseDups.length == 1)
    if es.all (fun e => bits e 30 8 == 0) && (List.range (nteams / csize)).all groupOk then
      some (es.map (fun e => if bit e 31 then none else some (core e)))
    else none

/-- Reason 4: a team that fits on no empty core (R321), or a constellation on no die. -/
def neverFits (p : Part) (scratch regs warps csize : Nat) : Bool :=
  decide (p.split * 1024 < roundUp scratch 4096) || decide (Config.blockQuota < regs * warps)
  || [0, 1].all (fun d => decide (((openCores p).filter (fun c => c / Config.coresPerDie == d)).length < csize))

/-- Reason 5: the job card (R323). -/
def judgeJob (s : State) (g : Agent) (a kimg : Nat) : Option Job :=
  match readDws s g a 4 with
  | none => none
  | some d =>
    let d2 := dwAt d 2
    if dwAt d 3 != 0 || bits d2 63 49 != 0 || bits d2 39 36 != 0 || bits d2 47 40 == 0 || dwAt d 1 % 16 != 0
      || dwAt d 0 % 2 != 0 || decide (dwAt d 0 < kimg + 0x40) then none
    else some { entry := w64 (dwAt d 0), recs := w64 (dwAt d 1), rsz := bits d2 35 32, min := bits d2 47 40, spec := bit d2 48
                central := (0, d2 % 2 ^ 32 + 1) }

/-- The chip list of a replicated launch: a count of 1 to 64, then one dword for each chip
(notes/assumptions/44.md). -/
def chipList (s : State) (g : Agent) (a : Nat) : Option (List Nat) :=
  match readDws s g a 1 with
  | none => none
  | some n => match readDws s g (a + 8) (min (dwAt n 0) 64) with
    | none => none
    | some l => if 1 ≤ dwAt n 0 ∧ dwAt n 0 ≤ 64 ∧ l.Nodup ∧ l.contains s.dev.chipId ∧ l.all (· < 4096) then some l else none

/-- Reason 6: the chips of the launch, the teams this chip runs, the teams of the launch (13 R297 to R299). A packet that
another chip replicated comes with its list. -/
def judgeChips (s : State) (g : Agent) (xmode group nteams : Nat) (given : Option (List Nat)) : Option (List Nat × List Nat × Nat) :=
  match xmode, given with
  | 1, none => match tableGroup s (g.ctx s) group with
    | some t =>
      let mine := (t.ranks.filter (fun r => r.1 == s.dev.chipId)).map (·.2)
      let total := agentNat s g group 8 / 2 ^ 32
      some ((t.ranks.map (·.1)).eraseDups, mine.mergeSort (· ≤ ·), total)
    | none => none
  | 2, some l => if l.contains s.dev.chipId then some (l, List.range nteams, nteams) else none
  | 2, none => (chipList s g group).map (fun l => (l, List.range nteams, nteams))
  | 0, none => some ([s.dev.chipId], List.range nteams, nteams)
  | _, _ => none

/-- Reason 7: a dependence's reserved bits, or a queue number above 31 (R317). -/
def depBad (d : Nat × Nat) : Bool := bits d.1 62 7 != 0 || (bit d.1 6 && decide (31 < bits d.1 5 0))

/-- The four dependences of a packet. -/
def packetDeps (d : List Nat) : List (Nat × Nat) := (List.range 4).map (fun i => (dwAt d (8 + 2 * i), dwAt d (9 + 2 * i)))

/-- Judge a packet (R317): the launch, or the first failing reason. -/
def judgePacket (s : State) (g : Agent) (p : Part) (q : LQueue) (pk : Packet) (d : List Nat)
    (given : Option (List Nat) := none) : Except Nat Launch := do
  if packetBad d then throw 1
  let kimg := dwAt d 0
  let w1 := dwAt d 1
  let h ← (readDws s g kimg 8).elim (throw 2) pure
  if imageBad h (readDws s g (kimg + dwAt h 3) 2) then throw 2
  let csize := 2 ^ bits w1 13 12
  let nteams := dwAt d 2 % 2 ^ 32
  let places ← (judgeMap s g p (dwAt d 3) nteams csize).elim (throw 3) pure
  let warps := if bits w1 5 0 = 0 then bits (dwAt h 1) 37 32 else bits w1 5 0
  let regs := bits (dwAt h 0) 45 43
  let scratch := dwAt h 1 % 2 ^ 32
  if neverFits p scratch regs warps csize then throw 4
  let job ← if bit w1 17 then (judgeJob s g (dwAt d 4) kimg).elim (throw 5) (fun j => pure (some j)) else pure none
  let xmode := bits w1 19 18
  let chips ← (judgeChips s g xmode (dwAt d 6) nteams given).elim (throw 6) pure
  if (packetDeps d).any depBad then throw 7
  pure {
    id := s.nextId, part := p.range.quarter, queue := q.num, seq := q.nextSeq, asid := pk.asid, accepted := s.time
    kimg := w64 kimg, entry := dwAt h 0 % 2 ^ 32, regs := regs, dictn := bits (dwAt h 0) 42 32, dict := dwAt h 2
    dawn := dwAt h 3, scratch := scratch, warps := warps, csize := csize, prio := bits w1 15 14, nteams := chips.2.2
    deps := (packetDeps d).map (fun x => (w64 x.1, w64 x.2)), crec := w64 (dwAt d 7), cookie := dwAt d 2 / 2 ^ 32
    args := w64 (dwAt d 5), places := places, group := w64 (dwAt d 6), xmode := xmode, priv := pk.priv, job := job
    share := chips.2.1, after := pk.wct, chips := chips.1 }

/-! ## Acceptance and completion (R312, R317, R318) -/

/-- The records of a completion (R318). -/
def completionRecord (time cookie reason : Nat) : List Byte :=
  toBytes 8 (2 ^ 63 + bitOf (reason != 0) * 2 ^ 62 + reason % 16 * 2 ^ 52 + cookie % 2 ^ 32) ++ toBytes 8 time

/-- The highest sequence number up to which every launch has completed, and the flag of its last (R312). -/
def advance : Nat → Nat × Bool → List (Nat × Bool) → Nat × Bool
  | 0, d, _ => d
  | n + 1, d, l => match l.find? (fun x => x.1 == d.1 + 1) with
    | some x => advance n x l
    | none => d

/-- A launch queue's completion word (R312; 05 R80). A rejected launch shows sub-code 3. -/
def queueWord (d : Nat × Bool) : W64 := w64 (bitOf d.2 * 2 ^ 63 + (if d.2 then 3 else 0) * 2 ^ 59 + d.1 % 2 ^ 59)

/-- Sequence number seq of a queue has completed: the completion word, when it moves (R318; 17 R366). -/
def queueDone (part num seq : Nat) (bad : Bool) (s : State) : State :=
  let q := s.queue part num
  let above := q.above ++ [(seq, bad)]
  let d := advance above.length (q.done, false) above
  let q1 := { q with done := d.1, above := above.filter (fun x => decide (d.1 < x.1)) }
  let s1 := s.setQueue q1
  if d.1 = q.done then s1
  else
    let x := queueWord d
    let s2 := match s1.findCtx q.asid with
      | some c => (ownWrite c q.cw.toNat (toBytes 8 x.toNat) {} s1).1
      | none => s1
    match q.host with
    | some h => hostWord h x s2
    | none => s2

/-- The completion record, then the queue's word (R318). -/
def finishLaunch (part queue seq : Nat) (g : Agent) (crec cookie reason : Nat) (s : State) : State :=
  let s1 := if crec = 0 ∨ crec % 16 ≠ 0 ∨ (rangeFault s g false .write crec 16).isSome then s
    else (agentPut g false (outBytes crec (completionRecord s.time cookie reason)) s).1
  queueDone part queue seq (reason != 0) s1

/-- The record that carried a packet completes; a rejected one as a decode failure with detail 7 (05 R83). -/
def endLaunchRec (pk : Packet) (bad : Bool) (s : State) : State :=
  match pk.chain with
  | none => s
  | some (n, seq) => match s.findCtx pk.asid with
    | none => s
    | some c => match c.chain n with
      | none => s
      | some ch => match ch.recs.find? (fun r => r.seq == seq && r.phase == .waiting) with
        | none => s
        | some r => endRec pk.asid n ch r 0x20 0 (if bad then some (3, 7, pk.addr.toNat) else none) s

/-- Every chip of a replicated launch has accepted: its generation and start time (13 R299). -/
def noteStart (id : Nat) (s : State) : State :=
  match s.findLaunch id with
  | none => s
  | some l =>
    if l.xmode = 2 ∧ l.origin = none ∧ l.start = none ∧ !l.aborted ∧ l.chips.all (fun c => l.oks.contains c) then
      let s1 := { s with dev := { s.dev with repl := s.dev.repl + 1 } }
      s1.modLaunch id (fun l => { l with gen := s1.dev.repl, start := some (s.time + 2000) })
    else s

/-- A packet in process-group table mode binds its table before it is judged (13 R279, R298). -/
def bindPacket (asid : Nat) (d : List Nat) (s : State) : State :=
  if bits (dwAt d 1) 19 18 = 1 then bindTable asid s.nextId (dwAt d 6) s else s

/-- What a context's memory holds from a virtual address on, by virtual address. -/
def contextCells (s : State) (c : Ctx) (va : Nat) : List Host.Cell :=
  ((ctxLeaves s.mem c.root).filter (fun l => decide (va < l.1 + 2 ^ 18))).flatMap (fun l =>
    let pa := leafPA l.2.2 l.1
    (s.mem.filter (fun p => decide (pa ≤ p.1) && decide (p.1 < pa + 2 ^ 18) && decide (va ≤ l.1 + (p.1 - pa)))).map
      (fun p => (l.1 + (p.1 - pa), p.2)))

/-- An accepted launch, with its image for the attestation report: its header, and what stands from it on, for the spec bounds
no image (17 R375; notes/assumptions/87.md). -/
def addLaunch (g : Agent) (l : Launch) (s : State) : State :=
  let head := (List.range 64).map (fun i => agentByte s g false (l.kimg.toNat + i))
  { s with nextId := s.nextId + 1, launches := s.launches ++ [l] }.modCtx l.asid (fun c => { c with images := c.images ++ [(l.kimg.toNat, head, contextCells s c l.kimg.toNat)] })

/-- A packet that another chip replicates here (13 R299): judged as this chip's own, but for the chips' list; a rejected one
leaves nothing here. Its dependences, its record and its queue are the originator's (log 115, DEDUCED). -/
def replicaAccept (p : Part) (r : Replica) (s : State) : State :=
  let g : Agent := { asid := r.asid, priv := r.priv }
  let pk : Packet := { asid := r.asid, addr := 0, priv := r.priv }
  match judgePacket s g p { part := p.range.quarter, num := 32 + r.chip, nextSeq := r.seq } pk r.dws (some r.chips) with
  | .error _ => s
  | .ok l => noteBlocked (addLaunch g { l with origin := some r.chip, deps := [], crec := 0 } s)

/-- LAUNCH_PACKET_ACCEPT: the oldest packet of a queue, or one that another chip replicates here. A packet that cannot be
read is rejected with reason 1 (notes/assumptions/45.md). -/
def packetAccept (part num : Nat) (from_ : Option Replica) (s : State) : State :=
  let q := s.queue part num
  match from_, q.packets, s.partOf part with
  | some r, _, some p => replicaAccept p r s
  | none, pk :: rest, some p =>
    let g : Agent := { asid := pk.asid, priv := pk.priv }
    let d := (readDws s g pk.addr.toNat 16).getD []
    let s0 := bindPacket pk.asid d s
    let r := if d.isEmpty || pk.addr.toNat % 128 != 0 then .error 1 else judgePacket s0 g p q pk d
    let s1 := s0.setQueue { q with packets := rest, nextSeq := q.nextSeq + 1 }
    match r with
    | .error why =>
      endLaunchRec pk true (finishLaunch part num q.nextSeq g (dwAt d 7) (dwAt d 2 / 2 ^ 32) why s1)
    | .ok l => noteBlocked (noteStart l.id (endLaunchRec pk false (addLaunch g { l with oks := [s.dev.chipId] } s1)))
  | _, _, _ => s

def execLaunchPacketAccept (part : Nat) (q : PacketSource) (s : State) : Out := .next (packetAccept part q.queue q.from_ s)

/-! ## Placement (R302, R319 to R322) -/

/-- The LAUNCH register (07 R150; 13 R299). -/
def Launch.word (l : Launch) : W64 :=
  if l.xmode = 2 then w64 (l.gen % 2 ^ 16 * 2 ^ 48 + l.seq % 2 ^ 48) else w64 (l.queue % 32 * 2 ^ 48 + l.seq % 2 ^ 48)

/-- Where the warps of a launch start (R302, R323). -/
def Launch.start_ (l : Launch) : W64 := match l.job with
  | some j => j.entry
  | none => l.kimg + w64 l.entry

/-- A core without a resident team begins a new core context: its save area comes from the context's pool
(16 R360; 09 R196). -/
def freshCore (core asid : Nat) (s : State) : State :=
  if !(residentTeams s core).isEmpty then s
  else
    let pool := ((s.findCtx asid).map (·.savePool)).getD []
    let s1 := s.modCore core (fun c => { c with
      walks := [], serial := 0, outq := [], windows := [], xq := [], switches := 0, placed := s.time, dawn := {}
      spill := w64 (pool.headD 0) })
    s1.modCtx asid (fun c => { c with savePool := c.savePool.drop 1 })

/-- The scratchpad of a newly placed team reads as zero (notes/assumptions/46.md). -/
def clearSpad (base n : Nat) (c : Core) : Core :=
  { c with
    sram := c.sram.filter (fun p => !(decide (base ≤ p.1) && decide (p.1 < base + n)))
    sp := c.sp.filter (fun g => !(decide (base ≤ 64 * g) && decide (64 * g < base + n))) }

/-- One warp of a team, in the state of kernel entry (01 R7; 07 R147). -/
def placeWarp (l : Launch) (t : Team) (wid : Nat) (s : State) : State :=
  let w : Warp := {
    uid := s.nextId, core := t.core, slot := ((freeSlots s t.core).head?).getD 0, lane := pickLane s t.core, team := t.uid
    wid := wid, cur := { pc := l.start_, active := 0xFFFFFFFF }, blocks := l.regs, s := tabSet 0 1 l.args [] }
  { s with nextId := s.nextId + 1, ws := s.ws ++ [w] }

/-- Place one team on a core. -/
def placeTeam (l : Launch) (p : Part) (index core : Nat) (s : State) : State :=
  let s0 := freshCore core l.asid s
  let base := (spadGap s0 p core l.spad).getD 0
  let t : Team := {
    uid := s0.nextId, launch := l.id, asid := l.asid, index := index, core := core, nwarp := l.warps, nteam := l.nteams
    csize := l.csize, launchId := l.word, chip := (l.chips.idxOf s.dev.chipId), chips := l.chips, group := l.group
    xmode := l.xmode, sbase := base, ssize := l.spad, spec := (l.job.map (·.spec)).getD false
    dict := if l.dictn = 0 then 0 else l.kimg + w64 l.dict, dictn := l.dictn }
  let s1 := { s0 with nextId := s0.nextId + 1, teams := s0.teams ++ [t] }.modCore core (clearSpad base l.spad)
  let s2 := (List.range l.warps).foldl (fun s i => placeWarp l t i s) s1
  if l.dawn = 0 then s2
  else
    let image := l.kimg + w64 l.dawn
    let g : Agent := { asid := l.asid, priv := l.priv }
    s2.modCore core (fun c => { c with dawn :=
      { st := .loaded, owner := t.uid, image := image, xb := bits (agentNat s g image.toNat 8) 26 24 } })

/-- Whether the launch is the one to place now (R314): no eligible head before it can place a team. -/
def servedNow (s : State) (l : Launch) : Bool :=
  eligible s l && !s.launches.any (fun x => x.part == l.part && eligible s x && servedBefore s x l && (canPlace s x).isSome)

/-- TEAM_PLACEMENT: the next constellation of a launch, in one decision. -/
def teamPlacement (id : Nat) (s : State) : State :=
  match s.findLaunch id with
  | none => s
  | some l => match s.partOf l.part, canPlace s l with
    | some p, some cs =>
      if !servedNow s l ∨ 2 ≤ s.dev.pwr then s
      else
        let s1 := (l.nextTeams.zip cs).foldl (fun s x => placeTeam l p x.1 x.2 s) s
        noteBlocked (s1.modLaunch id (fun l => { l with
          placed := l.placed + cs.length, blocked := none, code := if l.placed = 0 then s.mem else l.code }))
    | _, _ => noteBlocked s

def execTeamPlacement (launch : Nat) (s : State) : Out := .next (teamPlacement launch s)

/-! ## Retirement (R303, R318) -/

/-- The warps of a team, its dawn warp left out. -/
def teamWarps (s : State) (t : Team) : List Warp := s.allWarps.filter (fun w => w.team == t.uid && !w.dawn)

/-- Every warp has ended and every operation has retired (R303), on a core or switched out. -/
def mayRetire (s : State) (t : Team) : Bool :=
  !t.retired && (teamWarps s t).all (fun w => w.ended && w.ops.isEmpty)

/-- What a retired team frees (R303; 06 R139; 08 R185). -/
def freeTeam (t : Team) (s : State) : State :=
  let s1 := s.modTeam t.uid (fun t => { t with
    retired := true, barriers := [], specLines := [], cohorts := [], pending := [], arrivals := [], dict := 0, dictn := 0 })
  let gone := fun (w : Warp) => { w with ended := true, slotHeld := false, blocks := 0, cur := { w.cur with active := 0 }, others := [] }
  let s2 := { s1 with
    w := if s1.w.team = t.uid then gone s1.w else s1.w
    ws := s1.ws.filter (fun w => w.team != t.uid) }
  s2.modTeamCore t (fun c => { c with
    dawn := if c.dawn.st != .free && c.dawn.owner == t.uid then {} else c.dawn
    windows := c.windows.filter (fun x => x.1 != t.uid) })

/-- A saved core context goes with the last of its teams. -/
def dropSave (t : Team) (s : State) : State :=
  { s with saves := s.saves.filter (fun x => t.saved != some x.id || s.allTeams.any (fun u => !u.retired && u.saved == some x.id)) }

/-- The WCTs of the launch's writes have passed at the scope of its completion: device scope, or host scope for a host
queue (R318; 06 R131). -/
def launchReleased (s : State) (l : Launch) : Bool :=
  decide (l.wct + (if (s.queue l.part l.queue).host.isSome then Config.fabricSkew else 0) < s.time)

/-- Every team of the launch has retired, here and on its other chips, and its writes are released. -/
def launchOver (s : State) (l : Launch) : Bool :=
  !l.complete && decide (l.share.length ≤ l.retired) && launchReleased s l
  && (l.xmode != 2 || l.origin.isSome || l.chips.all (fun c => c == s.dev.chipId || Config.chipRetired s.tick l.id c))

/-- The launch completes (R318); the record of a replicated one is the originating chip's. -/
def completeLaunch (id : Nat) (s : State) : State :=
  match s.findLaunch id with
  | none => s
  | some l =>
    if launchOver s l then
      let s1 := s.modLaunch id (fun l => { l with complete := true })
      if l.origin.isSome then s1
      else finishLaunch l.part l.queue l.seq { asid := l.asid, priv := l.priv } l.crec.toNat l.cookie 0 s1
    else s

/-- TEAM_RETIRE; and its launch's completion, where it was the last. -/
def teamRetire (uid : Nat) (s : State) : State :=
  match s.findTeam uid with
  | none => s
  | some t =>
    if mayRetire s t then
      let wct := (teamWarps s t).foldl (fun m w => max m w.wmax) 0
      let s1 := (dropSave t (freeTeam t s)).modLaunch t.launch (fun l => { l with retired := l.retired + 1, wct := max l.wct wct })
      noteBlocked (completeLaunch t.launch s1)
    else if t.retired then noteBlocked (completeLaunch t.launch s)
    else s

def execTeamRetire (team : Nat) (s : State) : Out := .next (teamRetire team s)

/-! ## Replicated starts (13 R299) -/

/-- An abort: no chip starts, and the launch completes with an error on the originating queue. -/
def abortLaunch (id : Nat) (s : State) : State :=
  match s.findLaunch id with
  | none => s
  | some l =>
    if l.xmode ≠ 2 ∨ l.start ≠ none ∨ l.aborted then s
    else
      let s1 := s.modLaunch id (fun l => { l with aborted := true, complete := true, share := [] })
      if l.origin.isSome then s1
      else finishLaunch l.part l.queue l.seq { asid := l.asid, priv := l.priv } l.crec.toNat l.cookie 6 s1

/-- Acceptances count for 1 ms. -/
def acceptanceOpen (s : State) (l : Launch) : Bool := decide (s.time ≤ l.accepted + 1000000)

/-- REPLICATED_ACCEPTANCE: a chip's answer to this chip's packet, or the originator's word on a packet it replicated here. -/
def replicatedAcceptance (id chip : Nat) (a : Answer) (s : State) : State :=
  match s.findLaunch id with
  | none => s
  | some l =>
    if l.xmode ≠ 2 ∨ l.start ≠ none ∨ l.aborted ∨ !l.chips.contains chip then s
    else match l.origin, a with
      | none, .accepted =>
        if l.oks.contains chip then s
        else if acceptanceOpen s l then noteStart id (s.modLaunch id (fun l => { l with oks := l.oks ++ [chip] }))
        else noteBlocked (abortLaunch id s)
      | none, .rejected => if l.oks.contains chip then s else noteBlocked (abortLaunch id s)
      | some c, .start gen t => if c = chip then s.modLaunch id (fun l => { l with gen := gen, start := some t }) else s
      | some c, .rejected => if c = chip then noteBlocked (abortLaunch id s) else s
      | _, _ => s

def execReplicatedAcceptance (launch chip : Nat) (a : Answer) (s : State) : Out := .next (replicatedAcceptance launch chip a s)

/-- REPLICATED_ACCEPT_TIMEOUT: not every chip has accepted within 1 ms. -/
def replicatedAcceptTimeout (id : Nat) (s : State) : State :=
  match s.findLaunch id with
  | none => s
  | some l =>
    if l.xmode = 2 ∧ l.origin = none ∧ l.start = none ∧ l.accepted + 1000000 ≤ s.time then noteBlocked (abortLaunch id s) else s

def execReplicatedAcceptTimeout (launch : Nat) (s : State) : Out := .next (replicatedAcceptTimeout launch s)

/-- REPLICATED_START: at T this chip releases its teams. -/
def replicatedStart (id : Nat) (s : State) : State :=
  match s.findLaunch id with
  | none => s
  | some l => match l.start with
    | some t => if t ≤ s.time then noteBlocked (s.modLaunch id (fun l => { l with released := true })) else s
    | none => s

def execReplicatedStart (launch : Nat) (s : State) : Out := .next (replicatedStart launch s)

/-! ## Job cards (R323 to R326) -/

def rangesLen' (l : List Range) : Nat := l.foldl (fun n r => n + r.2) 0

/-- Put a range into a reserve in ascending order; it joins ranges it adjoins (R324). -/
def joinRange (r : Range) : List Range → List Range
  | [] => [r]
  | x :: xs =>
    if r.2 = 0 then x :: xs
    else if r.1 + r.2 < x.1 then r :: x :: xs
    else if r.1 + r.2 = x.1 then (r.1, r.2 + x.2) :: xs
    else if x.1 + x.2 = r.1 then joinRange (x.1, x.2 + r.2) xs
    else x :: joinRange r xs

def Job.reserve (j : Job) (core : Nat) : List Range := tabGet [] core j.reserves
def Job.setReserve (j : Job) (core : Nat) (l : List Range) : Job := { j with reserves := tabSet [] core l j.reserves }

/-- The undealt records of a launch. -/
def Job.left (j : Job) : Nat := j.central.2 + j.reserves.foldl (fun n p => n + rangesLen' p.2) 0

/-- A deal on a core, with A resident teams on C cores (R324): the chunk and what is left. -/
def Job.deal (j : Job) (core a c : Nat) : Range × Job :=
  let n := max j.min (ceilDiv j.left (2 * a))
  let held := rangesLen' (j.reserve core)
  let j1 := if held < n ∧ 0 < j.central.2 then
      let m := Nat.min j.central.2 (max (n - held) (max j.min (ceilDiv j.central.2 (2 * c))))
      { (j.setReserve core (joinRange (j.central.1, m) (j.reserve core))) with central := (j.central.1 + m, j.central.2 - m) }
    else j
  match j1.reserve core with
  | [] => ((0, 0), j1)
  | r :: rs =>
    let m := Nat.min n r.2
    ((r.1, m), j1.setReserve core (if m = r.2 then rs else (r.1 + m, r.2 - m) :: rs))

/-- Another JCDEAL of the launch stands before on the core: issued earlier, or at once from a lower slot (R325). -/
def dealBefore (s : State) (launch : Nat) : Bool :=
  let me := placeKey s.w { s.w.cur with since := some (s.w.cur.since.getD s.time) } (s.w.cur.place.getD (8 * s.nextId + 7))
  (s.allWarps.filter (fun w => w.core == s.core.num && w.saved == none && !w.dawn
      && ((s.findTeam w.team).map (·.launch)) == some launch)).any (fun w =>
    (w.cur :: w.others).any (fun p => p.active != 0 && (match p.place with
      | some x => x % 8 == 7 && !(w.uid == s.w.uid && p.num == s.w.cur.num) && keyLt (placeKey w p x) me
      | none => false)))

/-- The resident teams of a launch. -/
def launchTeams (s : State) (id : Nat) : List Team := s.allTeams.filter (fun t => t.launch == id && !t.retired && t.saved == none)

/-- JCDEAL (R325). -/
def jcdeal (d : BitVec 6) (s : State) : State :=
  inRange (decide (d.toNat ≤ 62)) s fun s => notDawn s fun s =>
    match s.findLaunch s.team.launch with
    | some l => match l.job with
      | none => illegal 10 s
      | some j =>
        let put := fun (x : Range) (s : State) => finish { s with w := (s.w.sSet d.toNat (w64 x.1)).sSet (d.toNat + 1) (w64 x.2) }
        if j.left = 0 then put (0, 0) s
        else if (j.reserve s.core.num).isEmpty && j.central.2 == 0 || dealBefore s l.id then parkHere (takePlace 7 s)
        else
          let ts := launchTeams s l.id
          let r := j.deal s.core.num (max 1 ts.length) (max 1 ((ts.map (·.core)).eraseDups.length))
          put r.1 (s.modLaunch l.id (fun l => { l with job := some r.2 }))
    | none => illegal 10 s

def execJcdeal (d : BitVec 6) (s : State) : Out := .next (jcdeal d s)

/-- The highest n records of a reserve, and what stays (R326). -/
def takeHigh : Nat → List Range → List Range × List Range
  | 0, l => ([], l)
  | _, [] => ([], [])
  | n + 1, r :: rs =>
    let x := takeHigh (n + 1) rs
    let got := rangesLen' x.1
    if n + 1 ≤ got then (x.1, r :: x.2)
    else
      let m := min r.2 (n + 1 - got)
      (joinRange (r.1 + r.2 - m, m) x.1, if m = r.2 then x.2 else (r.1, r.2 - m) :: x.2)

/-- The cores where a team of the launch is parked in JCDEAL with an empty reserve. -/
def hungryCores (s : State) (l : Launch) (j : Job) : List Nat :=
  (((launchTeams s l.id).filter (fun t => s.allWarps.any (fun w => w.team == t.uid && !w.dawn && (w.cur :: w.others).any (fun p =>
    p.active != 0 && (match p.place with
      | some x => x % 8 == 7
      | none => false))))).map (·.core)).eraseDups.filter (fun c => (j.reserve c).isEmpty)

/-- The core with the largest reserve of a launch, the lowest of equals. -/
def richest (j : Job) : Option (Nat × Nat) :=
  j.reserves.foldl (fun b p => match b with
    | none => some (p.1, rangesLen' p.2)
    | some x => if x.2 < rangesLen' p.2 then some (p.1, rangesLen' p.2) else some x) none

/-- The balancer's commands for one launch. -/
def balance (j : Job) : List Nat → Job
  | [] => j
  | d :: ds => match richest j with
    | some (c, n) =>
      if 2 * j.min ≤ n then
        let x := takeHigh (ceilDiv n 2) (j.reserve c)
        balance ((j.setReserve c x.2).setReserve d (x.1.foldl (fun l r => joinRange r l) (j.reserve d))) ds
      else balance j ds
    | none => j

/-- BALANCER_INTERVAL: at most one round in 8 µs. -/
def balancerInterval (part : Nat) (s : State) : State :=
  if !s.parts.any (fun p => p.range.quarter == part && decide (p.balanced + 8000 ≤ s.time)) then s
  else { s with
    parts := s.parts.map (fun p => if p.range.quarter = part then { p with balanced := s.time } else p)
    launches := s.launches.map (fun l => match l.job with
      | some j => if l.part = part then { l with job := some (balance j (hungryCores s l j)) } else l
      | none => l) }

def execBalancerInterval (part : Nat) (s : State) : Out := .next (balancerInterval part s)

end Sys2Proof.Machine
end

