-- ==== Sys2Proof/Machine/Dusk.lean ====
section
/-! DEFINITION. The dusk switch (16 R358 to R362; 10 R235, R236; 14 R316): core contexts switched out and resumed, the
save area they are written to, pre-emption. -/

namespace Sys2Proof.Machine

open Sys2Proof

/-- Change every warp. -/
def State.mapWarps (s : State) (f : Warp → Warp) : State := { s with w := f s.w, ws := s.ws.map f }
/-- Change every team. -/
def State.mapTeams (s : State) (f : Team → Team) : State := { s with team := f s.team, teams := s.teams.map f }

/-! ## Which core contexts go together (R316: a constellation is switched out and resumed together) -/

/-- The cores whose contexts are switched out with those of a list. -/
def linkedCores (s : State) : Nat → List Nat → List Nat
  | 0, l => l
  | n + 1, l =>
    let ts := l.flatMap (residentTeams s)
    let more := (s.allTeams.filter (fun t => !t.retired && t.saved == none && ts.any (mates t))).map (·.core)
    linkedCores s n (l ++ more).eraseDups

/-! ## Switching out (R358, R359; 10 R235) -/

/-- SWITCH_REQUEST: the lanes of the core stop at their next boundary; a constellation's cores stop together. -/
def switchRequest (core : Nat) (s : State) : State :=
  if (residentTeams s core).isEmpty then s
  else (linkedCores s Config.cores [core]).foldl (fun s c =>
    if (s.orr c).switch = 0 then modOrr c (fun o => { o with switch := 1 }) s else s) s

def execSwitchRequest (core : Nat) (s : State) : Out := .next (switchRequest core s)

/-- An instruction in progress holds the exchange back (R358; 12 R259): its warp waits for its own shoot-down, which has
not ended. -/
def midInstruction (s : State) (core : Nat) : Bool :=
  s.allWarps.any (fun w => w.core == core && w.saved == none && s.shoots.any (fun k => !k.done && (k.who.map (·.1)) == some w.uid))

/-- A walk as it is saved (10 R235): a step in flight is dropped, its debit stays paid; STALL is what OSTAT would read. -/
def stopSteps (w : WalkS) : WalkS :=
  { w with units := w.units.map (fun u => { u with running := false, readyAt := none }) }

/-- The conversions in flight on a core complete. -/
def finishConversions (core : Nat) (s : State) : State :=
  (s.getCore core).walks.foldl (fun s w => (List.range w.units.length).foldl (fun s u => conversionDone core w.slot u s) s) s

/-- A warp of a core context that leaves its core. -/
def leaves (core : Nat) (w : Warp) : Bool := w.core == core && w.saved == none && (w.slotHeld || !w.ended)

/-- A register that stands in a warp's record comes back after the warp's own stores (R357), which are awaited. -/
def reloadHeld (s : State) (core : Nat) : Bool :=
  s.allWarps.any (fun w => leaves core w && !w.spilled.isEmpty && s.writes.any (fun x => x.warp == w.uid && x.applied == none))

/-- A warp's registers that stand in its record come back before the core context is saved. -/
def reloadAll (s : State) (w : Warp) : Warp :=
  match focusWarp (fun x => x.uid == w.uid) s with
  | some t => (w.spilled.foldl reloadReg t).w
  | none => w

/-- A warp as its core context is switched out. -/
def switchedOut (s : State) (id : Nat) (w : Warp) : Warp := { reloadAll s w with saved := some id }

/-- BANK_EXCHANGE: the core context leaves the core. The caches stay with the core. -/
def bankExchange (core : Nat) (s : State) : State :=
  if (s.orr core).switch ≠ 1 ∨ midInstruction s core ∨ reloadHeld s core then s
  else
    let s := finishConversions core s
    let id := s.nextId
    let c := s.getCore core
    let out : Core := { c with walks := c.walks.map stopSteps, switches := c.switches + 1, tlb := [], l1 := [] }
    let s1 := s.mapWarps (fun w => if leaves core w then switchedOut s id w else w)
    let s2 := s1.mapTeams (fun t => if t.core == core && t.saved == none && !t.retired then { t with saved := some id } else t)
    let s3 := s2.modCore core (fun c => { num := core, tlb := c.tlb, l1 := c.l1 })
    modOrr core (fun o => { o with switch := 2 })
      { s3 with nextId := id + 1, saves := s3.saves ++ [{ id := id, core := out, tsave := s.time }] }

def execBankExchange (core : Nat) (s : State) : Out := .next (bankExchange core s)

/-! ## The save area (R360; 10 R235) -/

def areaSize : Nat := 0x1328000

def word32 (x : W32) : List Byte := toBytes 4 x.toNat
def word64 (x : W64) : List Byte := toBytes 8 x.toNat

/-- The walk save record. -/
def walkRecord (w : WalkS) : List Byte :=
  let posOf := fun (x : Nat) => (w.unit (x / 18)).stage (x / 9 % 2) (x % 9)
  let code : StageSt → Nat := fun st => match st with
    | .idle => 0 | .requested => 1 | .given => 2 | .sealed => 3
  let dcode : SlotSt → Nat := fun st => match st with
    | .free => 0 | .pending => 1 | .delivered => 2
  let pos := (List.range 72).foldl (fun n x => n + code (posOf x).st * 4 ^ x) 0
  let pre := (List.range 72).foldl (fun n x => n + bitOf (posOf x).retry * 2 ^ x) 0
  let dre := (List.range 4).foldl (fun n u => n + bitOf (w.unit u).up.retry * 2 ^ u) 0
  let unit := fun u => (w.unit u).next % 2 ^ 32 + bitOf (w.unit u).paid * 2 ^ 61 + dcode (w.unit u).slot * 2 ^ 62
  word64 w.id ++ (List.range 8).flatMap (fun i => word64 ((w.rec_[i]?).getD 0))
    ++ (List.range 4).flatMap (fun u => toBytes 8 (unit u)) ++ toBytes 24 pos
    ++ toBytes 8 (w.stall % 2 ^ 40 + min w.nint 0xFFFFF * 2 ^ 40 + bitOf w.ig * 2 ^ 60)
    ++ toBytes 8 (w.seq % 2 ^ 32) ++ toBytes 16 pre ++ toBytes 8 dre ++ List.replicate 88 0

/-- A team's record: TEAM, LAUNCH, scratchpad base and size, then its barriers (14 R327). -/
def teamRecord (t : Team) : List Byte :=
  toBytes 8 t.index ++ word64 t.launchId ++ toBytes 8 t.sbase ++ toBytes 8 t.ssize ++ List.replicate 32 0
  ++ (List.range 16).flatMap (fun b =>
    let x := tabGet {} b t.barriers
    word32 x.gen ++ toBytes 4 x.m ++ toBytes 4 x.a ++ word32 (BitVec.ofInt 32 x.dj))

/-- The instruction word a split is parked at. -/
def parkedWord (s : State) (c : Ctx) (p : Split) : Nat :=
  if p.since.isNone && !p.rcv then 0
  else match ctxPA s c p.pc.toNat with
    | some pa => if memNat s.mem pa 2 % 2 = 0 then memNat s.mem pa 2 else memNat s.mem pa 4
    | none => 0

/-- Split n of a warp record. -/
def splitRecord (s : State) (c : Ctx) (p : Split) : List Byte :=
  word64 p.pc
  ++ toBytes 8 (p.active.toNat + 2 ^ 32 + bitOf p.priv * 2 ^ 33 + bitOf p.handler * 2 ^ 34 + bitOf p.skip * 2 ^ 35)
  ++ toBytes 8 (parkedWord s c p) ++ toBytes 8 0

/-- A stack entry in memory (14 R309). -/
def entryRecord (e : Entry) : List Byte :=
  word32 e.members ++ word32 e.defer ++ toBytes 8 (e.addr.toNat % 2 ^ 57 + bitOf e.av * 2 ^ 63) ++ word64 e.defpc ++ toBytes 8 0

/-- The trap registers as six words of a record, within a warp. -/
def trapWords (get : Warp → TrapRegs) (put : TrapRegs → Warp → Warp) : List ((Warp → W64) × (W64 → Warp → Warp)) := [
  (fun w => (get w).tcause, fun x w => put { get w with tcause := x } w),
  (fun w => (get w).tpc, fun x w => put { get w with tpc := x } w),
  (fun w => (get w).taddr, fun x w => put { get w with taddr := x } w),
  (fun w => (get w).tmask, fun x w => put { get w with tmask := x } w),
  (fun w => (get w).tsub, fun x w => put { get w with tsub := x } w),
  (fun w => (get w).tinfo, fun x w => put { get w with tinfo := x } w)]

/-- The user frame of a warp record, from 0x4440 on. -/
def frameWords : List ((Warp → W64) × (W64 → Warp → Warp)) := trapWords (·.frame) (fun x w => { w with frame := x })

/-- The special registers of a warp record that a restore brings back, from 0x4500 on. -/
def specialWords : List ((Warp → W64) × (W64 → Warp → Warp)) := trapWords (·.trap) (fun x w => { w with trap := x }) ++ [
  (fun w => w.tvec, fun x w => { w with tvec := x }),
  (fun w => w.part, fun x w => { w with part := x }),
  (fun w => w.rnd, fun x w => { w with rnd := x }),
  (fun w => w.flush, fun x w => { w with flush := x }),
  (fun w => w.fpx, fun _ w => w),
  (fun w => w.fpe, fun x w => { w with fpe := x &&& 31 })]

/-- The base of the save area that holds a warp's record. -/
def spillOf (s : State) (w : Warp) : W64 :=
  match w.saved.bind (fun id => s.saves.find? (fun x => x.id == id)) with
  | some x => x.core.spill
  | none => (s.getCore w.core).spill

/-- A word of a register's part of the record: of a register that MSPILL left there it is the word that stands in memory, else
x (R357). -/
def spilledWord (s : State) (c : Ctx) (w : Warp) (r off : Nat) (x : W32) : W32 :=
  if w.spilled.contains r then ((ctxPA s c (warpRecord (spillOf s w) w.slot + off)).map (fun pa => w32 (memNat s.mem pa 4))).getD 0
  else x

/-- What a warp record holds: offset and bytes. -/
def warpRecordParts (s : State) (c : Ctx) (w : Warp) : List (Nat × List Byte) :=
  let rs := List.range 128
  let fl := bitOf w.fv * 8 + bitOf w.fc * 4 + bitOf w.fn * 2 + bitOf w.fz
  let mon := match w.mon with
    | some (va, _, _) => va.toNat / 128 * 128 % 2 ^ 57 + 2 ^ 63
    | none => 0
  let latch := match w.latch with
    | some l => word64 l.addr ++ toBytes 8 (l.cohort % 256 + l.sd % 64 * 256 + 2 ^ 63) ++ word64 l.sa
    | none => List.replicate 24 0
  let up := match w.upcall with
    | some u => toBytes 8 (2 ^ 63 + bitOf u.revoked * 2 ^ 62 + bitOf u.sealed * 2 ^ 61 + u.cursor % 256 * 2 ^ 16
        + u.unit % 4 * 2 ^ 8 + u.kind % 4) ++ word64 u.walk
    | none => List.replicate 16 0
  let walk := fun i => match (w.walks.find? (fun p => p.1 == i)).map (·.2) with
    | some e => word64 e.id ++ word64 ((e.word.map (·.1)).getD 0)
    | none => List.replicate 16 0
  [(0, rs.flatMap (fun r => threads.flatMap (fun t => word32 (spilledWord s c w r (128 * r + 4 * t) (w.vGet r t))))),
   (0x4000, rs.flatMap (fun r => word32 (spilledWord s c w r (0x4000 + 4 * r) (w.vPois r)))),
   (0x4200, (List.range 64).flatMap (fun i => word64 (w.sGet i))),
   (0x4400, (List.range 8).flatMap (fun i => word32 (w.kGet i))),
   (0x4440, (frameAt s (recordFrame s c (spillOf s w) w.slot) w.frame).dws.flatMap word64)]
  ++ (w.splits.map (fun p => (0x4480 + 32 * p.num, splitRecord s c p)))
  ++ [(0x4500, specialWords.flatMap (fun x => word64 (x.1 w))
      ++ [w64 w.blocks, splitsWord w, ctrsWord w, w64 fl].flatMap word64),
   (0x4580, toBytes 8 w.ah ++ toBytes 8 w.wmax ++ toBytes 8 mon),
   (0x4598, latch), (0x45B0, up), (0x45C0, (List.range 4).flatMap (fun i => walk (i + 1)))]
  ++ ((List.range w.stack.length).zip w.stack.reverse).map (fun x => (0x4800 + 32 * x.1, entryRecord x.2))

/-- The header (R360). -/
def headerBytes (sv : Saved) (ws : List Warp) (spec res : Bool) : List Byte :=
  let slots := ws.foldl (fun n w => n + 2 ^ w.slot) 0
  let walks := sv.core.walks.foldl (fun n w => if w.live then n + 2 ^ (w.slot - 1) else n) 0
  toBytes 8 (sv.core.switches % 2 ^ 32 + 0x4455534B * 2 ^ 32)
  ++ toBytes 8 (bitOf res * 2 ^ 63 + bitOf spec * 2 ^ 62 + bitOf (sv.core.dawn.st != .free) * 2 ^ 61 + walks % 16 * 2 ^ 57
      + sv.core.num / Config.coresPerDie * 256 + sv.core.num % Config.coresPerDie)
  ++ toBytes 8 sv.tsave ++ toBytes 32 slots

/-- The accumulator store's bytes that the image holds: of a lost part the free ones too (10 R234). -/
def accCells (c : Core) : List Host.Cell :=
  c.acc ++ c.lost.flatMap (fun l => ((List.range 0x80000).map (· + l.1 * 0x80000)).filterMap (fun o =>
    if c.acc.any (fun p => p.1 == o) then none else some (o, accByte c o)))

/-- Sparse contents as pieces of an image. -/
def sparsePart (base : Nat) (m : List Host.Cell) : List (Nat × List Byte) := m.map (fun p => (base + p.1, [p.2]))

/-- The dawn slot's 64 bytes, in the order in which R360 lists them; the widths are the model's (notes/assumptions/47.md). -/
def dawnSlot (team : Nat) (d : Dawn) : List Byte :=
  let st := match d.st with
    | .free => 0 | .loaded => 1 | .running => 2 | .faulted => 3
  toBytes 4 st ++ toBytes 4 team ++ word64 d.image ++ (List.range 4).flatMap (fun q => [0, BitVec.ofNat 8 (tabGet [] q d.queues).length])
  ++ toBytes 8 d.fault.code ++ toBytes 8 d.fault.tsub ++ word64 d.ftinfo ++ word64 d.fpc ++ List.replicate 8 0

/-- The queues of the dawn slot, and the slot. -/
def dawnParts (team : Nat) (d : Dawn) : List (Nat × List Byte) :=
  (d.queues.flatMap (fun q => ((List.range q.2.length).zip q.2).flatMap (fun e =>
    [(0x2000 + 128 * (16 * q.1 + e.1), e.2.vals.flatMap word32), (0x4000 + 4 * (16 * q.1 + e.1), word32 e.2.pois)])))
  ++ [(0x4100, dawnSlot team d)]

/-- What the save area holds when the spill is finished. The places of the output unit's fields, which
the spec does not give, are free (notes/assumptions/47.md). -/
def areaParts (s : State) (c : Ctx) (sv : Saved) : List (Nat × List Byte) :=
  let ws := s.allWarps.filter (fun w => w.saved == some sv.id && !w.ended)
  let ts := savedTeams s sv.id
  [(0, headerBytes sv ws (ts.any (·.spec)) true)]
  ++ (sv.core.walks.filter (·.live)).map (fun w => (0x1000 + 256 * (w.slot - 1), walkRecord w))
  ++ (if sv.core.outq.isEmpty then [] else [(0x1400, (List.range 3072).map (fun i => Config.freeByte s.tick (64 + i)))])
  ++ dawnParts (((s.findTeam sv.core.dawn.owner).map (·.index)).getD 0) sv.core.dawn
  ++ ((List.range ts.length).zip ts).map (fun x => (0x8000 + 512 * x.1, teamRecord x.2))
  ++ sparsePart areaSram sv.core.sram ++ sparsePart areaAcc (accCells sv.core)
  ++ ws.flatMap (fun w => (warpRecordParts s c w).map (fun p => (0x328000 + 0x10000 * w.slot + p.1, p.2)))

/-- Zero a range of a context's memory, page by page: what is listed there goes, and monitors on it wake (01 R10). -/
def zeroRange (c : Ctx) (start len : Nat) (s : State) : State :=
  (mappedPieces s c start len).foldl (fun s p =>
    let inside := fun a => decide (p.2.1 ≤ a) && decide (a < p.2.1 + p.2.2)
    wakeLines (fun l => decide (p.2.1 < 128 * l + 128) && decide (128 * l < p.2.1 + p.2.2)) { s with
      mem := s.mem.filter (fun p => !inside p.1), mp := s.mp.filter (fun g => !inside (64 * g)) }) s

/-- Write the image of a saved core context. -/
def writeArea (c : Ctx) (sv : Saved) (s : State) : State :=
  let base := sv.core.spill.toNat
  let put := fun (s : State) (a : Nat) (b : Byte) => match ctxPA s c a with
    | some pa => { s with mem := memWrite s.mem pa b }
    | none => s
  let s1 := (areaParts s c sv).foldl (fun t p =>
    ((List.range p.2.length).zip p.2).foldl (fun t x => put t (base + p.1 + x.1) x.2) t) (zeroRange c base areaSize s)
  let grans := sv.core.sp.map (fun g => base + areaSram + 64 * g) ++ sv.core.ap.map (fun g => base + areaAcc + 64 * g)
  { s1 with mp := grans.foldl (fun m a => match ctxPA s1 c a with
    | some pa => setIns (pa / 64) m
    | none => m) s1.mp }

/-- Every load and store of its warps has completed (R359). -/
def savedQuiet (s : State) (id : Nat) : Bool :=
  (s.allWarps.filter (fun w => w.saved == some id)).all (fun w =>
    w.ops.all (fun o => o.done || (o.cls != .ld && o.cls != .st)))

/-- The image stands in the save area: the scratchpad and the accumulator store live there now (R361). -/
def toImage (c : Ctx) (sv : Saved) (s : State) : State :=
  if sv.core.spill = 0 then s
  else
    let s1 := writeArea c sv s
    { s1 with saves := modFirst (fun x => x.id == sv.id) (fun x => { x with
      core := { x.core with sram := [], sp := [], acc := [], ap := [], lost := [] } }) s1.saves }

/-- SPILL_COMPLETE: the image stands in the save area, and the core context is resumable. -/
def spillComplete (id : Nat) (s : State) : State :=
  match s.saves.find? (fun x => x.id == id) with
  | none => s
  | some sv =>
    if sv.res ∨ !savedQuiet s id then s
    else
      let s1 := match savedCtx s id with
        | some c => toImage c sv s
        | none => s
      { s1 with saves := modFirst (fun x => x.id == id) (fun x => { x with res := true }) s1.saves }

def execSpillComplete (saved : Nat) (s : State) : Out := .next (spillComplete saved s)

/-! ## Resuming (R358, R361, R362; 10 R236) -/

/-- A dword of a warp record takes effect on the warp as a resume reads it back: the registers, the user frame, each split's PC
and watch skip, special registers and flags. A PC has bit 0 clear (02 R12). The rest of a record, FPX and the counters among
it, describes what the hardware holds and changes nothing then (notes/assumptions/48.md). -/
def Warp.putDword (off : Nat) (x : W64) (w : Warp) : Warp :=
  let two := fun (i : Nat) (m : List (Nat × W32)) => tabSet 0 (i + 1) (w32 (x.toNat / 2 ^ 32)) (tabSet 0 i (w32 x.toNat) m)
  let word := fun (l : List ((Warp → W64) × (W64 → Warp → Warp))) (i : Nat) => match l[i]? with
    | some p => p.2 x w
    | none => w
  let back := fun (p : Split) => if (off - 0x4480) / 32 ≠ p.num ∨ p.active = 0 then p else match (off - 0x4480) % 32 / 8 with
    | 0 => { p with pc := x &&& ~~~1#64 }
    | 1 => { p with skip := x.getLsbD 35 }
    | _ => p
  if off < 0x4000 then { w with v := two (off / 4) w.v }
  else if off < 0x4200 then { w with vp := two ((off - 0x4000) / 4) w.vp }
  else if off < 0x4400 then (if off = 0x4200 then w else { w with s := tabSet 0 ((off - 0x4200) / 8) x w.s })
  else if off < 0x4420 then { w with k := tabDel 0 (two ((off - 0x4400) / 4) w.k) }
  else if off < 0x4440 then w
  else if off < 0x4480 then word frameWords ((off - 0x4440) / 8)
  else if off < 0x4500 then { w with cur := back w.cur, others := w.others.map back }
  else if off = 0x4578 then { w with fz := x.getLsbD 0, fn := x.getLsbD 1, fc := x.getLsbD 2, fv := x.getLsbD 3 }
  else if off < 0x4580 then word specialWords ((off - 0x4500) / 8)
  else w

/-! ## What a debug session changes in a record (R355, R360) -/

/-- The second dword of a split: mask, valid, privileged, handler active, watch skip. A handler newly marked active is a user
handler in user mode, a supervisor handler in privileged mode (notes/assumptions/48.md). -/
def Split.marked (x : W64) (p : Split) : Split :=
  let h := x.getLsbD 34
  { p with
    active := if x.getLsbD 32 then x.setWidth 32 else 0, priv := x.getLsbD 33, skip := x.getLsbD 35
    userH := h && (p.userH || (!p.supH && !x.getLsbD 33)), supH := h && (p.supH || (!p.userH && x.getLsbD 33)) }

/-- That dword of split n changes; one made valid joins the warp's splits, stopped, and the warp keeps a split. -/
def Warp.editSplit (n : Nat) (x : W64) (w : Warp) : Warp :=
  let l := if w.splits.any (fun p => p.num == n) then w.splits.map (fun p => if p.num = n then p.marked x else p)
    else w.splits ++ [({ num := n, stopped := true } : Split).marked x]
  match l.filter (fun p => p.active != 0) with
  | [] => w
  | ps => w.putSplits ps

/-- XBLK: the registers above the blocks that remain are unbound (07 R141); a warp has at most 6. -/
def Warp.editBlocks (x : W64) (w : Warp) : Warp :=
  if 6 < x.toNat then w
  else { freeRegs ((regGroup (32 + 16 * x.toNat) (96 - 16 * x.toNat)).filter w.bound.contains) w with blocks := x.toNat }

/-- The monitor: its line, and it counts as woken (06 R136). -/
def Warp.editMonitor (x : W64) (w : Warp) : Warp :=
  { w with mon := if x.getLsbD 63 then some (x &&& 0x01FFFFFFFFFFFF80#64, ((w.mon.map (·.2.1)).getD 0), true) else none }

/-- The HWAIT latch: its address, its cohort, destination and latched bit, the s[SA] value. A latch at another address returns
behind the four bytes there. -/
def Warp.editLatch (i : Nat) (x : W64) (w : Warp) : Warp :=
  let l := w.latch.getD { addr := 0, sd := 0, sa := 0, cohort := 0, depth := w.stack.length, next := 4 }
  let at_ := { l with addr := x &&& ~~~1#64, next := if l.addr = x &&& ~~~1#64 then l.next else (x &&& ~~~1#64) + 4 }
  match i with
  | 0 => { w with latch := w.latch.map (fun _ => at_) }
  | 1 => { w with latch := if x.getLsbD 63 then some { l with cohort := bits x.toNat 7 0, sd := bits x.toNat 13 8 } else none }
  | _ => { w with latch := w.latch.map (fun l => { l with sa := x }) }

/-- The upcall: its dword, and the id of the walk it serves, which names the walk's slot. -/
def Warp.editUpcall (i : Nat) (x : W64) (w : Warp) : Warp :=
  let u := w.upcall.getD { walk := 0, slot := 0, unit := 0, seq := 0, kind := 0 }
  if i = 0 then { w with upcall := if x.getLsbD 63 then some { u with
      revoked := x.getLsbD 62, sealed := x.getLsbD 61, kind := bits x.toNat 1 0, unit := bits x.toNat 9 8, cursor := bits x.toNat 23 16 } else none }
  else { w with upcall := w.upcall.map (fun u => { u with walk := x, slot := x.toNat / 2 ^ 32 % 8 }) }

/-- Entry n of the walk list: its id, or its completion word. -/
def Warp.editWalk (n i : Nat) (x : W64) (w : Warp) : Warp :=
  let rest := w.walks.filter (fun p => p.1 != n)
  let old := (w.walks.find? (fun p => p.1 == n)).map (·.2)
  if i = 0 then { w with walks := if x = 0 then rest else rest ++ [(n, { (old.getD { id := x }) with id := x })] }
  else match old with
    | none => w
    | some e => { w with walks := rest ++ [(n, { e with word := if x = 0 then none else some (x, (e.word.map (·.2)).getD w.wmax) })] }

/-- Dword i of a stack entry (14 R309). -/
def Entry.edit (i : Nat) (x : W64) (e : Entry) : Entry :=
  match i with
  | 0 => { e with members := x.setWidth 32, defer := w32 (x.toNat / 2 ^ 32), arrived := e.arrived &&& x.setWidth 32 }
  | 1 =>
    let a := x &&& 0x01FFFFFFFFFFFFFE#64
    { e with av := x.getLsbD 63, addr := a, resume := if a = e.addr then e.resume else a + 4 }
  | 2 => { e with defpc := x &&& ~~~1#64 }
  | _ => e

/-- Entry n of the stack, counted from the oldest; the one above the youngest is new, and one without members goes. -/
def Warp.editStack (n i : Nat) (x : W64) (w : Warp) : Warp :=
  let l := w.stack.reverse
  let l1 := if n < l.length then ((List.range l.length).zip l).map (fun p => if p.1 = n then p.2.edit i x else p.2)
    else if n = l.length ∧ n < Config.stackLimit then l ++ [({ members := 0, dpriv := w.cur.priv } : Entry).edit i x]
    else l
  { w with stack := (l1.filter (fun e => e.members != 0)).reverse }

/-- A dword of a stopped warp's record that a session changes. The parked instruction words, SPLITS and CTRS say what
the hardware holds and change nothing (notes/assumptions/48.md). -/
def Warp.editDword (off : Nat) (x : W64) (w : Warp) : Warp :=
  if 0x4480 ≤ off ∧ off < 0x4500 ∧ (off - 0x4480) % 32 = 8 then w.editSplit ((off - 0x4480) / 32) x
  else if off < 0x4580 then
    (if off = 0x4550 then { w with fpx := x &&& 31 } else if off = 0x4560 then w.editBlocks x else w.putDword off x)
  else if off = 0x4580 then { w with ah := x.toNat }
  else if off = 0x4588 then { w with wmax := x.toNat }
  else if off = 0x4590 then w.editMonitor x
  else if off < 0x45B0 then w.editLatch ((off - 0x4598) / 8) x
  else if off < 0x45C0 then w.editUpcall ((off - 0x45B0) / 8) x
  else if off < 0x4600 then w.editWalk ((off - 0x45C0) / 16 + 1) ((off - 0x45C0) % 16 / 8) x
  else if 0x4800 ≤ off ∧ off < 0xCC00 then w.editStack ((off - 0x4800) / 32) ((off - 0x4800) % 32 / 8) x
  else w

/-- A switched-out warp's record stands in the save area, from which it is resumed (R359). -/
def imageStands (s : State) (w : Warp) : Bool := s.saves.any (fun x => w.saved == some x.id && x.res)

/-- Where a dword of a warp's record lives in memory: the user frame, and the registers that MSPILL left there; all of it once the
warp's core context has been spilled. -/
def recordHome (s : State) (w : Warp) (off : Nat) : Option Nat :=
  let spilled := fun r => w.spilled.contains r
  if spillOf s w ≠ 0 ∧ (imageStands s w ∨ (0x4440 ≤ off ∧ off < 0x4470) ∨ (off < 0x4000 ∧ spilled (off / 128))
      ∨ (0x4000 ≤ off ∧ off < 0x4200 ∧ (spilled ((off - 0x4000) / 4) ∨ spilled ((off - 0x4000) / 4 + 1)))) then
    some (warpRecord (spillOf s w) w.slot + off)
  else none

/-- A warp as its record in the save area holds it: privileged code may have changed it there (R357). -/
def restoreWarp (s : State) (c : Ctx) (spill : W64) (w : Warp) : Warp :=
  let base := warpRecord spill w.slot
  if (ctxPA s c base).isNone ∨ spill = 0 ∨ w.ended then w
  else (List.range (0x4580 / 8)).foldl (fun w i => match ctxPA s c (base + 8 * i) with
    | some pa => w.putDword (8 * i) (w64 (memNat s.mem pa 8))
    | none => w) w

/-- Placement generations rise by one, 0xFFFF to 1 (14 R322). -/
def nextGen (g : Nat) : Nat := if g % 65536 = 0xFFFF then 1 else g + 1

/-- A resumed walk: its deadlines restart (10 R236). -/
def restartWalk (now : Nat) (w : WalkS) : WalkS :=
  { w with units := w.units.map (fun u => { u with
      stages := u.stages.map (fun x => (x.1, { x.2 with raised := now })), up := { u.up with raised := now } }) }

/-- The requested positions of a unit, by step, A before B. -/
def requestedStages (x : UnitS) : List (Nat × Nat × Nat) :=
  ((x.stages.filter (fun p => p.2.st == .requested)).map (fun p => (p.2.step, p.1 / 16, p.1 % 16))).mergeSort
    (fun a b => decide (a.1 < b.1 ∨ (a.1 = b.1 ∧ a.2.1 ≤ b.2.1)))

/-- The upcalls that stand requested or pending in a walk are raised again, unit by unit (10 R236). -/
def reraiseWalk (w : WalkS) (s : State) : State :=
  (List.range w.units.length).foldl (fun s u =>
    let s1 := (requestedStages (w.unit u)).foldl (fun s x => if (w.direct x.2.1).isNone then raiseUpcall w u x.2.1 x.2.2 s else s) s
    if (w.unit u).slot = .pending then raiseUpcall w u 2 0 s1 else s1) s

/-- The upcalls of a resumed core context's walks, slot by slot. -/
def reraiseAll (walks : List WalkS) (s : State) : State :=
  let live := walks.filter (·.live)
  [1, 2, 3, 4].foldl (fun s q => (live.filter (fun w => w.slot == q)).foldl (fun s w => reraiseWalk w s) s)
    (s.mapTeams (fun t => if live.any (fun w => w.team == t.uid) then { t with pending := [] } else t))

/-- The dawn queues as the image holds them (R361). -/
def restoreQueues (s : State) (c : Ctx) (spill : W64) (d : Dawn) : Dawn :=
  let rd := fun o => (ctxPA s c (spill.toNat + o)).map (fun pa => w32 (memNat s.mem pa 4))
  if spill = 0 then d
  else { d with queues := d.queues.map (fun q => (q.1, ((List.range q.2.length).zip q.2).map (fun e =>
    ({ vals := ((List.range 32).zip e.2.vals).map (fun v => (rd (0x2000 + 128 * (16 * q.1 + e.1) + 4 * v.1)).getD v.2)
       pois := (rd (0x4000 + 4 * (16 * q.1 + e.1))).getD e.2.pois } : QEntry)))) }

/-- A saved core context takes a core. A monitor counts as woken (06 R136). Its warps may have seen newer data than the
core's L1 holds (06 R111). -/
def resumeOn (id core : Nat) (s : State) : State :=
  match s.saves.find? (fun x => x.id == id) with
  | none => s
  | some sv =>
    let restore := match savedCtx s id with
      | some c => restoreWarp s c sv.core.spill
      | none => fun w => w
    let dawn := match savedCtx s id with
      | some c => restoreQueues s c sv.core.spill sv.core.dawn
      | none => sv.core.dawn
    let walks := sv.core.walks.map (restartWalk s.time)
    let uids := (s.allWarps.filter (fun w => w.saved == some id)).map (·.uid)
    let back := fun (w : Warp) =>
      if w.saved == some id then { restore w with saved := none, core := core, mon := w.mon.map (fun m => (m.1, m.2.1, true)) } else w
    let s1 := (s.mapWarps back).mapTeams (fun t =>
      if t.saved == some id then { t with saved := none, core := core, pgen := nextGen t.pgen } else t)
    let s2 := (reraiseAll walks s1).modCore core (fun c => { sv.full s with
      num := core, tlb := c.tlb, walks := walks, dawn := dawn
      l1 := c.l1.map (fun l => { l with bar := uids ++ l.bar.filter (fun u => !uids.contains u) }) })
    { s2 with saves := s2.saves.filter (fun x => x.id != id) }

/-- CONTEXT_RESUME: onto an empty core, or onto one whose own context is being switched out for it. -/
def contextResume (id core : Nat) (s : State) : State :=
  match s.saves.find? (fun x => x.id == id), savedCtx s id with
  | some sv, some c =>
    let ids := linkedSaves s Config.cores [id]
    if 2 ≤ s.dev.pwr then s
    else if (resumeCores s id).contains core then
      match resumeSpread s id core with
      | some l => noteBlocked (((id, core) :: l).foldl (fun s x => resumeOn x.1 x.2 s) s)
      | none => s
    else if ids = [id] ∧ sv.res ∧ noneAbove s c.part (teamsPrio s (savedTeams s id)) ∧ (s.orr core).switch ≠ 0 ∧ (s.orr core).incoming = none
        ∧ (((s.partOf c.part).map openCores).getD []).contains core
        ∧ (!(savedTeams s id).any (·.spec) ∨ core / Config.coresPerDie = sv.core.num / Config.coresPerDie) then
      modOrr core (fun o => { o with incoming := some id }) s
    else s
  | _, _ => s

def execContextResume (saved core : Nat) (s : State) : Out := .next (contextResume saved core s)

/-- BANK_EXCHANGE_DONE: the incoming core context, where there is one, issues. -/
def bankExchangeDone (core : Nat) (s : State) : State :=
  let o := s.orr core
  if o.switch ≠ 2 then s
  else
    let s1 := modOrr core (fun o => { o with switch := 0, incoming := none }) s
    match o.incoming with
    | some id => noteBlocked (resumeOn id core s1)
    | none => noteBlocked s1

def execBankExchangeDone (core : Nat) (s : State) : Out := .next (bankExchangeDone core s)

/-- DEMAND_RESTORE: a line comes back ahead of the background order. Each line lives in exactly one place and every
access is performed there (R361), so that nothing but time changes (notes/assumptions/48.md). -/
def execDemandRestore (_core _line : Nat) (s : State) : Out := .next s

/-! ## Pre-emption (14 R316) -/

/-- A core context that may be switched out below a priority: with all that goes with it. -/
def victim (s : State) (prio core : Nat) : Bool :=
  let cs := linkedCores s Config.cores [core]
  !(residentTeams s core).isEmpty
  && cs.all (fun c => (s.orr c).switch == 0 && decide (teamsPrio s (residentTeams s c) < prio || (residentTeams s c).isEmpty))

/-- The lowest priority, and among those the latest placed. -/
def pickVictim (s : State) (cs : List Nat) : Option Nat :=
  cs.foldl (fun b c => match b with
    | none => some c
    | some x =>
      let p := teamsPrio s (residentTeams s c)
      let q := teamsPrio s (residentTeams s x)
      if p < q ∨ (p = q ∧ (s.getCore x).placed < (s.getCore c).placed) then some c else some x) none

/-- PREEMPTION_DELAY_EXPIRY. -/
def preemptionExpiry (part : Nat) (s : State) : State :=
  match s.partOf part with
  | none => s
  | some p =>
    let waiting := s.launches.filter (fun l => l.part == part && eligible s l && (canPlace s l).isNone
      && (match l.blocked with
        | some t => decide (t + p.delay ≤ s.time)
        | none => false))
    let first := waiting.find? (fun l => !waiting.any (fun x => servedBefore s x l))
    if p.delay = 0 ∨ p.quiesced then s
    else match first with
      | none => noteBlocked s
      | some l => match pickVictim s ((openCores p).filter (victim s (s.prio l))) with
        | some c => (switchRequest c s).modLaunch l.id (fun l => { l with blocked := some s.time })
        | none => s

def execPreemptionDelayExpiry (part : Nat) (s : State) : Out := .next (preemptionExpiry part s)

end Sys2Proof.Machine
end

