-- ==== Sys2Proof/Machine/Device.lean ====
section
/-! DEFINITION. The device (17 R364 to R378): the host's registers and doorbells, Ablas's commands and their responses,
partitions, contexts, mappings, debug and security states, power and heat. -/

namespace Sys2Proof.Machine

open Sys2Proof

/-! ## Registers, doorbells, responses (R364 to R367) -/

/-- A value of the fuses, the same at every reading. -/
def fuse (k : Nat) : W64 := Config.reading 0 (1000 + k)

/-- The fused digest of the device's identity key and the ROM's digest (R368), and the identity seed (R375); the widths are the
model's (notes/assumptions/49.md). -/
def identity : List W64 := [fuse 1, fuse 2, fuse 3]
def romDigest : List W64 := [fuse 4, fuse 5, fuse 6]
def identitySeed : List W64 := [fuse 7, fuse 8, fuse 9, fuse 10]

/-- IDREG: vendor and part are given; the stepping and the ROM's revision are the device's own. -/
def idReg : W64 := w64 (0x4752 * 2 ^ 48 + 0x0009 * 2 ^ 32 + (fuse 0).toNat % 2 ^ 32)

/-- DSTATE. -/
def dstateWord (s : State) : W64 :=
  w64 (bitOf s.dev.trip * 2 ^ 16 + s.dev.pwr % 8 * 2 ^ 12 + s.dbgs % 4 * 2 ^ 8 + s.dev.sec % 4 * 2 ^ 4 + s.dev.boot % 8)

/-- What a host read of the BAR0 window gives; it changes nothing (R364). -/
def bar0 (off : Nat) (s : State) : W64 :=
  match off with
  | 0x0000 => idReg
  | 0x0008 => dstateWord s
  | 0x0010 => s.dev.admBase
  | 0x0018 => w64 s.dev.admTail
  | 0x0020 => w64 s.dev.admHead
  | _ => 0

/-- The opcodes of R368. -/
def opcodes : List Nat :=
  [0x01, 0x02, 0x03, 0x10, 0x11, 0x12, 0x20, 0x21, 0x22, 0x23, 0x24, 0x30, 0x31, 0x40, 0x41, 0x42, 0x43, 0x50, 0x51]

/-- Dword 0 of a record is that of no command: an unknown OPC, or a reserved bit that is not zero (R367). -/
def unknownRecord (x : W64) : Bool := !opcodes.contains (bits x.toNat 7 0) || bits x.toNat 15 8 != 0 || bits x.toNat 63 32 != 0

/-- A new ADMTAIL, and dword 0 of each record that the host has written from the old one on. -/
def admTailWrite (tail : Nat) (recs : List W64) (s : State) : State :=
  let at_ := ((List.range recs.length).zip recs).map (fun p => ((s.dev.admTail + p.1) % 64, p.2))
  { s with dev := { s.dev with admTail := tail % 64, unknown := s.dev.unknown ++ at_.filter (fun p => unknownRecord p.2) } }

/-- The bytes of a response: STATUS, TAG, DETAIL, seven results. -/
def respBytes (r : Resp) : List Byte :=
  toBytes 8 (r.status % 256 + r.tag % 65536 * 2 ^ 16 + r.detail % 2 ^ 32 * 2 ^ 32)
  ++ (List.range 7).flatMap (fun i => word64 ((r.res[i]?).getD 0))

/-- Ablas writes a response and goes on to the next command (R367). -/
def respond (r : Resp) (s : State) : State :=
  let s1 := hostPut (s.dev.admBase.toNat + 4096 + 64 * s.dev.admHead) (respBytes r) s
  { s1 with dev := { s1.dev with admHead := (s.dev.admHead + 1) % 64, resps := r :: s1.dev.resps } }

def reply (opc tag status : Nat) (res : List W64) (s : State) : State :=
  respond { opc := opc, tag := tag, status := status, res := res } s

/-- Ablas takes a command: one stands in the ring, and the command before it has been answered. -/
def admReady (s : State) : Bool :=
  s.dev.admHead != s.dev.admTail && s.dev.busy.isNone && s.dev.merge.isNone && s.dev.pwr != 4

/-- A command that is available once the device runs (R369). -/
def command (opc tag : Nat) (s : State) (k : State → State) : State :=
  if !admReady s then s else if s.dev.boot = 2 then k s else reply opc tag 1 [] s

def okay (opc tag : Nat) (s : State) : State := reply opc tag 0 [] s
def invalid (opc tag : Nat) (s : State) : State := reply opc tag 3 [] s

/-- A command's answer waits for a shoot-down that s is about to start (03 R46). -/
def afterShoot (opc tag : Nat) (asid va : Option Nat) (lift : List Nat) (res : List W64) (s : State) : State :=
  let s1 := sentDoomed (startShoot asid va none s)
  { s1 with dev := { s1.dev with busy := some {
      resp := { opc := opc, tag := tag, status := 0, res := res }, shoots := [s.nextId], lift := lift } } }

/-- A command whose shoot-downs are complete is answered; a merge's quiesce is lifted (03 R46; R371). -/
def settleBusy (s : State) : State :=
  match s.dev.busy with
  | none => s
  | some b =>
    if s.shoots.any (fun k => b.shoots.contains k.id) then s
    else
      let s1 := respond b.resp { s with dev := { s.dev with busy := none } }
      { s1 with parts := s1.parts.map (fun p => if b.lift.contains p.range.quarter then { p with quiesced := false } else p) }

/-- The record at the head of the ring that no command matches is answered INVALID. -/
def answerUnknown (s : State) : State :=
  if !admReady s then s
  else match s.dev.unknown.find? (fun p => p.1 == s.dev.admHead) with
    | some p => respond { opc := bits p.2.toNat 7 0, tag := bits p.2.toNat 31 16, status := 3 }
        { s with dev := { s.dev with unknown := s.dev.unknown.erase p } }
    | none => s

/-- What Ablas answers of itself between commands. -/
def settleAdmin (s : State) : State :=
  let s1 := settleBusy s
  s1.dev.unknown.foldl (fun s _ => answerUnknown s) s1

/-- IDENT: answered in every state of the boot. -/
def execIdent (tag : Nat) (s : State) : Out :=
  .next (if admReady s then reply 0x01 tag 0 (idReg :: identity ++ romDigest) s else s)

/-- STATUS: DSTATE, the partitions, the count of the error log's entries and two of them from one on, the newest first (the
places, and the operand that says which, are the model's own, notes/assumptions/49.md). -/
def execStatus (c : StatusCmd) (s : State) : Out :=
  let parts := s.parts.foldl (fun n p => n + (p.range.count % 8) * 16 ^ (p.range.quarter % 4)) 0
  let entry := fun i => let x := (s.errLog[i]?).getD (0, 0, 0); [w64 (x.1 + x.2.2 * 256), x.2.1]
  .next (if admReady s then
      reply 0x02 c.tag 0 ([dstateWord s, w64 parts, w64 s.errLog.length] ++ entry c.first ++ entry (c.first + 1)) s
    else s)

/-! ### Doorbells -/

/-- The host wrote records into a ring (R364, R366; 14 R312): with their WCT as the latest of the host's. -/
def ringWrite (asid : Nat) (vas : List (Nat × List W64)) (s : State) : State :=
  match s.findCtx asid with
  | none => s
  | some c =>
    let r := homeWrite (vas.flatMap (fun x => ownPieces s c x.1 (x.2.flatMap word64))) { kind := 6, eng := 0x7F, asid := asid } s
    { r.1 with dev := { r.1.dev with hostWct := max r.1.dev.hostWct r.2 } }

/-- The records that stand in the ring between the old and the new tail, written by the host by now. -/
def hostRecs (s : State) (ch : Chain) (n : Nat) : List Rec :=
  (List.range n).map (fun i => { seq := ch.nextSeq + i, idx := nextIndex ch.tail i, rnd := 1, wct := s.dev.hostWct })

/-- A doorbell is dropped and logged (notes/assumptions/107.md). -/
def dropDoorbell (q : Nat) (s : State) : State :=
  logError 0xFD (w64 q) 0 { s with dev := { s.dev with dropped := s.dev.dropped + 1 } }

/-- Records by their number from 0 on. -/
def numbered {α : Type} (l : List α) : List (Nat × α) := (List.range l.length).zip l

/-- A doorbell's effect on a launch queue. -/
def ringLaunch (h : HostQ) (tail : Nat) (recs : List (List W64)) (s : State) : State :=
  let q := s.queue h.part h.slot
  let at_ := fun i => q.ring.toNat + 128 * ((q.tail + i) % max q.size 1)
  let s1 := ringWrite q.asid ((numbered recs).map (fun x => (at_ x.1, x.2))) s
  let n := (tail + q.size - q.tail % max q.size 1) % max q.size 1
  if q.size ≤ tail ∨ q.size ≤ q.packets.length + n then dropDoorbell h.num s1
  else s1.setQueue { q with
    tail := tail
    packets := q.packets ++ (List.range n).map (fun i => { asid := q.asid, addr := w64 (at_ i), wct := s1.dev.hostWct }) }

/-- A doorbell's effect on a chain. -/
def ringChain (h : HostQ) (tail : Nat) (recs : List (List W64)) (c : Ctx) (ch : Chain) (s : State) : State :=
  let s1 := ringWrite h.asid ((numbered recs).filterMap (fun x => (posVA s c ch (nextIndex ch.tail x.1)).map (fun a => (a, x.2)))) s
  let dist := fun (a b : Nat) => (a + 2 ^ 32 - b % 2 ^ 32) % 2 ^ 32
  let n := dist tail ch.tail
  if 63 * ch.nseg ≤ dist ch.tail ch.head + n then dropDoorbell h.num s1
  else moveChain h.asid h.slot (fun ch => { ch with
    tail := nextIndex ch.tail n, nextSeq := ch.nextSeq + n, recs := ch.recs ++ hostRecs s1 ch n }) s1

/-- A doorbell's effect on its queue. -/
def ring (h : HostQ) (tail : Nat) (recs : List (List W64)) (s : State) : State :=
  if h.launch then ringLaunch h tail recs s
  else match (s.findCtx h.asid).bind (fun c => (c.chain h.slot).map (fun ch => (c, ch))) with
    | none => dropDoorbell h.num s
    | some (c, ch) => ringChain h tail recs c ch s

/-- A doorbell that reaches the device. -/
def doorbell (q tail : Nat) (recs : List (List W64)) (s : State) : State :=
  match s.dev.hostqs.find? (fun h => h.num == q) with
  | some h => ring h tail recs s
  | none => dropDoorbell q s

/-- HOST_DOORBELL: held in Park, and behind those of its queue that are held; wakes the device from Idle (R365, R373). -/
def hostDoorbell (q tail : Nat) (recs : List (List W64)) (s : State) : State :=
  if s.dev.pwr = 4 then s
  else
    let s1 := { s with dev := { s.dev with pwr := if s.dev.pwr = 2 then 0 else s.dev.pwr } }
    if s.dev.pwr = 3 ∨ s.dev.held.any (fun d => d.1 == q) then { s1 with dev := { s1.dev with held := s.dev.held ++ [(q, tail, recs)] } }
    else doorbell q tail recs s1

def execHostDoorbell (q tail : Nat) (recs : List (List W64)) (s : State) : Out := .next (hostDoorbell q tail recs s)

/-- The device address at an offset of the BAR2 aperture: the opened ranges stand there in the order in which Ablas opened them,
within 16 GiB (R364; their places are the model's, notes/assumptions/133.md, DESIGN CHOICE). -/
def aperturePA : List (Nat × Nat × Nat) → Nat → Option Nat
  | [], _ => none
  | (_, pa, n) :: t, off => if off < n then some (pa + off) else aperturePA t (off - n)

def barTwoPA (off : Nat) (s : State) : Option Nat :=
  if off < 2 ^ 34 ∧ off % 8 = 0 then aperturePA s.dev.opened off else none

/-- What a host read of a dword through BAR2 gives; it changes nothing. -/
def barTwo (off : Nat) (s : State) : Option W64 := (barTwoPA off s).map (fun pa => w64 (memNat s.mem pa 8))

/-- A host write of a dword through BAR2 into a ring; one outside every opened range is dropped. -/
def barTwoWrite (off : Nat) (x : W64) (s : State) : State :=
  match barTwoPA off s with
  | none => s
  | some pa =>
    let r := homeWrite [(pa, word64 x, false)] { kind := 6, eng := 0x7F } s
    { r.1 with dev := { r.1.dev with hostWct := max r.1.dev.hostWct r.2 } }

/-- Ablas opens the ring of a host queue, given as virtual addresses and bytes. -/
def openRing (c : Ctx) (q : Nat) (rs : List (Nat × Nat)) (s : State) : State :=
  let ps := rs.flatMap (fun r => (mappedPieces s c r.1 r.2).map (fun p => (q, p.2.1, p.2.2)))
  { s with dev := { s.dev with opened := s.dev.opened ++ ps } }

/-- REGISTER_WRITE: ADMBASE, ADMTAIL, or a doorbell whose records the host wrote before; the others of BAR0 are read-only. An
offset behind BAR0's 64 KiB is one in the BAR2 aperture (notes/assumptions/133.md). -/
def execRegisterWrite (off : Nat) (w : BarWrite) (s : State) : Out :=
  .next (if 0x10000 ≤ off then barTwoWrite (off - 0x10000) w.val s
    else if off = 0x0010 then { s with dev := { s.dev with admBase := w64 (w.val.toNat / 4096 * 4096) } }
    else if off = 0x0018 then admTailWrite w.val.toNat w.recs s
    else if 0x1000 ≤ off ∧ off < 0x1400 ∧ off % 8 = 0 then hostDoorbell ((off - 0x1000) / 8) (w.val.toNat % 2 ^ 32) [] s
    else s)

/-! ## Boot (R369) -/

/-- RESET: everything but the fuses and what stands outside the device starts anew. -/
def deviceReset (s : State) : State :=
  { State.reset with
    time := s.time, tick := s.tick, nextId := s.nextId, agenda := s.agenda
    dev := { ({} : Device) with sec := s.dev.sec, ownerKey := s.dev.ownerKey, hostMem := s.dev.hostMem, chipId := s.dev.chipId } }

def execReset (s : State) : Out := .next (deviceReset s)

/-- BOOT_CHECK_DONE. -/
def execBootCheckDone (ok : Bool) (s : State) : Out :=
  .next (if s.dev.boot = 0 then { s with dev := { s.dev with boot := if ok then 1 else 3 } } else s)

/-- A partition's shape and figures (R370; 06 R114; 13 R293). -/
def partSpecOk (p : PartSpec) : Bool :=
  (p.count == 1 || p.count == 2 || p.count == 4) && p.quarter % p.count == 0 && decide (p.quarter + p.count ≤ 4)
  && (p.split == 896 || p.split == 768 || p.split == 512) && decide (p.service.getD 2 ≤ 8)

def quartersOf (q n : Nat) : List Nat := (List.range n).map (· + q)

/-- The quarters of a partition belong to no other one. -/
def quartersFree (parts : List Part) (p : PartSpec) : Bool :=
  (quartersOf p.quarter p.count).all (fun q => !parts.any (fun x => (quartersOf x.range.quarter x.range.count).contains q))

def newPart (p : PartSpec) : Part :=
  { range := { quarter := p.quarter, count := p.count }, split := p.split, service := p.service.getD 2, delay := p.delay }

/-- Add partitions one by one, where each is well formed and its quarters are free. -/
def addParts : List Part → List PartSpec → Option (List Part)
  | l, [] => some l
  | l, p :: ps => if partSpecOk p ∧ quartersFree l p then addParts (l ++ [newPart p]) ps else none

/-- BOOT_CONTINUE: accepted in Hold. A provisioning block (an owner key, signed by the vendor's root key) makes the device
Provisioned, or Locked with its lock flag: the security state only rises (R372). A device that has an owner keeps its key
(notes/assumptions/118.md, DESIGN CHOICE). -/
def bootContinue (tag : Nat) (ps : List PartSpec) (key sig : List Byte) (lock : Bool) (s : State) : State :=
  let block := !key.isEmpty
  if !admReady s then s
  else if s.dev.boot = 0 ∨ s.dev.boot = 3 then reply 0x03 tag 1 [] s
  else if s.dev.boot ≠ 1 then invalid 0x03 tag s
  else if block && ((s.dev.sec != 0 && s.dev.ownerKey != key) || !Config.verifies Config.vendorKey key sig) then reply 0x03 tag 4 [] s
  else match addParts [] ps with
    | none => invalid 0x03 tag s
    | some l => okay 0x03 tag { s with
        parts := l
        dev := { s.dev with
          boot := 2
          sec := if block then max (if lock then 2 else 1) s.dev.sec else s.dev.sec
          ownerKey := if block then key else s.dev.ownerKey } }

def execBootContinue (tag : Nat) (parts : List PartSpec) (key sig : List Byte) (lock : Bool) (s : State) : Out :=
  .next (bootContinue tag parts key sig lock s)

/-! ## Partitions (R368, R370, R371) -/

/-- PART_CREATE. -/
def execPartCreate (tag : Nat) (p : PartSpec) (s : State) : Out :=
  .next (command 0x10 tag s fun s =>
    if !partSpecOk p then invalid 0x10 tag s
    else if !quartersFree s.parts p then reply 0x10 tag 5 [] s
    else reply 0x10 tag 0 [w64 p.quarter] { s with parts := s.parts ++ [newPart p] })

/-- PART_SPLIT: into the two halves of a half or of the whole. -/
def execPartSplit (tag p : Nat) (s : State) : Out :=
  .next (command 0x12 tag s fun s => match s.partOf p with
    | none => invalid 0x12 tag s
    | some x =>
      if x.range.count < 2 ∨ s.liveCtxs.any (fun c => c.part == p) then invalid 0x12 tag s
      else
        let n := x.range.count / 2
        let half := fun q => { x with range := { quarter := q, count := n } }
        okay 0x12 tag { s with
          parts := (s.parts.filter (fun y => y.range.quarter != p)) ++ [half p, half (p + n)]
          queues := s.queues.filter (fun q => q.part != p) })

/-- The launch queues of a partition that are bound. -/
def boundQueues (s : State) (p : Nat) : List Nat := (s.queues.filter (fun q => q.part == p && q.size != 0)).map (·.num)
/-- The Meridian groups granted in a partition. -/
def grantedGroups (s : State) (p : Nat) : List Nat := (s.liveCtxs.filter (fun c => c.part == p)).flatMap (·.groups)

/-- Two partitions that may merge (R371). -/
def mergeable (s : State) (p1 p2 : Nat) : Bool :=
  match s.partOf p1, s.partOf p2 with
  | some a, some b =>
    p1 != p2 && a.range.count == b.range.count && decide (a.range.count ≤ 2) && min p1 p2 % (2 * a.range.count) == 0
    && min p1 p2 + a.range.count == max p1 p2 && a.split == b.split
    && !(boundQueues s p1).any (boundQueues s p2).contains && !(grantedGroups s p1).any (grantedGroups s p2).contains
  | _, _ => false

def quiesce (on : Bool) (ps : List Nat) (s : State) : State :=
  { s with parts := s.parts.map (fun p => if ps.contains p.range.quarter then { p with quiesced := on } else p) }

/-- PART_MERGE: checked, then both partitions stop placing teams. -/
def execPartMerge (tag p1 p2 timeout : Nat) (s : State) : Out :=
  .next (command 0x11 tag s fun s =>
    if mergeable s p1 p2 then
      quiesce true [p1, p2] { s with dev := { s.dev with merge := some { tag := tag, p1 := p1, p2 := p2, deadline := s.time + timeout } } }
    else invalid 0x11 tag s)

/-- Every team has retired and every chain record has completed. -/
def drained (s : State) (ps : List Nat) : Bool :=
  let cs := s.liveCtxs.filter (fun c => ps.contains c.part)
  cs.all (fun c => c.chains.all (fun x => x.2.recs.isEmpty))
  && s.allTeams.all (fun t => t.retired || !cs.any (fun c => c.asid == t.asid))

/-- The drain has not ended by the timeout: the quiesce is lifted, nothing changes, the answer is BUSY. -/
def mergeBusy (m : Merge) (s : State) : State :=
  reply 0x11 m.tag 2 [] (quiesce false [m.p1, m.p2] { s with dev := { s.dev with merge := none } })

/-- Steps 3 to 5 of a merge: every physical address keeps its bytes; contexts, queues and groups name the new partition, which
keeps the first one's service cores and delay; the shoot-down follows, and the answer after it. -/
def mergeParts (m : Merge) (a : Part) (s : State) : State :=
  let q := min m.p1 m.p2
  let of := fun p => if p = m.p1 ∨ p = m.p2 then q else p
  afterShoot 0x11 m.tag none none [q] [w64 q] { s with
    parts := (s.parts.filter (fun p => p.range.quarter != m.p1 && p.range.quarter != m.p2))
      ++ [{ a with range := { quarter := q, count := 2 * a.range.count }, quiesced := true }]
    ctx := { s.ctx with part := of s.ctx.part }
    ctxs := s.ctxs.map (fun c => { c with part := of c.part })
    queues := s.queues.map (fun x => { x with part := of x.part })
    launches := s.launches.map (fun l => { l with part := of l.part })
    meridian := s.meridian.map (fun x => (of (x.1 / 256) * 256 + x.1 % 256, x.2))
    dev := { s.dev with
      merge := none
      hostqs := s.dev.hostqs.map (fun h => { h with part := of h.part }) } }

/-- PART_MERGE_DRAINED. -/
def partMergeDrained (s : State) : State :=
  match s.dev.merge with
  | none => s
  | some m => match s.partOf m.p1 with
    | none => s
    | some a =>
      if !drained s [m.p1, m.p2] then s
      else if m.deadline < s.time then mergeBusy m s
      else mergeParts m a s

def execPartMergeDrained (s : State) : Out := .next (partMergeDrained s)

/-- PART_MERGE_TIMEOUT. -/
def execPartMergeTimeout (s : State) : Out :=
  .next (match s.dev.merge with
    | none => s
    | some m => if m.deadline < s.time ∨ (m.deadline = s.time ∧ !drained s [m.p1, m.p2]) then mergeBusy m s else s)

/-! ## Contexts (R368) -/

def framesOf (size : Nat) : Nat := 64 ^ size

/-- A leaf as MAP writes it. -/
def mapLeaf (m : MapSpec) (frame sc : Nat) : W64 :=
  w64 (frame * 2 ^ 20 + sc * 2 ^ 12 + m.size * 2 ^ 9 + bitOf m.pr * 2 ^ 8 + m.lc * 2 ^ 6 + m.tier * 2 ^ 5 + m.perm.toNat * 2 + 1)

/-- A page that Ablas needs for a context's chains is mapped where nothing is: in HBM, read-only, and for privileged code
alone where user is false (05 R77, R78; notes/assumptions/103.md). -/
def ownPage (c : Ctx) (user : Bool) (s : State) (va : Nat) : Option State :=
  match ctxWalk s c va with
  | .leaf _ => some s
  | .fail _ _ => (needLeaf s c va).bind (fun x => (freeFrame x.2 (rangeOf x.2.parts c) 0).map (fun f =>
      putLeaf x.1 (mapLeaf { tier := 0, size := 0, lc := 0, perm := if user then 9 else 1 } f 1) (giveFrame f x.2)))

/-- The pages of a context's chain table, out of user code's reach (05 R78). -/
def tablePages (c : Ctx) (s : State) : Option State := (rangePages c.ctBase 4096).foldlM (ownPage c false) s

/-- Whether some page holds a part of a context's chain table. -/
def onTable (c : Ctx) (va size : Nat) : Bool := decide (va < c.ctBase + 4096) && decide (c.ctBase < va + 2 ^ 18 * framesOf size)

/-- The 64 entries of a new chain table, none bound: NEXTSEQ 2, the rest 0 (05 R78; SEGBASE, CWADDR and ANNEX, log 127). -/
def freshEntries : List Byte := (List.range 64).flatMap (fun _ => [0, 0, 0, 2, 0, 0, 0, 0].flatMap (toBytes 8))

/-- The pages of the chain table, then of a chain: its segments, its annex, its completion word. -/
def chainPages (c : Ctx) (x : ChainSpec) (s : State) : Option State :=
  (tablePages c s).bind (fun s => (x.segs.flatMap (fun a => rangePages a 4096) ++ rangePages x.annex (63 * 128 * x.segs.length) ++ rangePages x.cwAddr 8).foldlM
    (ownPage c true) s)

/-- Bind a chain: its entry, its link records, its completion word (05 R77 to R80); none without frames for its pages. -/
def bindChain (asid n : Nat) (x : ChainSpec) (host : Option Nat) (s : State) : Option State :=
  let ch : Chain := {
    engine := x.engine, host := host, priv := x.priv, nseg := x.segs.length, annex := w64 x.annex, cwAddr := w64 x.cwAddr
    segBase := w64 (x.segs.headD 0) }
  match s.findCtx asid with
  | none => some s
  | some c => (chainPages c x s).map (fun s1 =>
      let s2 := s1.modCtx asid (fun c => { c with chains := c.chains.filter (fun p => p.1 != n) ++ [(n, ch)] })
      let links := x.segs.zip (x.segs.drop 1 ++ x.segs.take 1)
      let s3 := links.foldl (fun s p => (ownWrite c (p.1 + 63 * 64) (toBytes 8 p.2 ++ List.replicate 56 0) {} s).1) s2
      (chainWord c ch {} 1 (moveChain asid n id s3)).1)

/-- A chain's segments, annex and completion word are aligned, and its engine is the partition's (05 R76 to R78). -/
def chainSpecOk (p : Part) (x : ChainSpec) : Bool :=
  x.segs.all (fun a => a % 4096 == 0 && decide (a < 2 ^ 57)) && !x.segs.isEmpty && decide (x.segs.length ≤ 4096)
  && x.cwAddr % 8 == 0 && decide (x.cwAddr < 2 ^ 57) && decide (x.annex + 63 * 128 * x.segs.length ≤ 2 ^ 57)
  && decide (24 * p.range.quarter ≤ x.engine) && decide (x.engine < 24 * (p.range.quarter + p.range.count))

/-- The frame of a page-table root is Ablas's from CTX_CREATE on: no page or table stands in it, and no other root at its
address (03 R36). -/
def rootTaken (s : State) (root : Nat) : Bool :=
  s.liveCtxs.any (fun c => c.root == root)
  || (s.dev.used.contains (root / 2 ^ 18) && !s.liveCtxs.any (fun c => c.root / 2 ^ 18 == root / 2 ^ 18))

/-- The context that CTX_CREATE makes: LEVEL at its ceiling (09 R212). -/
def newCtx (x : CtxSpec) (s : State) : Ctx :=
  let c : Ctx := {
    live := true, asid := x.asid, tenant := x.tenant, part := x.part, root := x.root, ktvec := x.ktvec, ctBase := x.table
    groups := x.groups, asidReg := w64 x.asid, ebudRate := x.rate, ebudTime := s.time / 1000
    htBase := x.htBase, htSize := x.htSize, gdBase := x.gdBase, savePool := x.savePool }
  { c with ebudLevel := 400 * effRate s c }

/-- The device with it, its root's frame taken. -/
def withCtx (x : CtxSpec) (s : State) : State := takeFrame (x.root / 2 ^ 18) { s with ctxs := s.ctxs ++ [newCtx x s] }

/-- The new context's chain table is mapped, and its entries are written. -/
def withTable (x : CtxSpec) (s : State) : Option State :=
  (tablePages (newCtx x s) (withCtx x s)).map (fun s1 => (ownWrite (newCtx x s) x.table freshEntries {} s1).1)

/-- CTX_CREATE. -/
def ctxCreate (tag : Nat) (x : CtxSpec) (s : State) : State :=
  command 0x20 tag s fun s => match s.partOf x.part with
    | none => invalid 0x20 tag s
    | some p =>
      if (s.findCtx x.asid).isSome ∨ x.root % 65536 ≠ 0 ∨ 2 ^ 39 ≤ x.root ∨ rootTaken s x.root ∨ !chainSpecOk p x.chain
          ∨ x.table % 64 ≠ 0 ∨ 2 ^ 57 < x.table + 4096 ∨ 4096 ≤ x.tenant ∨ 2 ^ 20 < x.htSize
          ∨ x.savePool.any (fun a => a % 65536 != 0) then invalid 0x20 tag s
      else match (withTable x s).bind (bindChain x.asid 0 x.chain none) with
        | some s2 => okay 0x20 tag s2
        | none => reply 0x20 tag 5 [] s

def execCtxCreate (tag : Nat) (c : CtxSpec) (s : State) : Out := .next (ctxCreate tag c s)

/-- A team is terminated (16 R348): each of its warps ends. -/
def terminate (p : Team → Bool) (s : State) : State :=
  let hit := fun (w : Warp) => !w.dawn && s.allTeams.any (fun t => t.uid == w.team && !t.retired && p t)
  (s.mapWarps (fun w => if hit w then w.exitAll else w))

/-- The records of a context's chains are cancelled, in order: each writes its completion word, and a failed one stands in the
error log (05 R80, R101). A queued one has sub-code 9; one that had started and not ended has sub-code 6 (log 83, DESIGN
CHOICE); one that had ended keeps its own result. -/
def cancelRecords (c : Ctx) (s : State) : State :=
  c.chains.foldl (fun s p => p.2.recs.foldl (fun s r =>
    let f := if r.phase = .done then r.fail
      else some (engineFail p.2.engine p.1 ((r.dws.headD 0).toNat % 256) r.seq (if r.phase = .queued then 9 else 6) 0 0)
    let s1 := (chainWord c p.2 {} (completionWord { r with fail := f }) s).1
    match f with
    | some f => logError f.cause.code (w64 f.cause.tsub) 0 s1
    | none => s1) s) s

/-- The migrations that a context's records and Ablas's have begun for it end in their first step (03 R48). -/
def endHolds (c : Ctx) (s : State) : State :=
  let vas := c.chains.flatMap (fun p => (p.2.recs.filter (fun r => r.phase == .waiting && r.part == 1
      && (r.dws.headD 0).toNat % 256 == 0x05)).map (fun r => ((r.dws[1]?).getD 0).toNat))
  (vas ++ (s.ablas.filter (fun r => r.asid == c.asid && r.part == 1)).map (·.va)).foldl (fun s va => releaseHold c va s) s

/-- The frames that hold the tables of the live contexts, or stand in a pool. -/
def keptFrames (s : State) : List Nat :=
  s.liveCtxs.flatMap (fun c => c.pool ++ c.root / 2 ^ 18 :: (tableEntries s.mem c.root).flatMap (fun e =>
    bits e.2 51 18 :: (tableEntries s.mem (bits e.2 51 16 * 2 ^ 16)).map (fun e2 => bits e2.2 51 18)))

/-- A context's leaves go, each as it stands by then (03 R49): two may share a frame. -/
def dropLeaves (c : Ctx) (s : State) : State :=
  (ctxLeaves s.mem c.root).foldl (fun s x =>
    let l := w64 (memNat s.mem x.2.1 8)
    if leafSZ l = 0 then dropMapping x.2.1 l s
    else doomFrame (leafFrame l + x.1 / 2 ^ 18 % framesOf (leafSZ l)) (putLeaf x.2.1 0 s)) s

/-- A context is gone, and its pages, tables and pool with it: their frames are freed with the shoot-down (03 R46, R49), and its
root, whose frame may hold another, is cleared (03 R36). -/
def freePages (c : Ctx) (s : State) : State :=
  let tables := (tableEntries s.mem c.root).flatMap (fun e => bits e.2 51 18 ::
    (tableEntries s.mem (bits e.2 51 16 * 2 ^ 16)).map (fun e2 => bits e2.2 51 18))
  let s1 := clearPhys c.root 65536 ((dropLeaves c s).modCtx c.asid (fun c => { c with live := false }))
  let kept := keptFrames s1
  ((c.root / 2 ^ 18 :: tables ++ c.pool).eraseDups.filter (fun f => !kept.contains f)).foldl (fun s f => doomFrame f s) s1

/-- The teams of a context are terminated and retire. -/
def endTeams (asid : Nat) (s : State) : State :=
  let mine := fun (t : Team) => t.asid == asid && !t.retired
  let ts := s.allTeams.filter mine
  let s1 := ts.foldl (fun s t => freeTeam t (s.modTeam t.uid (fun t => { t with saved := none }))) (terminate mine s)
  { s1 with saves := s1.saves.filter (fun x => !ts.any (fun t => t.saved == some x.id)) }

/-- The walks and the output unit's operations of a context go from a core. -/
def endCoreWork (asid : Nat) (k : Core) : Core :=
  (k.walks.filter (fun w => w.asid == asid)).foldl (fun k w => closeSlot w.slot { k with walks := k.walks.filter (fun x => x.slot != w.slot) })
    { k with outq := k.outq.filter (fun o => o.asid != asid) }

/-- CTX_DESTROY: its teams are terminated, its launches complete (14 R318; 16 R348), its records are cancelled, its pages freed
and shot down. -/
def ctxDestroy (tag asid : Nat) (s : State) : State :=
  command 0x21 tag s fun s => match s.findCtx asid with
    | none => invalid 0x21 tag s
    | some c =>
      let s1 := cancelRecords c (endHolds c (endTeams asid s))
      let s2 := (s1.core :: s1.cores).foldl (fun s k => s.modCore k.num (endCoreWork asid)) s1
      let gone := s2.launches.filter (fun l => l.asid == asid && !l.complete)
      let s3 := gone.foldl (fun s l =>
        finishLaunch l.part l.queue l.seq { asid := l.asid, priv := l.priv } l.crec.toNat l.cookie 0 s) s2
      let s4 := { s3 with
        attns := s3.attns.filter (fun a => a.asid != asid), colls := s3.colls.filter (fun a => a.asid != asid)
        ablas := s3.ablas.filter (fun a => a.asid != asid), snaps := s3.snaps.filter (fun a => a.asid != asid)
        launches := s3.launches.filter (fun l => l.asid != asid || l.complete)
        queues := s3.queues.map (fun q => { q with packets := q.packets.filter (fun p => p.asid != asid) })
        dev := { s3.dev with
          hostqs := s3.dev.hostqs.filter (fun h => h.asid != asid)
          opened := s3.dev.opened.filter (fun r => !s3.dev.hostqs.any (fun h => h.num == r.1 && h.asid == asid)) } }
      afterShoot 0x21 tag (some asid) none [] [] (freePages c s4)

def execCtxDestroy (tag asid : Nat) (s : State) : Out := .next (ctxDestroy tag asid s)

/-! ## Mappings (03 R38, R39, R45, R46, R49; 12 R261) -/

/-- The lowest free run of n frames of a tier, aligned to n (notes/assumptions/36.md). -/
def freeRun (s : State) (r : PartRange) (tier n : Nat) : Option Nat :=
  ((List.range (min (s.dev.used.length + 1) (tierFrames r tier / n))).map (fun i => i * n + tierBase r tier)).find?
    (fun f => !s.dev.used.any (fun u => decide (f ≤ u) && decide (u < f + n)))

/-- A change of a leaf narrows it (03 R46). -/
def narrows (a b : W64) : Bool :=
  (leafRead a && !leafRead b) || (leafWrite a && !leafWrite b) || (leafExec a && !leafExec b) || (leafUser a && !leafUser b)
  || leafLC a != leafLC b || leafPR a != leafPR b

/-- A new page: tables and frames are taken, and its leaves written. -/
def mapNew (tag : Nat) (c : Ctx) (va : Nat) (m : MapSpec) (s : State) : State :=
  let r := rangeOf s.parts c
  match needTable s r (c.root + bits va 56 44 * 8) with
  | none => reply 0x22 tag 5 [] s
  | some (t2, s1) => match needTable s1 r (t2 + bits va 43 31 * 8) with
    | none => reply 0x22 tag 5 [] s
    | some (t3, s2) => match freeRun s2 r m.tier (framesOf m.size) with
      | none => reply 0x22 tag 5 [] s
      | some f =>
        let s3 := (List.range (framesOf m.size)).foldl (fun s i => giveFrame (f + i) s) s2
        okay 0x22 tag ((List.range (framesOf m.size)).foldl (fun s i => putLeaf (t3 + (bits va 30 18 + i) * 8) (mapLeaf m f 1) s) s3)

/-- A leaf of a page to be mapped is present already. -/
def runTaken (s : State) (c : Ctx) (va size : Nat) : Bool :=
  (List.range (framesOf size)).any (fun i => match leafAddr s c (va + i * 2 ^ 18) with
    | some a => bit (memNat s.mem a 8) 0
    | none => false)

/-- MAP: a new page, other permissions of a mapped one, or a frame of the KV pool. A page under migration, one that overlaps
pages of another size and a chain table's page for user code are INVALID (log 126, DESIGN CHOICE). -/
def mapPage (tag asid va : Nat) (m : MapSpec) (s : State) : State :=
  command 0x22 tag s fun s => match s.findCtx asid with
    | none => invalid 0x22 tag s
    | some c =>
      if m.pool then match freeFrame s (rangeOf s.parts c) 0 with
        | none => reply 0x22 tag 5 [] s
        | some f => okay 0x22 tag ((giveFrame f s).modCtx asid (fun c => { c with pool := c.pool ++ [f] }))
      else if 2 < m.size ∨ 2 < m.lc ∨ 1 < m.tier ∨ 2 ^ 57 ≤ va ∨ va % (2 ^ 18 * framesOf m.size) ≠ 0
          ∨ (m.perm.getLsbD 3 ∧ onTable c va m.size) then invalid 0x22 tag s
      else match ctxWalk s c va with
        | .leaf l =>
          let n := mapLeaf m (leafFrame l) (leafSC l)
          if leafSZ l ≠ m.size ∨ bitOf (leafTier l) ≠ m.tier ∨ (2 ≤ leafSC l ∧ leafWrite n) ∨ leafM l then invalid 0x22 tag s
          else
            let s1 := (List.range (framesOf m.size)).foldl (fun s i => match leafAddr s c (va + i * 2 ^ 18) with
              | some a => putLeaf a n s
              | none => s) s
            if narrows l n then afterShoot 0x22 tag (some asid) (some va) [] [] s1 else okay 0x22 tag s1
        | .fail _ _ => if runTaken s c va m.size then invalid 0x22 tag s else mapNew tag c va m s

def execMap (tag asid va : Nat) (m : MapSpec) (s : State) : Out := .next (mapPage tag asid va m s)

/-- UNMAP: the mapping goes, its frame's count falls or the frame is freed, the page is shot down. A page under migration is BUSY
(log 126, DESIGN CHOICE). -/
def unmapPage (tag asid va : Nat) (s : State) : State :=
  command 0x23 tag s fun s => match s.findCtx asid with
    | none => invalid 0x23 tag s
    | some c => match ctxWalk s c va, leafAddr s c va with
      | .leaf l, some a =>
        if leafM l then reply 0x23 tag 2 [] s
        else
          let n := framesOf (leafSZ l)
          let base := va / (2 ^ 18 * n) * (2 ^ 18 * n)
          let s1 := if leafSZ l = 0 then dropMapping a l s
            else (List.range n).foldl (fun s i => doomFrame (leafFrame l + i) (match leafAddr s c (base + i * 2 ^ 18) with
              | some a => putLeaf a 0 s
              | none => s)) s
          afterShoot 0x23 tag (some asid) (some va) [] [] s1
      | _, _ => invalid 0x23 tag s

def execUnmap (tag asid va : Nat) (s : State) : Out := .next (unmapPage tag asid va s)

/-- Bind a launch queue: its completion word shows 1 (14 R312; 05 R80), and its host queue's (R366). -/
def bindQueue (c : Ctx) (x : QueueSpec) (s : State) : State :=
  let s1 := s.setQueue {
    part := c.part, num := x.num, asid := x.asid, host := x.host, cw := w64 x.chain.cwAddr, ring := w64 x.ring, size := x.size }
  let s2 := (ownWrite c x.chain.cwAddr (toBytes 8 1) {} s1).1
  match x.host with
  | some q => hostWord q 1 s2
  | none => s2

/-- QUEUE_BIND: a chain slot, or a launch queue, with the host queue it belongs to (R365, R366; 14 R312). -/
def queueBind (tag : Nat) (x : QueueSpec) (s : State) : State :=
  command 0x24 tag s fun s => match s.findCtx x.asid with
    | none => invalid 0x24 tag s
    | some c => match s.partOf c.part with
      | none => invalid 0x24 tag s
      | some p =>
        let taken : Bool := match x.host with
          | some q => decide (128 ≤ q) || s.dev.hostqs.any (fun h => h.num == q)
          | none => false
        let busy : Bool := if x.launch then !(s.queue c.part x.num).packets.isEmpty
          else ((c.chain x.num).map (fun ch => !ch.recs.isEmpty)).getD false
        if taken ∨ busy ∨ 160 ≤ x.vec ∨ (x.launch ∧ (32 ≤ x.num ∨ x.size = 0 ∨ x.ring % 128 ≠ 0))
            ∨ (!x.launch ∧ (64 ≤ x.num ∨ !chainSpecOk p x.chain)) then invalid 0x24 tag s
        else
          let s1 := match x.host with
            | some q => { s with dev := { s.dev with hostqs := s.dev.hostqs ++
                [{ num := q, asid := x.asid, part := c.part, launch := x.launch, slot := x.num, hcw := x.hcw, vec := x.vec }] } }
            | none => s
          let opened := fun (rs : List (Nat × Nat)) (s : State) => match x.host with
            | some q => openRing c q rs s
            | none => s
          if x.launch then okay 0x24 tag (opened [(x.ring, 128 * x.size)] (bindQueue c x s1))
          else match bindChain x.asid x.num x.chain x.host s1 with
            | some s2 => okay 0x24 tag (opened (x.chain.segs.map (fun a => (a, 4096))) s2)
            | none => reply 0x24 tag 5 [] s

def execQueueBind (tag : Nat) (q : QueueSpec) (s : State) : Out := .next (queueBind tag q s)

/-! ## Resets of a core and of its Orrery (R368; 09 R217; 10 R234; 11 R254) -/

/-- The output routine unit's operations end with sub-code 6 (11 R254). -/
def resetOutputs (core : Nat) (s : State) : State :=
  s.modCore core (fun c => { c with outq := c.outq.map (fun o =>
    if o.done then o else { o with done := true, fail := some (engineFail 0x7F 0 0x10 0 6 0 0) }) })

/-- Every walk stops, the whole accumulator store is lost, fenced sub-arrays are tested again. -/
def resetOrrery (core : Nat) (failed : BitVec 4) (s : State) : State :=
  let s1 := resetOutputs core (stopAll core true 6 s)
  let s2 := s1.modCore core (fun c => [1, 2, 3, 4].foldl (fun c q => loseSlot s.tick q c) c)
  modOrr core (fun o => { o with fenced := o.fenced.filter (fun i => failed.getLsbD i) }) s2

def execResetOrrery (tag core : Nat) (failed : BitVec 4) (s : State) : Out :=
  .next (command 0x31 tag s fun s =>
    if Config.cores ≤ core then invalid 0x31 tag s else okay 0x31 tag (resetOrrery core failed s))

def execResetCore (tag core : Nat) (failed : BitVec 4) (s : State) : Out :=
  .next (command 0x30 tag s fun s =>
    if Config.cores ≤ core then invalid 0x30 tag s
    else okay 0x30 tag (resetOrrery core failed (settleEnded (terminate (fun t => t.saved == none && t.core == core) s))))

/-! ## Attestation, telemetry, debugging (R372, R374, R375, R377; 16 R354, R355) -/

/-- What a report covers (R375). -/
def attestReport (s : State) (nonce : W64) (asid : Nat) : List Byte :=
  word64 idReg ++ word64 (dstateWord s)
  ++ s.parts.flatMap (fun p => [p.range.quarter, p.range.count, p.split, p.service, p.delay].flatMap (toBytes 8))
  ++ word64 nonce
  ++ (((s.findCtx asid).map (·.images)).getD []).flatMap (fun x => (List.range 32).map (Config.imageDigest x.1 x.2.1 x.2.2))

/-- The device's attestation key, derived at each boot. -/
def attestationKey : List Byte := Config.deriveKey (identitySeed.flatMap word64) (romDigest.flatMap word64)

/-- ATTEST: the signature goes to the host's buffer, the report's digest into the results. -/
def attest (tag : Nat) (nonce : W64) (asid hostBuf : Nat) (s : State) : State :=
  command 0x40 tag s fun s =>
    let d := shake256 (attestReport s nonce asid)
    let s1 := hostPut hostBuf ((List.range 1280).map (Config.signature attestationKey d)) s
    reply 0x40 tag 0 ((List.range 4).map (fun i => w64 (ofBytes ((d.drop (8 * i)).take 8))))
      { s1 with dev := { s1.dev with nonce := some nonce } }

def execAttest (tag : Nat) (nonce : W64) (asid hostBuf : Nat) (s : State) : Out := .next (attest tag nonce asid hostBuf s)

/-- Power and the temperatures are readings; HEAT follows from the coolant's flow, in µg/s, a reading (notes/assumptions/49.md). -/
def temperatures (s : State) : Nat := (Config.reading s.tick 2).toNat
def heatWord (s : State) : W64 :=
  let flow := (Config.reading s.tick 3).toNat % 2 ^ 32
  let heat := flow * s.dev.heatCap * (bits (temperatures s) 63 48 - bits (temperatures s) 47 32) / (64 * 10 ^ 6)
  w64 (heat % 2 ^ 32 * 2 ^ 32 + (Config.reading s.tick 1).toNat % 2 ^ 32)

/-- TELEM (R377): readings are free values, counts are the device's. -/
def telem (tag hostAddr : Nat) (s : State) : State :=
  command 0x41 tag s fun s =>
    let s1 := if hostAddr = 0 then s
      else hostPut hostAddr ((List.range 64).flatMap (fun i => toBytes 2 (Config.reading s.tick (100 + i)).toNat)) s
    reply 0x41 tag 0 [heatWord s, w64 (temperatures s),
      w64 (s.dev.orru % 2 ^ 32 * 2 ^ 32 + s.dev.orrc % 2 ^ 32), w64 (s.uncorrected % 2 ^ 32 * 2 ^ 32 + s.corrected % 2 ^ 32)] s1

def execTelem (tag hostAddr : Nat) (s : State) : Out := .next (telem tag hostAddr s)

/-- The debug bits that a debug state does not allow are cleared (16 R351). -/
def limitDebug (st : Nat) (x : W64) : W64 :=
  if st = 0 then x &&& ~~~7#64 else if st = 1 then x &&& ~~~6#64 else x

/-- The debug state changes. -/
def setDebug (st : Nat) (tenants : List Nat) (s : State) : State :=
  { s with
    dbgs := st
    ctx := { s.ctx with dbgctl := limitDebug st s.ctx.dbgctl }
    ctxs := s.ctxs.map (fun c => { c with dbgctl := limitDebug st c.dbgctl })
    dev := { s.dev with tenants := tenants } }

/-- What a debug token signs (R374): the state, the nonce, the tenants, this device's identity. -/
def tokenBytes (target : Nat) (nonce : W64) (tenants : List Nat) : List Byte :=
  toBytes 1 target ++ word64 nonce ++ tenants.flatMap (toBytes 2) ++ identity.flatMap word64

/-- Whether R372 asks for a token. -/
def needsToken (sec target : Nat) : Bool := (sec == 1 && target == 2) || (sec == 2 && decide (1 ≤ target))

/-- Whether an unlock is turned down: an old nonce, or where a token is asked for a bad signature or a missing tenant. -/
def unlockDenied (s : State) (target : Nat) (nonce : W64) (tenants : List Nat) (sig : List Byte) : Bool :=
  s.dev.nonce != some nonce
  || (needsToken s.dev.sec target && ((target == 2 && tenants.isEmpty)
    || !Config.verifies s.dev.ownerKey (tokenBytes target nonce tenants) sig))

/-- DEBUG_UNLOCK. The debug state is lowered without a token, its nonce with it (notes/assumptions/117.md, DEDUCED). -/
def debugUnlock (tag target : Nat) (nonce : W64) (tenants : List Nat) (sig : List Byte) (s : State) : State :=
  command 0x43 tag s fun s =>
    if 2 < target then invalid 0x43 tag s
    else if target < s.dbgs ∨ target = 0 then okay 0x43 tag (setDebug target [] s)
    else if unlockDenied s target nonce tenants sig then reply 0x43 tag 4 [] s
    else okay 0x43 tag (setDebug target tenants s)

def execDebugUnlock (tag target : Nat) (nonce : W64) (tenants : List Nat) (sig : List Byte) (s : State) : Out :=
  .next (debugUnlock tag target nonce tenants sig s)

/-- Whether an Invasive session may read and change a context (R372). -/
def sessionCovers (s : State) (c : Ctx) : Bool := sessionNames s c.tenant

/-- Whether a warp stands stopped in a context. -/
def stoppedIn (s : State) (asid : Nat) (w : Warp) : Bool :=
  !w.dawn && s.allTeams.any (fun t => t.uid == w.team && t.asid == asid) && (w.cur :: w.others).any (·.stopped)

/-- A dword of a stopped warp's record, a dword of a context's memory, the debug log: what a debugger reads (16 R355; R372). -/
def sessionRecord (s : State) (c : Ctx) (w : Warp) (off : Nat) : Option W64 :=
  let held := (warpRecordParts s c w).findSome? (fun p => if p.1 ≤ off ∧ off + 8 ≤ p.1 + p.2.length then
      some (w64 (ofBytes ((p.2.drop (off - p.1)).take 8))) else none)
  if !sessionCovers s c || !stoppedIn s c.asid w then none
  else if imageStands s w then
    ((ctxPA s c (warpRecord (spillOf s w) w.slot + off)).map (fun pa => w64 (memNat s.mem pa 8))).orElse (fun _ => held)
  else held
def sessionMemory (s : State) (c : Ctx) (va : Nat) : Option W64 :=
  if sessionCovers s c then (ctxPA s c va).map (fun pa => w64 (memNat s.mem pa 8)) else none
def sessionLog (s : State) : List (Nat × TrapRegs) := if s.dbgs = 0 then [] else s.dbgLog

/-- Record n of a context's watch log, in Observe or above: TADDR, INFO, the time of the write, the index (R372; 16 R352, R354). -/
def sessionWatchLog (s : State) (c : Ctx) (n : Nat) : Option (List W64) :=
  if s.dbgs = 0 then none
  else (ctxPA s c (watchRecordVA c n)).map (fun pa => (List.range 4).map (fun i => w64 (memNat s.mem (pa + 8 * i) 8)))

/-- A change of a warp's record: in the warp, and in memory where the dword lives there; a warp whose HWAIT latch changes its
cohort leaves the old one. -/
def editRecord (c : Ctx) (w : Warp) (off : Nat) (x : W64) (s : State) : State :=
  let v := w.editDword off x
  let s1 := match recordHome s w off with
    | some va => (ownWrite c va (word64 x) {} s).1
    | none => s
  let s2 := s1.modWarp w.uid (fun w => w.editDword off x)
  match w.latch with
  | some l => if (v.latch.map (·.cohort)) = some l.cohort then s2 else s2.modTeam w.team (leaveCohort l.cohort w.uid)
  | none => s2

/-- A change that a session makes. -/
def applyEdit (c : Ctx) (s : State) (e : Edit) : State :=
  match e with
  | .record u off x => match s.findWarp u with
    | some w => if stoppedIn s c.asid w ∧ off % 8 = 0 then editRecord c w off x s else s
    | none => s
  | .memory va x => (ownWrite c va (word64 x) {} s).1

/-- The stopped splits of a warp go on. -/
def Warp.released (w : Warp) : Warp :=
  let go := fun (p : Split) => if p.stopped then { p with stopped := false, fresh := [], since := none } else p
  { w with cur := go w.cur, others := w.others.map go }

/-- DEBUGGER_RESUME: the stopped warps of a context go on, with the changes the session made (16 R355, R360). -/
def debuggerResume (asid : Nat) (edits : List Edit) (s : State) : State :=
  match s.findCtx asid with
  | none => s
  | some c =>
    if !sessionCovers s c then s
    else
      let s1 := edits.foldl (applyEdit c) s
      s1.mapWarps (fun w => if stoppedIn s1 asid w then w.released else w)

def execDebuggerResume (asid : Nat) (edits : List Edit) (s : State) : Out := .next (debuggerResume asid edits s)

/-- An asynchronous WATCH event waits for a split without an active handler in its warp (16 R354). -/
def watchDue (s : State) : Bool := !s.w.watchEvents.isEmpty && !(s.w.cur :: s.w.others).any Split.handler

/-- The oldest event is delivered to the issuing split, which stands at an instruction boundary. -/
def deliverWatch (s : State) : State :=
  match s.w.watchEvents with
  | c :: cs => deliver c s.w.cur.pc true { s with w := { s.w with watchEvents := cs }, ix := { addr := s.w.cur.pc } }
  | [] => s

/-- WATCH_EVENT_DELIVERY: to the lowest-numbered split of the warp that may issue. -/
def execWatchEventDelivery (core slot : Nat) (s : State) : Out :=
  .next (match (List.range 4).findSome? (fun p => focus core slot p s) with
    | some t => if watchDue t then deliverWatch t else s
    | none => s)

/-! ## Power and heat (R373, R376, R378; 09 R212) -/

/-- Park: every core context is switched out; an Invasive session ends (R373). -/
def park (s : State) : State :=
  let s1 := (List.range Config.cores).foldl (fun s c => switchRequest c s) { s with dev := { s.dev with pwr := 3 } }
  if s1.dbgs = 2 then setDebug 0 [] s1 else s1

/-- Off: contexts are lost, only fused keys survive, the debug state becomes Off. -/
def powerOff (s : State) : State :=
  { State.reset with
    time := s.time, tick := s.tick, nextId := s.nextId, agenda := s.agenda
    dev := { ({} : Device) with
      boot := s.dev.boot, sec := s.dev.sec, ownerKey := s.dev.ownerKey, pwr := 4, trip := s.dev.trip, hostMem := s.dev.hostMem, chipId := s.dev.chipId
      admBase := s.dev.admBase, admTail := s.dev.admTail, admHead := s.dev.admHead } }

/-- Run: the doorbells held since Park are applied, in the order they came. -/
def wake (s : State) : State :=
  s.dev.held.foldl (fun s d => doorbell d.1 d.2.1 d.2.2 s) { s with dev := { s.dev with pwr := 0, held := [] } }

/-- POWER_SET. -/
def powerSet (tag st cap heat : Nat) (s : State) : State :=
  command 0x42 tag s fun s =>
    if 4 < st ∨ 2100 < cap then invalid 0x42 tag s
    else
      let s1 := okay 0x42 tag { s with dev := { s.dev with cap := cap, heatCap := heat } }
      if st = 4 then powerOff s1
      else if st = 3 then (if s.dev.pwr = 3 then s1 else park s1)
      else if st = 0 then wake s1
      else { s1 with dev := { s1.dev with pwr := st } }

def execPowerSet (tag st cap heatCap : Nat) (s : State) : Out := .next (powerSet tag st cap heatCap s)

def setLevel (die n : Nat) (s : State) : State :=
  { s with dev := if die = 0 then { s.dev with level0 := n } else { s.dev with level1 := n } }

/-- Power above the cap (in W; the reading in mW), a junction above 105 °C (in 1/64 °C). -/
def overPower (s : State) (r : Reading) : Bool := decide (1000 * s.dev.cap < r.power)
def overHeat (r : Reading) : Bool := decide (64 * 105 < r.junction)

/-- What the limiter of a die knows with one more reading. -/
def measured (s : State) (r : Reading) : Limit :=
  let x := tabGet {} r.die s.dev.limits
  { above := if overPower s r then some (x.above.getD s.time) else none
    below := if overPower s r || overHeat r then none else some (x.below.getD s.time)
    hot := overHeat r }

/-- A condition has held for a time. -/
def heldFor (since : Option Nat) (n now : Nat) : Bool := since.any (fun t => decide (t + n ≤ now))

/-- A reading is noted, and the level of its die with it; a die below 100 °C has cooled from its trip. -/
def noteReading (r : Reading) (x : Limit) (level : Nat) (s : State) : State :=
  let s1 := setLevel r.die level s
  { s1 with dev := { s1.dev with
      limits := tabSet {} r.die x s.dev.limits
      tripTime := if r.die = s.dev.tripDie ∧ r.junction < 64 * 100 then none else s.dev.tripTime } }

/-- LIMITER_RAISE: the level of a die rises to 3 at most, when the power has been above the cap for 100 µs, and when a
junction passes 105 °C. -/
def execLimiterRaise (r : Reading) (s : State) : Out :=
  let x := measured s r
  let passed := overHeat r && !(tabGet {} r.die s.dev.limits).hot
  let level := dieLevel s r.die
  .next (if heldFor x.above 100000 s.time then noteReading r { x with above := some s.time } (min 3 (level + 1)) s
    else noteReading r x (if passed then min 3 (level + 1) else level) s)

/-- LIMITER_LOWER: the level falls after each 1 ms below both. -/
def execLimiterLower (r : Reading) (s : State) : Out :=
  let x := measured s r
  .next (if heldFor x.below 1000000 s.time then noteReading r { x with below := some s.time } (dieLevel s r.die - 1) s
    else noteReading r x (dieLevel s r.die) s)

/-- THERMAL_TRIP: TRIP is set and Ablas parks the device. -/
def thermalTrip (die : Nat) (s : State) : State :=
  let s1 := if s.dev.pwr < 3 then park s else s
  { s1 with dev := { s1.dev with
      trip := true, tripTime := if s.dev.pwr = 4 then s.dev.tripTime else some s.time, tripDie := die } }

def execThermalTrip (die : Nat) (s : State) : Out := .next (thermalTrip die s)

/-- TRIP_OFF_TIMEOUT: the die has not cooled within 10 s. -/
def execTripOffTimeout (s : State) : Out :=
  .next (match s.dev.tripTime with
    | some t => if t + 10000000000 ≤ s.time ∧ s.dev.pwr ≠ 4 then powerOff s else s
    | none => s)

/-- SUPPLY_TRIM: changes power only, never timing or results (R376). -/
def execSupplyTrim (_cluster : Nat) (s : State) : Out := .next s

/-- The cores of a partition on which a context has resident teams. -/
def coresOf (s : State) (c : Ctx) : List Nat := ((s.allTeams.filter (fun t => t.asid == c.asid && !t.retired && t.saved == none)).map (·.core)).eraseDups

/-- BUDGET_DIVISION, every 100 µs: 64 units per µs for each core, in proportion to the cores the contexts occupy. -/
def budgetDivision (part : Nat) (s : State) : State :=
  match s.partOf part with
  | none => s
  | some p =>
    let cs := s.liveCtxs.filter (fun c => c.part == part)
    let all := cs.foldl (fun n c => n + (coresOf s c).length) 0
    if all = 0 ∨ s.time < p.divided + 100000 then s
    else cs.foldl (fun s c => s.modCtx c.asid (fun c => { c with
        ebudRate := 64 * (partCores p).length * (coresOf s c).length / all }))
      { s with parts := s.parts.map (fun q => if q.range.quarter = part then { q with divided := s.time } else q) }

def execBudgetDivision (part : Nat) (s : State) : Out := .next (budgetDivision part s)

/-- A number of whole µs of TIME refill LEVEL: by 4 × RATE each, to 400 × RATE (notes/assumptions/108.md). -/
def refilled (r n : Nat) (c : Ctx) : Ctx :=
  { c with ebudLevel := max c.ebudLevel (min (c.ebudLevel + 4 * r * n) (400 * r)), ebudTime := c.ebudTime + n }

/-- The whole µs of TIME whose refill a context has not had. -/
def refillsDue (s : State) (c : Ctx) : Nat := s.time / 1000 - c.ebudTime

/-- EBUD_REFILL: one µs, where one is due. -/
def ebudRefill (asid : Nat) (s : State) : State :=
  match s.findCtx asid with
  | none => s
  | some c => if refillsDue s c = 0 then s else s.modCtx asid (refilled (effRate s c) 1)

def execEbudRefill (asid : Nat) (s : State) : Out := .next (ebudRefill asid s)

/-- Every refill that is due. -/
def refillAll (s : State) : State :=
  let f := fun (c : Ctx) => if c.live then refilled (effRate s c) (refillsDue s c) c else c
  { s with ctx := f s.ctx, ctxs := s.ctxs.map f }

/-! ## DEDUP_SCAN and SCRUB (03 R49, R50; R368) -/

/-- The bytes of a frame. -/
def frameBytes (s : State) (f : Nat) : List Byte := (List.range (2 ^ 18)).map (fun i => memRead s.mem (f * 2 ^ 18 + i))
/-- The cells of a frame, from its base: equal where the contents are. -/
def frameCells (s : State) (f : Nat) : List Host.Cell :=
  (s.mem.filter (fun p => p.1 / 2 ^ 18 == f)).map (fun p => (p.1 % 2 ^ 18, p.2))

/-- The frames of a partition that a leaf of size 0 maps, in ascending order. -/
def mappedFrames (s : State) (part : Nat) : List Nat :=
  (((s.liveCtxs.filter (fun c => c.part == part)).flatMap (fun c => (ctxLeaves s.mem c.root).filterMap (fun l =>
    if leafSZ l.2.2 = 0 then some (leafFrame l.2.2) else none))).eraseDups).mergeSort (· ≤ ·)

/-- A frame that DEDUP_SCAN considers: all its leaves have W = 0 and PR = 0. -/
def dedupCandidate (s : State) (f : Nat) : Bool := (leavesOf s f).all (fun l => !leafWrite l.2.2.2 && !leafPR l.2.2.2 && !leafM l.2.2.2)

def frameSC (s : State) (f : Nat) : Nat := (((leavesOf s f).head?).map (fun l => leafSC l.2.2.2)).getD 0

/-- The tier of a frame (03 R31). -/
def frameTier (f : Nat) : Nat := if f < 2 ^ 22 then 0 else 1

/-- Merge victim v into survivor x, of one tier (03 R33): v's leaves name x's frame, the counts add, and v is freed with the
shoot-downs of its pages. -/
def mergeFrames (v x : Nat) (s : State) : State :=
  let n := frameSC s v + frameSC s x
  let s1 := mapLeaves v (fun l => leafSetSC (leafSetFrame l x (frameTier x)) n) s
  doomFrame v (mapLeaves x (fun l => leafSetSC l n) s1)

/-- What a scan has done so far: frames kept, merges, collisions, the pages to shoot down. -/
structure Scan where
  kept   : List Nat := []
  merged : Nat := 0
  clash  : Nat := 0
  moved  : List (Nat × Nat) := []
  deriving DecidableEq, Repr

/-- One candidate against the frames kept: merged into the first equal one whose count allows it. -/
def scanFrame (v : Nat) (acc : Scan × State) : Scan × State :=
  let s := acc.2
  let same := acc.1.kept.filter (fun x => frameTier x == frameTier v && shake256 (frameBytes s x) == shake256 (frameBytes s v))
  let equal := same.filter (fun x => frameCells s x == frameCells s v)
  let clash := same.length - equal.length
  match equal.find? (fun x => decide (frameSC s x + frameSC s v ≤ 254)) with
  | some x => ({ acc.1 with merged := acc.1.merged + 1, clash := acc.1.clash + clash
                            moved := acc.1.moved ++ (leavesOf s v).map (fun l => (l.1, l.2.1)) }, mergeFrames v x s)
  | none => ({ acc.1 with kept := acc.1.kept ++ [v], clash := acc.1.clash + clash }, s)

/-- DEDUP_SCAN: it waits for the shoot-downs under way, those of a fork among them (03 R46, R50). -/
def dedupScan (tag part : Nat) (s : State) : State :=
  command 0x50 tag s fun s =>
    if (s.partOf part).isNone then invalid 0x50 tag s
    else if s.shoots.any (fun k => !k.done) then s
    else
      let r := ((mappedFrames s part).filter (dedupCandidate s)).foldl (fun acc v => scanFrame v acc) (({} : Scan), s)
      let res := [w64 r.1.merged, w64 r.1.clash]
      if r.1.moved.isEmpty then reply 0x50 tag 0 res r.2
      else
        let ids := (List.range r.1.moved.length).map (· + r.2.nextId)
        let s1 := r.1.moved.foldl (fun s x => startShoot (some x.1) (some x.2) none s) r.2
        { s1 with dev := { s1.dev with doomed := [], busy := some { resp := { opc := 0x50, tag := tag, res := res }, shoots := ids } } }

def execDedupScan (tag part : Nat) (s : State) : Out := .next (dedupScan tag part s)

/-- The frames that the leaves of large pages cover. -/
def largeFrames (s : State) : List Nat :=
  s.liveCtxs.flatMap (fun c => (ctxLeaves s.mem c.root).filterMap (fun l =>
    if leafSZ l.2.2 = 0 then none else some (leafFrame l.2.2 + l.1 / 2 ^ 18 % framesOf (leafSZ l.2.2))))

def inPart (r : PartRange) (f : Nat) : Bool :=
  (decide (tierBase r 0 ≤ f) && decide (f < tierBase r 0 + tierFrames r 0))
  || (decide (tierBase r 1 ≤ f) && decide (f < tierBase r 1 + tierFrames r 1))

/-- SCRUB: share counts are the true ones, capped at 255; a frame without leaves is freed; poison is reported. -/
def scrub (tag part : Nat) (s : State) : State :=
  command 0x51 tag s fun s => match s.partOf part with
    | none => invalid 0x51 tag s
    | some p =>
      let s1 := (mappedFrames s part).foldl (fun s f => mapLeaves f (fun l => leafSetSC l (min 255 (leavesOf s f).length)) s) s
      let lost := s1.dev.used.filter (fun f => inPart p.range f && (leavesOf s1 f).isEmpty && !(keptFrames s1).contains f
        && !(largeFrames s1).contains f && !s1.shoots.any (fun k => k.frees.contains f))
      let s2 := lost.foldl (fun s f => releaseFrame f s) s1
      reply 0x51 tag 0 [w64 ((s2.mp.filter (fun g => inPart p.range (g / 2 ^ 12))).length)] s2

def execScrub (tag part : Nat) (s : State) : Out := .next (scrub tag part s)

end Sys2Proof.Machine
end

