-- ==== Sys2Proof/Machine/Agenda.lean ====
section
/-! DEFINITION. The model's own order of turns when nothing prescribes one (State.agenda is empty): splits and the steps
of the other agents take turns. The spec fixes no such order (15; 95); a state's agenda may hold any. -/

namespace Sys2Proof.Machine

open Sys2Proof

/-! ## Steps that may have something to do -/

/-- The memory system's. -/
noncomputable def memorySteps (s : State) : List Instr :=
  s.writes.map (fun x => if x.applied.isSome then .writeAck x.id
    else if x.rank.isSome then .remoteAccess x.id else .writeAppliedAtHome x.id)
  ++ s.walkQ.map (fun k => if k.res.isSome then .pageWalkDone k.die k.id else .pageWalk k.die)
  ++ (s.shoots.filter (fun k => !k.done)).map (fun k => .shootDownComplete k.id)
  ++ s.allWarps.flatMap (fun w => w.ops.flatMap (fun o => if o.done then [] else match o.kind with
      | .load _ _ _ _ _ ps => if ps.any remotePart then [.remoteAccess o.id] else [.loadDataReturn o.id 0xFFFFFFFF]
      | .atomic _ _ => [.loadDataReturn o.id 0xFFFFFFFF]
      | _ => []))
  ++ s.allWarps.flatMap (fun w => ((w.cur :: w.others).filter (fun p => p.active != 0 && p.xlat == 1)).map (fun p =>
      .remoteTranslationDone w.core w.slot p.num))
  ++ s.allWarps.flatMap (fun w => ((w.cur :: w.others).filter (fun p => p.active != 0 && p.deadline.isSome)).map (fun p =>
      .mwaitTimeout w.core w.slot p.num))

/-- The step of a copy engine for an opcode (05 R83). -/
noncomputable def engineInstr (asid n seq opc : Nat) : Instr :=
  match opc with
  | 0x02 => .expand asid n seq
  | 0x03 => .quantise asid n seq
  | 0x04 => .decompress asid n seq
  | 0x05 => .tierMigration asid n seq
  | 0x06 => .fill asid n seq
  | 0x07 => .gather asid n seq
  | 0x08 => .scatter asid n seq
  | 0x10 => .operatorRun asid n seq
  | 0x20 => .launch asid n seq
  | _ => .copy asid n seq

/-- The copy engines': the first record of each chain that can move. -/
noncomputable def engineSteps (s : State) : List Instr :=
  s.liveCtxs.flatMap (fun c => c.chains.flatMap (fun p =>
    (match p.2.recs.find? (fun r => r.phase == .queued) with
      | some r => [engineInstr c.asid p.1 r.seq (((readRec s c p.2 r).headD 0).toNat % 256)]
      | none => [])
    ++ (p.2.recs.filter (fun r => r.phase == .paying || r.phase == .waiting)).map (fun r =>
      engineInstr c.asid p.1 r.seq ((r.dws.headD 0).toNat % 256))
    ++ (p.2.recs.filter (fun r => r.phase == .done && r.instr && r.warp.isSome)).map (fun r => .operationRetire r.op)
    ++ (if p.2.recs.any (fun r => r.phase == .done) then [.recordCompletion c.asid p.1] else [])))
  ++ s.ablas.map (fun r => .tierMigration r.asid (ablasChain r.die) r.seq)

/-- The direct fills of a core context's walks. -/
noncomputable def fillSteps (c : Core) : List Instr :=
  c.walks.flatMap (fun w => (List.range w.units.length).flatMap (fun u => [0, 1].map (fun o =>
    .directFillComplete c.num w.slot u o (48 * (c.num / Config.coresPerDie)))))

/-- The Orrery's, on one core. -/
noncomputable def orrerySteps (s : State) (c : Core) : List Instr :=
  (if (s.orr c.num).testing then [.selfTestResult c.num 0] else if testDue s c.num then [.selfTest c.num] else [])
  ++ c.walks.flatMap (fun w =>
    .walkStart c.num w.slot :: .walkCompletion c.num w.slot :: (List.range w.units.length).flatMap (fun u =>
      [.stepStart c.num w.slot u, .stepComplete c.num w.slot u 0, .deliveryConversionDone c.num w.slot u]))
  ++ fillSteps c
  ++ (match c.outq with
    | [] => []
    | o :: _ => [if o.done then .operationRetire o.op else .outputUnitOperation c.num])

/-- The scheduler's. -/
noncomputable def schedulerSteps (s : State) : List Instr :=
  (s.queues.filter (fun q => !q.packets.isEmpty)).map (fun q => .launchPacketAccept q.part ⟨q.num, none⟩)
  ++ (s.launches.filter (fun l => l.xmode == 2 && l.start.isSome && !l.released)).map (fun l => .replicatedStart l.id)
  ++ (s.launches.filter (fun l => !l.fullyPlaced && !l.complete)).map (fun l => .teamPlacement l.id)
  ++ (s.allTeams.filter (fun t => !t.retired || s.launches.any (fun l => l.id == t.launch && !l.complete))).map (fun t => .teamRetire t.uid)
  ++ (s.orrs.filter (fun o => o.switch != 0)).map (fun o => if o.switch = 1 then .bankExchange o.core else .bankExchangeDone o.core)
  ++ s.saves.flatMap (fun x => if x.res then
      (match (resumeCores s x.id).head? with
        | some c => [.contextResume x.id c]
        | none => [])
    else [.spillComplete x.id])
  ++ s.parts.flatMap (fun p => [.preemptionDelayExpiry p.range.quarter, .balancerInterval p.range.quarter])

/-- Those of cohorts, attention units and collectives. -/
noncomputable def otherSteps (s : State) : List Instr :=
  s.allTeams.flatMap (fun t => (t.cohorts.map (·.1)).map (fun c => .upcallDelivery t.core t.uid c))
  ++ s.attns.flatMap (fun a => .attnMerge a.id (48 * a.die) :: .attnCompletion a.id ::
      ((List.range a.groups.length).zip a.groups).map (fun g =>
        if g.2.absent then .attnAbsentPageRead a.id g.1 (g.2.unit % 128) else .attnPageGroupDone a.id g.1 (g.2.unit % 128)))
  ++ s.colls.flatMap (fun c => if c.started then .collectiveCompletion c.id :: c.pos.flatMap (fun p =>
      (List.range 13).map (fun h => .collectiveTreeNode c.id p (2 ^ (h + 1)))) else [.collectiveStart c.id])
  ++ s.liveCtxs.map (fun c => .ebudRefill c.asid)

noncomputable def pendingSteps (s : State) : List Instr :=
  memorySteps s ++ engineSteps s ++ (s.core :: s.cores).flatMap (orrerySteps s)
  ++ s.saves.flatMap (fun x => fillSteps x.core) ++ schedulerSteps s ++ otherSteps s

/-! ## Power (17 R373) -/

/-- The steps that need none of the gated clocks: the host's, Ablas's and the thermal ones. -/
noncomputable def hostStep : Instr → Bool
  | .registerWrite _ _ | .hostDoorbell _ _ _ | .ident _ | .status _ | .bootContinue _ _ _ _ _ | .partCreate _ _
  | .partMerge _ _ _ _ | .partMergeDrained | .partMergeTimeout | .partSplit _ _ | .ctxCreate _ _ | .ctxDestroy _ _
  | .map _ _ _ _ | .unmap _ _ _ | .queueBind _ _ | .resetCore _ _ _ | .resetOrrery _ _ _ | .attest _ _ _ _ | .telem _ _
  | .powerSet _ _ _ _ | .debugUnlock _ _ _ _ _ | .dedupScan _ _ | .scrub _ _ | .shootDownComplete _ | .reset
  | .bootCheckDone _ | .limiterRaise _ | .limiterLower _ | .thermalTrip _ | .tripOffTimeout | .supplyTrim _
  | .budgetDivision _ | .uncorrectableError _ | .correctedError _ | .linkFailure _ _ | .engineReset _
  | .attentionUnitReset _ | .debuggerResume _ _ => true
  | _ => false

/-- In Idle the clocks are gated and in Off nothing runs; in Park the core contexts are still written out. -/
noncomputable def powered (s : State) (e : Instr) : Bool := s.dev.pwr != 2 && s.dev.pwr != 4 || hostStep e

/-- A core whose lanes issue: powered, and not being switched (16 R358). -/
def coreRuns (s : State) (core : Nat) : Bool := decide (s.dev.pwr ≤ 1) && (s.orr core).switch == 0

/-! ## The vector file (07 R143, R144) -/

/-- The entries a warp occupies: its live registers, those that a load is to write, and one more for each register of an
outstanding load that a later write has overtaken in some thread. -/
def Warp.entries (w : Warp) : Nat :=
  let os := w.ops.filter (fun o => !o.done)
  (w.bound ++ ((os.flatMap (·.dests)).filter (fun p => p.2 != 0)).map (·.1)).eraseDups.length
    + (os.flatMap (fun o => o.dests.filter (fun p => p.2 != o.mask))).length

/-- The warps whose registers stand in a core's vector file. -/
def fileWarps (s : State) (core : Nat) : List Warp := s.allWarps.filter (fun w => w.core == core && w.saved == none && w.slotHeld)

/-- The context of a warp. -/
def warpCtx (s : State) (w : Warp) : Ctx := (s.findCtx (((s.findTeam w.team).map (·.asid)).getD 0)).getD {}

/-- A warp whose registers a spill can move: one is live that no load is to write, and its record is mapped. -/
def canSpill (s : State) (w : Warp) : Bool :=
  w.uid != s.w.uid && w.bound.any (fun r => !w.awaits r)
  && s.core.spill != 0 && (ctxPA s (warpCtx s w) (warpRecord s.core.spill w.slot)).isSome

/-- The longest-idle warp of a core that a spill can move. -/
def longestIdle (s : State) : Option Warp :=
  ((fileWarps s s.w.core).filter (canSpill s)).foldl
    (fun (b : Option Warp) w => match b with
      | some x => if w.lastIssue < x.lastIssue then some w else b
      | none => some w) none

/-- A warp's live registers go to its record in the save area. A register that a load is to write keeps its entry. -/
def spillWarp (v : Warp) (s : State) : State :=
  let rs := v.bound.filter (fun r => !v.awaits r)
  ((homeWrite (rs.flatMap (recordPieces s (warpCtx s v) s.core.spill v)) {} s).1).modWarp v.uid (fun w => { w with
    bound := w.bound.filter w.awaits, spilled := rs ++ w.spilled.filter (fun r => !rs.contains r) })

/-- A write that found no free entry spills longest-idle warps until there is one; n warps at most. Where none can be spilled
the values stay where they are (log 129, DESIGN CHOICE). -/
def spillWarps : Nat → State → State
  | 0, s => s
  | n + 1, s =>
    if ((fileWarps s s.w.core).foldl (fun n w => n + w.entries) 0) ≤ Config.fileEntries then s
    else match longestIdle s with
      | none => s
      | some v => spillWarps n (spillWarp v s)

def spillForFile (s : State) : State := spillWarps Config.slots s

/-! ## The reconvergence stack in memory (14 R309) -/

/-- The entries of the warp's stack beyond the newest 32 stand in its record in the save area, oldest first; no one else
writes them there. -/
def spillStack (s : State) : State :=
  ((List.range (s.w.stack.length - 32)).zip s.w.stack.reverse).foldl (fun s x =>
    let a := warpRecord s.core.spill s.w.slot + 0x4800 + 32 * x.1
    let stands := (ctxPA s s.ctx a).map (fun pa => memBytes s.mem pa 32) == some (entryRecord x.2)
    if s.core.spill = 0 ∨ stands then s else (ownWrite s.ctx a (entryRecord x.2) {} s).1) s

/-! ## The splits of a lane (07 R153; 14 R306) -/

/-- The splits of a lane's warps that may issue: the warp's slot, the split of its last turn, the split. -/
def laneSplits (s : State) (core lane : Nat) : List (Nat × Nat × Split) :=
  ((s.w :: s.ws).filter (fun w => w.resident && w.core == core && w.lane == lane)).flatMap (fun w =>
    ((w.cur :: w.others).filter Split.able).map (fun p => (w.slot, w.lastSplit, p)))

/-- How far a split stands behind its warp's last turn, in order of split number. -/
def rotation (x : Nat × Nat × Split) : Nat := (x.2.2.num + 7 - x.2.1) % 8

/-- Those of a lane's splits that its next opportunity may go to: not those found parked since the lane last issued; a
split that yielded only where no other is ready. -/
def laneReady (l : List (Nat × Nat × Split)) : List (Nat × Nat × Split) :=
  let fresh := l.filter (fun x => !x.2.2.tried)
  let ready := fresh.filter (fun x => !x.2.2.yielded)
  if !ready.isEmpty then ready else if !fresh.isEmpty then fresh else l

/-- The split that a lane's next opportunity goes to: of the warp that did not issue last, else of the same warp, and
within a warp in turn. -/
def laneChoice (s : State) (core lane : Nat) : Option (Nat × Nat) :=
  let l := laneReady (laneSplits s core lane)
  let last := ((s.getCore core).turns.lookup lane).getD Config.slots
  let other := l.filter (fun x => x.1 != last)
  let of_ := if other.isEmpty then l else other
  match of_ with
  | [] => none
  | x :: t =>
    let y := (t.filter (fun z => z.1 == x.1)).foldl (fun b z => if rotation z < rotation b then z else b) x
    some (y.1, y.2.2.num)

/-- Turn.issue names a lane by one of its splits: the split that the lane's opportunity goes to, in its place. -/
def chosen (core slot split : Nat) (s : State) : Option State :=
  match focus core slot split s with
  | none => none
  | some f => match laneChoice s core f.w.lane with
    | none => none
    | some c => focus core c.1 c.2 s

/-- Change every split of a lane but those of the current warp, and the other splits of the current warp. -/
def State.modLane (s : State) (f : Split → Split) : State :=
  let hit := fun (w : Warp) => w.resident && w.core == s.w.core && w.lane == s.w.lane
  { s with
    w := { s.w with others := s.w.others.map f }
    ws := s.ws.map (fun w => if hit w then { w with cur := f w.cur, others := w.others.map f } else w) }

/-- The current split is still parked: its lane does not consider it again before it has issued or all its splits have been
tried. -/
def laneTried (s : State) : State :=
  let s1 := { s with w := { s.w with lastSplit := s.w.cur.num, cur := { s.w.cur with tried := true } } }
  if (laneSplits s1 s.w.core s.w.lane).all (fun x => x.2.2.tried) then
    (s1.modLane (fun p => { p with tried := false })).modCur (fun p => { p with tried := false })
  else s1

/-- The current split has issued: the lane's other splits may be tried again, and their YIELD is over (14 R306). -/
def laneIssued (s : State) : State :=
  let s1 := { s with
    w := { s.w with lastSplit := s.w.cur.num, lastIssue := s.tick, cur := { s.w.cur with tried := false } }
    core := { s.core with turns := tabSet Config.slots s.w.lane s.w.slot s.core.turns } }
  spillStack (spillForFile (s1.modLane (fun p => { p with tried := false, yielded := false })))

/-- After a lane's turn. -/
def laneAfter (s : State) : State := if s.w.cur.since.isSome && !s.ix.retired then laneTried s else laneIssued s

/-- The class of an instruction under the lane power limiter (02 R28): its prefix's EC; 0 without a prefix
(log 98, DESIGN CHOICE). -/
def laneClass (s : State) : Nat :=
  match fetchInstr s s.w.cur.pc with
  | .word w _ => if isPfxWord w then bits w 22 21 else 0
  | _ => 0

/-- The instruction's class is below the limiter's level. -/
def lowClass (s : State) : Bool :=
  let l := dieLevel s (s.w.core / Config.coresPerDie)
  l != 0 && decide (laneClass s < l)

/-- The lane gave its last opportunity to an instruction of a class below the limiter's level, and this one is one too:
it passes (17 R378). -/
def laneHeld (s : State) : Bool := lowClass s && s.core.low.contains s.w.lane

/-- The lane's record of that. -/
def noteClass (s : State) : State :=
  { s with core := { s.core with
      low := if lowClass s && !laneHeld s then setIns s.w.lane s.core.low else setDel s.w.lane s.core.low } }

/-- The splits that may issue now. -/
def readySplits (s : State) : List (Nat × Nat × Nat) := (ableSplits s).filter (fun p => coreRuns s p.1)

/-- Whose turn it is when the agenda is empty: a split, in cyclic order (07 R153), and another agent by turns; without
either, nothing but time. -/
noncomputable def defaultTurn (s : State) : Turn :=
  let es := pendingSteps s
  let split := (nextPlace s.last (readySplits s)).map (fun p => Turn.issue p.1 p.2.1 p.2.2)
  let event := (es[s.tick / 2 % max es.length 1]?).map Turn.event
  let order := if s.tick % 2 = 0 then [split, event] else [event, split]
  (order.findSome? id).getD .idle

/-- A request for register blocks stands while its split is parked at the XACQ (07 R142). -/
def blockRequestLives (s : State) (r : XReq) : Bool :=
  s.allWarps.any (fun w => w.uid == r.warp && !w.ended && (w.cur :: w.others).any (fun p =>
    p.num == r.split && p.active != 0 && p.since.isSome))

/-- Requests whose warp has ended or whose split has left its XACQ by a trap stand no longer. -/
def settleBlocks (s : State) : State :=
  if (s.core :: s.cores).all (fun c => c.xq.isEmpty) then s
  else
    let f := fun (c : Core) => { c with xq := c.xq.filter (blockRequestLives s) }
    { s with core := f s.core, cores := s.cores.map f }

/-! ## Waits for a dawn queue (08 R190) -/

/-- The splits parked at a QPOP or QPEEK of an empty queue on a core whose dawn slot is not Running. -/
def deadQueueWaits (s : State) : List (Nat × Nat × Nat) :=
  ((s.w :: s.ws).filter (fun w => w.resident && !w.dawn)).flatMap (fun w =>
    let d := (s.getCore w.core).dawn
    if d.st == .running then [] else
    ((w.cur :: w.others).filter (fun p => p.able && p.since.isSome && (match p.place with
      | some x => decide (x % 8 ≤ 3) && (tabGet [] (x % 8) d.queues).isEmpty
      | none => false))).map (fun p => (w.core, w.slot, p.num)))

/-- Such a split raises the dawn fault, or STAGE 0x10, as the slot leaves Running. -/
def judgeQueueWait (s : State) (p : Nat × Nat × Nat) : State :=
  match focus p.1 p.2.1 p.2.2 s with
  | none => s
  | some f =>
    let pc := f.w.cur.pc
    let f1 := { f with ix := { addr := pc, next := pc, p := pfxAt f pc, dict := f.w.cur.dict } }
    if f.core.dawn.st = .faulted then dawnTrap f1 else stageTrap 0x10 f1

def settleDawn (s : State) : State := (deadQueueWaits s).foldl judgeQueueWait s

/-- What follows every turn: ended warps leave their cohorts (16 R348) and their failures go to the error log (05 R101),
requests for register blocks that nothing waits for go, waits for a dawn slot that stopped are judged, collectives that no longer
await an ended warp are handed over (13 R283), Orrery steps that became ready take their place in order (09 R213), Ablas answers
what it can (03 R46; 17 R367). -/
def settle (s : State) : State :=
  let s1 := settleDawn (settleBlocks (settleFails (settleEnded s)))
  let s2 := (s1.allTeams.filter (fun t => !t.arrivals.isEmpty)).foldl (fun s t => handAll t.uid s) s1
  settleAdmin (settleReady s2)

end Sys2Proof.Machine
end

