-- ==== Sys2Proof/Machine/Perform.lean ====
section
/-! DEFINITION. What an entry of the dictionary performs (02 R18): every instruction that has an encoding but PFX and
DICT. -/

namespace Sys2Proof.Machine

open Sys2Proof

/-- The meaning of a dictionary entry; PFX, DICT and the steps of other agents are none. -/
noncomputable def performEntry (i : Instr) (st : State) : Out :=
  match i with
  | .sadd d a b => execSadd d a b st
  | .ssub d a b => execSsub d a b st
  | .smul d a b => execSmul d a b st
  | .smulh d a b => execSmulh d a b st
  | .smulhn d a b => execSmulhn d a b st
  | .sdiv d a b => execSdiv d a b st
  | .sdivn d a b => execSdivn d a b st
  | .srem d a b => execSrem d a b st
  | .sremn d a b => execSremn d a b st
  | .sand d a b => execSand d a b st
  | .sor d a b => execSor d a b st
  | .sxor d a b => execSxor d a b st
  | .sandn d a b => execSandn d a b st
  | .sshl d a b => execSshl d a b st
  | .sshr d a b => execSshr d a b st
  | .ssra d a b => execSsra d a b st
  | .smin d a b => execSmin d a b st
  | .smax d a b => execSmax d a b st
  | .sminn d a b => execSminn d a b st
  | .smaxn d a b => execSmaxn d a b st
  | .scmp a b => execScmp a b st
  | .sclz d a => execSclz d a st
  | .spopc d a => execSpopc d a st
  | .smov d a => execSmov d a st
  | .saddi d a im => execSaddi d a im st
  | .sandi d a im => execSandi d a im st
  | .sori d a im => execSori d a im st
  | .sxori d a im => execSxori d a im st
  | .sshli d a im => execSshli d a im st
  | .sshri d a im => execSshri d a im st
  | .ssrai d a im => execSsrai d a im st
  | .scmpi a im => execScmpi a im st
  | .smuli d a im => execSmuli d a im st
  | .sli d im => execSli d im st
  | .slis d im => execSlis d im st
  | .mfs d n => execMfs d n st
  | .mts a n => execMts a n st
  | .sldw d a im => execSldw d a im st
  | .sldd d a im => execSldd d a im st
  | .sstw d a im => execSstw d a im st
  | .sstd d a im => execSstd d a im st
  | .sldda d a im => execSldda d a im st
  | .sstdl d a im => execSstdl d a im st
  | .bra c o => execBra c o st
  | .call o => execCall o st
  | .jmp a => execJmp a st
  | .callr a => execCallr a st
  | .ret => execRet st
  | .exit => execExit st
  | .yield => execYield st
  | .nop => execNop st
  | .rcv => execRcv st
  | .bkpt n => execBkpt n st
  | .trap n => execTrap n st
  | .eret => execEret st
  | .mon a => execMon a st
  | .mwait a => execMwait a st
  | .tcommit => execTcommit st
  | .tdiscard => execTdiscard st
  | .tlbiPage a => execTlbiPage a st
  | .tlbiAsid => execTlbiAsid st
  | .mspill => execMspill st
  | .brd k n o => execBrd k n o st
  | .vadd d a b => execVadd d a b st
  | .vsub d a b => execVsub d a b st
  | .vmul d a b => execVmul d a b st
  | .vmulh d a b => execVmulh d a b st
  | .vmulhn d a b => execVmulhn d a b st
  | .vmad d a b => execVmad d a b st
  | .vmin d a b => execVmin d a b st
  | .vmax d a b => execVmax d a b st
  | .vminn d a b => execVminn d a b st
  | .vmaxn d a b => execVmaxn d a b st
  | .vand d a b => execVand d a b st
  | .vor d a b => execVor d a b st
  | .vxor d a b => execVxor d a b st
  | .vandn d a b => execVandn d a b st
  | .vshl d a b => execVshl d a b st
  | .vshr d a b => execVshr d a b st
  | .vsra d a b => execVsra d a b st
  | .vrot d a b => execVrot d a b st
  | .vabsd d a b => execVabsd d a b st
  | .vadds d a b => execVadds d a b st
  | .vsubs d a b => execVsubs d a b st
  | .vavg d a b => execVavg d a b st
  | .vbfx d a b => execVbfx d a b st
  | .vbfi d a b => execVbfi d a b st
  | .vpack d a b => execVpack d a b st
  | .vpermb d a b => execVpermb d a b st
  | .vclz d a => execVclz d a st
  | .vpopc d a => execVpopc d a st
  | .vbrev d a => execVbrev d a st
  | .vnot d a => execVnot d a st
  | .vabs d a => execVabs d a st
  | .vneg d a => execVneg d a st
  | .vcmp c k a b => execVcmp c k a b st
  | .fadd d a b => execFadd d a b st
  | .fsub d a b => execFsub d a b st
  | .fmul d a b => execFmul d a b st
  | .ffma d a b => execFfma d a b st
  | .fmin d a b => execFmin d a b st
  | .fmax d a b => execFmax d a b st
  | .fabs d a => execFabs d a st
  | .fneg d a => execFneg d a st
  | .fscale d a b => execFscale d a b st
  | .frnd d a => execFrnd d a st
  | .fclass d a => execFclass d a st
  | .fcopys d a b => execFcopys d a b st
  | .faddBf16x2 d a b => execFaddBf16x2 d a b st
  | .fsubBf16x2 d a b => execFsubBf16x2 d a b st
  | .fmulBf16x2 d a b => execFmulBf16x2 d a b st
  | .ffmaBf16x2 d a b => execFfmaBf16x2 d a b st
  | .fminBf16x2 d a b => execFminBf16x2 d a b st
  | .fmaxBf16x2 d a b => execFmaxBf16x2 d a b st
  | .fabsBf16x2 d a => execFabsBf16x2 d a st
  | .fnegBf16x2 d a => execFnegBf16x2 d a st
  | .fscaleBf16x2 d a b => execFscaleBf16x2 d a b st
  | .frndBf16x2 d a => execFrndBf16x2 d a st
  | .fclassBf16x2 d a => execFclassBf16x2 d a st
  | .fcopysBf16x2 d a b => execFcopysBf16x2 d a b st
  | .fdot2Bf16x2 d a b => execFdot2Bf16x2 d a b st
  | .faddF16x2 d a b => execFaddF16x2 d a b st
  | .fsubF16x2 d a b => execFsubF16x2 d a b st
  | .fmulF16x2 d a b => execFmulF16x2 d a b st
  | .ffmaF16x2 d a b => execFfmaF16x2 d a b st
  | .fminF16x2 d a b => execFminF16x2 d a b st
  | .fmaxF16x2 d a b => execFmaxF16x2 d a b st
  | .fabsF16x2 d a => execFabsF16x2 d a st
  | .fnegF16x2 d a => execFnegF16x2 d a st
  | .fscaleF16x2 d a b => execFscaleF16x2 d a b st
  | .frndF16x2 d a => execFrndF16x2 d a st
  | .fclassF16x2 d a => execFclassF16x2 d a st
  | .fcopysF16x2 d a b => execFcopysF16x2 d a b st
  | .fdot2F16x2 d a b => execFdot2F16x2 d a b st
  | .fcvt t d a s p => execFcvt t d a s p st
  | .fexp2 d a y => execFexp2 d a y st
  | .flog2 d a y => execFlog2 d a y st
  | .frcp d a y => execFrcp d a y st
  | .frsq d a y => execFrsq d a y st
  | .fsqrt d a y => execFsqrt d a y st
  | .fsinpi d a y => execFsinpi d a y st
  | .fcospi d a y => execFcospi d a y st
  | .ftanh d a y => execFtanh d a y st
  | .fsigm d a y => execFsigm d a y st
  | .fgelu d a y => execFgelu d a y st
  | .ferf d a y => execFerf d a y st
  | .shfli d a b => execShfli d a b st
  | .shflu d a b => execShflu d a b st
  | .shfld d a b => execShfld d a b st
  | .shflx d a b => execShflx d a b st
  | .voteany d a => execVoteany d a st
  | .voteall d a => execVoteall d a st
  | .ballot d a b => execBallot d a b st
  | .redadd d a => execRedadd d a st
  | .redmin d a => execRedmin d a st
  | .redmax d a => execRedmax d a st
  | .redand d a => execRedand d a st
  | .redor d a => execRedor d a st
  | .redxor d a => execRedxor d a st
  | .scanadd d a => execScanadd d a st
  | .bcast d a l => execBcast d a l st
  | .matchLanes d a => execMatchLanes d a st
  | .redfadd d a => execRedfadd d a st
  | .redfmax d a => execRedfmax d a st
  | .redfmin d a => execRedfmin d a st
  | .scanfadd d a => execScanfadd d a st
  | .vlane d => execVlane d st
  | .vthr d => execVthr d st
  | .vsel d a b => execVsel d a b st
  | .vmovs d s h => execVmovs d s h st
  | .vaddScalar d a s h => execVaddScalar d a s h st
  | .vsubScalar d a s h => execVsubScalar d a s h st
  | .vmulScalar d a s h => execVmulScalar d a s h st
  | .vmulhScalar d a s h => execVmulhScalar d a s h st
  | .vmulhnScalar d a s h => execVmulhnScalar d a s h st
  | .vmadScalar d a s h => execVmadScalar d a s h st
  | .vminScalar d a s h => execVminScalar d a s h st
  | .vmaxScalar d a s h => execVmaxScalar d a s h st
  | .vminnScalar d a s h => execVminnScalar d a s h st
  | .vmaxnScalar d a s h => execVmaxnScalar d a s h st
  | .vandScalar d a s h => execVandScalar d a s h st
  | .vorScalar d a s h => execVorScalar d a s h st
  | .vxorScalar d a s h => execVxorScalar d a s h st
  | .vandnScalar d a s h => execVandnScalar d a s h st
  | .vshlScalar d a s h => execVshlScalar d a s h st
  | .vshrScalar d a s h => execVshrScalar d a s h st
  | .faddScalar d a s h => execFaddScalar d a s h st
  | .fsubScalar d a s h => execFsubScalar d a s h st
  | .fmulScalar d a s h => execFmulScalar d a s h st
  | .ffmaScalar d a s h => execFfmaScalar d a s h st
  | .fminScalar d a s h => execFminScalar d a s h st
  | .fmaxScalar d a s h => execFmaxScalar d a s h st
  | .fscaleScalar d a s h => execFscaleScalar d a s h st
  | .fcopysScalar d a s h => execFcopysScalar d a s h st
  | .vaddi d a im => execVaddi d a im st
  | .vandi d a im => execVandi d a im st
  | .vori d a im => execVori d a im st
  | .vxori d a im => execVxori d a im st
  | .vshli d a im => execVshli d a im st
  | .vshri d a im => execVshri d a im st
  | .vsrai d a im => execVsrai d a im st
  | .vmuli d a im => execVmuli d a im st
  | .vli d im => execVli d im st
  | .vlis d im => execVlis d im st
  | .bdecZ d a s => execBdecZ d a s st
  | .bdecS d a s => execBdecS d a s st
  | .lutxB32 d a s => execLutxB32 d a s st
  | .lutxB16 d a s => execLutxB16 d a s st
  | .qpop d q => execQpop d q st
  | .qpeek d q => execQpeek d q st
  | .qpush q a => execQpush q a st
  | .vkill d a => execVkill d a st
  | .vmov d a => execVmov d a st
  | .vmovCompact d a => execVmovCompact d a st
  | .vaddCompact d a => execVaddCompact d a st
  | .vsubCompact d a => execVsubCompact d a st
  | .vandCompact d a => execVandCompact d a st
  | .vorCompact d a => execVorCompact d a st
  | .vxorCompact d a => execVxorCompact d a st
  | .vshlCompact d a => execVshlCompact d a st
  | .vshrCompact d a => execVshrCompact d a st
  | .vminCompact d a => execVminCompact d a st
  | .vmaxCompact d a => execVmaxCompact d a st
  | .faddCompact d a => execFaddCompact d a st
  | .fsubCompact d a => execFsubCompact d a st
  | .fmulCompact d a => execFmulCompact d a st
  | .fminCompact d a => execFminCompact d a st
  | .fmaxCompact d a => execFmaxCompact d a st
  | .vmulCompact d a => execVmulCompact d a st
  | .nop16 => execNop16 st
  | .ldb d s a y => execLdb d s a y st
  | .ldbs d s a y => execLdbs d s a y st
  | .ldh d s a y => execLdh d s a y st
  | .ldhs d s a y => execLdhs d s a y st
  | .ldw d s a y => execLdw d s a y st
  | .ldd d s a y => execLdd d s a y st
  | .ldq d s a y => execLdq d s a y st
  | .ldwa d s a => execLdwa d s a st
  | .ldda d s a => execLdda d s a st
  | .stb d s a => execStb d s a st
  | .sth d s a => execSth d s a st
  | .stw d s a => execStw d s a st
  | .std d s a => execStd d s a st
  | .stq d s a => execStq d s a st
  | .stwl d s a => execStwl d s a st
  | .stdl d s a => execStdl d s a st
  | .ldsb d s a => execLdsb d s a st
  | .ldsbs d s a => execLdsbs d s a st
  | .ldsh d s a => execLdsh d s a st
  | .ldshs d s a => execLdshs d s a st
  | .ldsw d s a => execLdsw d s a st
  | .ldsd d s a => execLdsd d s a st
  | .ldsq d s a => execLdsq d s a st
  | .stsb d s a => execStsb d s a st
  | .stsh d s a => execStsh d s a st
  | .stsw d s a => execStsw d s a st
  | .stsd d s a => execStsd d s a st
  | .stsq d s a => execStsq d s a st
  | .aadd d s a => execAadd d s a st
  | .amin d s a => execAmin d s a st
  | .amax d s a => execAmax d s a st
  | .aminn d s a => execAminn d s a st
  | .amaxn d s a => execAmaxn d s a st
  | .aand d s a => execAand d s a st
  | .aor d s a => execAor d s a st
  | .axor d s a => execAxor d s a st
  | .axch d s a => execAxch d s a st
  | .acas d s a => execAcas d s a st
  | .afadd d s a => execAfadd d s a st
  | .afaddp d s a => execAfaddp d s a st
  | .ainc d s a => execAinc d s a st
  | .adec d s a => execAdec d s a st
  | .gadd d s a => execGadd d s a st
  | .gmin d s a => execGmin d s a st
  | .gmax d s a => execGmax d s a st
  | .gminn d s a => execGminn d s a st
  | .gmaxn d s a => execGmaxn d s a st
  | .gand d s a => execGand d s a st
  | .gor d s a => execGor d s a st
  | .gxor d s a => execGxor d s a st
  | .gfadd d s a => execGfadd d s a st
  | .gfaddp d s a => execGfaddp d s a st
  | .aaddS d s a => execAaddS d s a st
  | .aminS d s a => execAminS d s a st
  | .amaxS d s a => execAmaxS d s a st
  | .aminnS d s a => execAminnS d s a st
  | .amaxnS d s a => execAmaxnS d s a st
  | .aandS d s a => execAandS d s a st
  | .aorS d s a => execAorS d s a st
  | .axorS d s a => execAxorS d s a st
  | .axchS d s a => execAxchS d s a st
  | .acasS d s a => execAcasS d s a st
  | .afaddS d s a => execAfaddS d s a st
  | .afaddpS d s a => execAfaddpS d s a st
  | .aincS d s a => execAincS d s a st
  | .adecS d s a => execAdecS d s a st
  | .ldpw d s a => execLdpw d s a st
  | .stpw d s a => execStpw d s a st
  | .apadd d s a => execApadd d s a st
  | .ldxw d s a => execLdxw d s a st
  | .stxw d s a => execStxw d s a st
  | .nxadd d s a => execNxadd d s a st
  | .nxfadd d s a => execNxfadd d s a st
  | .ldxd d s a => execLdxd d s a st
  | .stxd d s a => execStxd d s a st
  | .fence c => execFence c st
  | .pref a im => execPref a im st
  | .invl1 a => execInvl1 a st
  | .waitc l s p t c => execWaitc l s p t c st
  | .waitr d a c => execWaitr d a c st
  | .bara d b => execBara d b st
  | .barw d a b => execBarw d a b st
  | .bart d b => execBart d b st
  | .bjoin d b => execBjoin d b st
  | .bleave d b => execBleave d b st
  | .binit d a b => execBinit d a b st
  | .xacq n => execXacq n st
  | .xtry d n => execXtry d n st
  | .xrel n => execXrel n st
  | .cpush d a c e w => execCpush d a c e w st
  | .opost d a c e w => execOpost d a c e w st
  | .cseq d c => execCseq d c st
  | .attn d a e w => execAttn d a e w st
  | .tdld d h => execTdld d h st
  | .tdst a h => execTdst a h st
  | .tdset d a b h => execTdset d a b h st
  | .tcpy d a e => execTcpy d a e st
  | .tcpyq d a b e => execTcpyq d a b e st
  | .tcpyx d a e => execTcpyx d a e st
  | .tdoff d a h => execTdoff d a h st
  | .hreg d a => execHreg d a st
  | .hregFree d a => execHregFree d a st
  | .hwait d a c => execHwait d a c st
  | .hret n => execHret n st
  | .hseal a => execHseal a st
  | .ostat d a => execOstat d a st
  | .ocancel d a => execOcancel d a st
  | .rtreg d a => execRtreg d a st
  | .rtfree d a => execRtfree d a st
  | .hstage a => execHstage a st
  | .hdrain d => execHdrain d st
  | .fold d a b h e => execFold d a b h e st
  | .scan d a b h e => execScan d a b h e st
  | .zip d a b h e => execZip d a b h e st
  | .outer d a b h e => execOuter d a b h e st
  | .epsnap d a p => execEpsnap d a p st
  | .eprest d a => execEprest d a st
  | .epcommit d a => execEpcommit d a st
  | .epmap d a => execEpmap d a st
  | .kvslot d a w => execKvslot d a w st
  | .kvtent d a => execKvtent d a st
  | .kvcommit d a => execKvcommit d a st
  | .kvroll d a => execKvroll d a st
  | .kvfork d a => execKvfork d a st
  | .kvlen d a => execKvlen d a st
  | .coll d a h e => execColl d a h e st
  | .abinit d a n => execAbinit d a n st
  | .abarr d a => execAbarr d a st
  | .abwait d a => execAbwait d a st
  | .abtest d a => execAbtest d a st
  | .absig d a => execAbsig d a st
  | .dawnld d a => execDawnld d a st
  | .dawngo d a => execDawngo d a st
  | .dawnstop d => execDawnstop d st
  | .jcdeal d => execJcdeal d st
  | _ => .next st

end Sys2Proof.Machine
end

