-- ==== Sys2Proof/Machine/Prefix.lean ====
section
/-! DEFINITION. The two instructions that perform another one: PFX (02 R24 to R28) and DICT (02 R18 to R20). -/

namespace Sys2Proof.Machine

open Sys2Proof

/-- The word of a PFX. -/
def pfxWord (k r : BitVec 3) (z : BitVec 1) (c : BitVec 7) (e : BitVec 2) (x : BitVec 1) : Nat :=
  0x7D + k.toNat * 2 ^ 7 + r.toNat * 2 ^ 10 + z.toNat * 2 ^ 13 + c.toNat * 2 ^ 14 + e.toNat * 2 ^ 21 + x.toNat * 2 ^ 23

/-- A PFX and its successor, judged in the order of R25. -/
noncomputable def prefixed (p : Nat) (s : State) : State :=
  let own := { s with ix := { s.ix with p := true, word := w32 p } }
  match fetchInstr own (s.ix.addr + 4) with
  | .trap c => takeTrap c own
  | .walk va => awaitWalks [va] own
  | .word w _ =>
    let at_ := { own with ix := { own.ix with word := w32 w } }
    if 6 ≤ pfxRM p then illegal 3 own
    else if !succOk w then illegal 5 at_
    else if !pfxFieldsOk p w then illegal 6 own
    else match decodeWord w with
      | .ok i =>
        let pf : Pfx := { k := pfxK p, rm := pfxRM p, z := pfxZ p == 1, vc := pfxVC p, sat := pfxSAT p == 1 }
        laneState i { at_ with ix := { at_.ix with pfx := some pf, next := s.ix.addr + 8 } }
      | .error (.illegal why) => illegal why at_
      | .error .short => illegal 0 at_

noncomputable def execPfx (k r : BitVec 3) (z : BitVec 1) (c : BitVec 7) (e : BitVec 2) (x : BitVec 1) (s : State) : Out :=
  .next (prefixed (pfxWord k r z c e x) s)

/-- An entry that DICT refuses (R18): not a 32-bit word, a PFX, a branch. -/
def entryRefused (w : Nat) : Bool :=
  w % 2 == 0 || majorOf w == 0x3E || majorOf w == 0x08 || majorOf w == 0x09 || majorOf w == 0x0B
  || (majorOf w == 0x0A && [0, 1, 2, 9].contains (fnOf w))

/-- DICT. -/
noncomputable def dict (i : BitVec 10) (s : State) : Out :=
  if s.w.dawn then .next (illegal 10 s)
  else
    let s1 := { s with ix := { s.ix with dict := some i.toNat } }
    if s.team.dictn ≤ i.toNat then .next (illegal 7 s1)
    else match fetchEntry s1 (s.team.dict + w64 (4 * i.toNat)) with
      | .trap c => .next (takeTrap c s1)
      | .walk va => .next (awaitWalks [va] s1)
      | .word w _ =>
        let at_ := { s1 with ix := { s1.ix with word := w32 w, next := s.ix.addr + 2 } }
        if entryRefused w then .next (illegal 8 at_)
        else match decodeWord w with
          | .ok e => performEntry e at_
          | .error (.illegal why) => .next (illegal why at_)
          | .error .short => .next (illegal 0 at_)

noncomputable def execDict (i : BitVec 10) (s : State) : Out := dict i s

end Sys2Proof.Machine
end

