-- ==== Sys2Proof/Machine/Dispatch.lean ====
section
/-! DEFINITION. The dispatcher: one arm per instruction, one direct call of its meaning. The section is noncomputable
because Lean's compiled code cannot build the later constructors of an inductive with more than 244 of them, and DICT and
the routines build instructions; the kernel evaluates exec all the same. -/

namespace Sys2Proof.Machine

open Sys2Proof noncomputable section

def exec (i : Instr) (st : State) : Host.Outcome State Fault Refusal :=
  match i with
  | .sadd d a b => Sys2Proof.Machine.execSadd d a b st
  | .ssub d a b => Sys2Proof.Machine.execSsub d a b st
  | .smul d a b => Sys2Proof.Machine.execSmul d a b st
  | .smulh d a b => Sys2Proof.Machine.execSmulh d a b st
  | .smulhn d a b => Sys2Proof.Machine.execSmulhn d a b st
  | .sdiv d a b => Sys2Proof.Machine.execSdiv d a b st
  | .sdivn d a b => Sys2Proof.Machine.execSdivn d a b st
  | .srem d a b => Sys2Proof.Machine.execSrem d a b st
  | .sremn d a b => Sys2Proof.Machine.execSremn d a b st
  | .sand d a b => Sys2Proof.Machine.execSand d a b st
  | .sor d a b => Sys2Proof.Machine.execSor d a b st
  | .sxor d a b => Sys2Proof.Machine.execSxor d a b st
  | .sandn d a b => Sys2Proof.Machine.execSandn d a b st
  | .sshl d a b => Sys2Proof.Machine.execSshl d a b st
  | .sshr d a b => Sys2Proof.Machine.execSshr d a b st
  | .ssra d a b => Sys2Proof.Machine.execSsra d a b st
  | .smin d a b => Sys2Proof.Machine.execSmin d a b st
  | .smax d a b => Sys2Proof.Machine.execSmax d a b st
  | .sminn d a b => Sys2Proof.Machine.execSminn d a b st
  | .smaxn d a b => Sys2Proof.Machine.execSmaxn d a b st
  | .scmp a b => Sys2Proof.Machine.execScmp a b st
  | .sclz d a => Sys2Proof.Machine.execSclz d a st
  | .spopc d a => Sys2Proof.Machine.execSpopc d a st
  | .smov d a => Sys2Proof.Machine.execSmov d a st
  | .saddi d a im => Sys2Proof.Machine.execSaddi d a im st
  | .sandi d a im => Sys2Proof.Machine.execSandi d a im st
  | .sori d a im => Sys2Proof.Machine.execSori d a im st
  | .sxori d a im => Sys2Proof.Machine.execSxori d a im st
  | .sshli d a im => Sys2Proof.Machine.execSshli d a im st
  | .sshri d a im => Sys2Proof.Machine.execSshri d a im st
  | .ssrai d a im => Sys2Proof.Machine.execSsrai d a im st
  | .scmpi a im => Sys2Proof.Machine.execScmpi a im st
  | .smuli d a im => Sys2Proof.Machine.execSmuli d a im st
  | .sli d im => Sys2Proof.Machine.execSli d im st
  | .slis d im => Sys2Proof.Machine.execSlis d im st
  | .mfs d n => Sys2Proof.Machine.execMfs d n st
  | .mts a n => Sys2Proof.Machine.execMts a n st
  | .sldw d a im => Sys2Proof.Machine.execSldw d a im st
  | .sldd d a im => Sys2Proof.Machine.execSldd d a im st
  | .sstw d a im => Sys2Proof.Machine.execSstw d a im st
  | .sstd d a im => Sys2Proof.Machine.execSstd d a im st
  | .sldda d a im => Sys2Proof.Machine.execSldda d a im st
  | .sstdl d a im => Sys2Proof.Machine.execSstdl d a im st
  | .bra c o => Sys2Proof.Machine.execBra c o st
  | .call o => Sys2Proof.Machine.execCall o st
  | .jmp a => Sys2Proof.Machine.execJmp a st
  | .callr a => Sys2Proof.Machine.execCallr a st
  | .ret => Sys2Proof.Machine.execRet st
  | .exit => Sys2Proof.Machine.execExit st
  | .yield => Sys2Proof.Machine.execYield st
  | .nop => Sys2Proof.Machine.execNop st
  | .rcv => Sys2Proof.Machine.execRcv st
  | .bkpt n => Sys2Proof.Machine.execBkpt n st
  | .trap n => Sys2Proof.Machine.execTrap n st
  | .eret => Sys2Proof.Machine.execEret st
  | .mon a => Sys2Proof.Machine.execMon a st
  | .mwait a => Sys2Proof.Machine.execMwait a st
  | .tcommit => Sys2Proof.Machine.execTcommit st
  | .tdiscard => Sys2Proof.Machine.execTdiscard st
  | .tlbiPage a => Sys2Proof.Machine.execTlbiPage a st
  | .tlbiAsid => Sys2Proof.Machine.execTlbiAsid st
  | .mspill => Sys2Proof.Machine.execMspill st
  | .brd k n o => Sys2Proof.Machine.execBrd k n o st
  | .vadd d a b => Sys2Proof.Machine.execVadd d a b st
  | .vsub d a b => Sys2Proof.Machine.execVsub d a b st
  | .vmul d a b => Sys2Proof.Machine.execVmul d a b st
  | .vmulh d a b => Sys2Proof.Machine.execVmulh d a b st
  | .vmulhn d a b => Sys2Proof.Machine.execVmulhn d a b st
  | .vmad d a b => Sys2Proof.Machine.execVmad d a b st
  | .vmin d a b => Sys2Proof.Machine.execVmin d a b st
  | .vmax d a b => Sys2Proof.Machine.execVmax d a b st
  | .vminn d a b => Sys2Proof.Machine.execVminn d a b st
  | .vmaxn d a b => Sys2Proof.Machine.execVmaxn d a b st
  | .vand d a b => Sys2Proof.Machine.execVand d a b st
  | .vor d a b => Sys2Proof.Machine.execVor d a b st
  | .vxor d a b => Sys2Proof.Machine.execVxor d a b st
  | .vandn d a b => Sys2Proof.Machine.execVandn d a b st
  | .vshl d a b => Sys2Proof.Machine.execVshl d a b st
  | .vshr d a b => Sys2Proof.Machine.execVshr d a b st
  | .vsra d a b => Sys2Proof.Machine.execVsra d a b st
  | .vrot d a b => Sys2Proof.Machine.execVrot d a b st
  | .vabsd d a b => Sys2Proof.Machine.execVabsd d a b st
  | .vadds d a b => Sys2Proof.Machine.execVadds d a b st
  | .vsubs d a b => Sys2Proof.Machine.execVsubs d a b st
  | .vavg d a b => Sys2Proof.Machine.execVavg d a b st
  | .vbfx d a b => Sys2Proof.Machine.execVbfx d a b st
  | .vbfi d a b => Sys2Proof.Machine.execVbfi d a b st
  | .vpack d a b => Sys2Proof.Machine.execVpack d a b st
  | .vpermb d a b => Sys2Proof.Machine.execVpermb d a b st
  | .vclz d a => Sys2Proof.Machine.execVclz d a st
  | .vpopc d a => Sys2Proof.Machine.execVpopc d a st
  | .vbrev d a => Sys2Proof.Machine.execVbrev d a st
  | .vnot d a => Sys2Proof.Machine.execVnot d a st
  | .vabs d a => Sys2Proof.Machine.execVabs d a st
  | .vneg d a => Sys2Proof.Machine.execVneg d a st
  | .vcmp c k a b => Sys2Proof.Machine.execVcmp c k a b st
  | .fadd d a b => Sys2Proof.Machine.execFadd d a b st
  | .fsub d a b => Sys2Proof.Machine.execFsub d a b st
  | .fmul d a b => Sys2Proof.Machine.execFmul d a b st
  | .ffma d a b => Sys2Proof.Machine.execFfma d a b st
  | .fmin d a b => Sys2Proof.Machine.execFmin d a b st
  | .fmax d a b => Sys2Proof.Machine.execFmax d a b st
  | .fabs d a => Sys2Proof.Machine.execFabs d a st
  | .fneg d a => Sys2Proof.Machine.execFneg d a st
  | .fscale d a b => Sys2Proof.Machine.execFscale d a b st
  | .frnd d a => Sys2Proof.Machine.execFrnd d a st
  | .fclass d a => Sys2Proof.Machine.execFclass d a st
  | .fcopys d a b => Sys2Proof.Machine.execFcopys d a b st
  | .faddBf16x2 d a b => Sys2Proof.Machine.execFaddBf16x2 d a b st
  | .fsubBf16x2 d a b => Sys2Proof.Machine.execFsubBf16x2 d a b st
  | .fmulBf16x2 d a b => Sys2Proof.Machine.execFmulBf16x2 d a b st
  | .ffmaBf16x2 d a b => Sys2Proof.Machine.execFfmaBf16x2 d a b st
  | .fminBf16x2 d a b => Sys2Proof.Machine.execFminBf16x2 d a b st
  | .fmaxBf16x2 d a b => Sys2Proof.Machine.execFmaxBf16x2 d a b st
  | .fabsBf16x2 d a => Sys2Proof.Machine.execFabsBf16x2 d a st
  | .fnegBf16x2 d a => Sys2Proof.Machine.execFnegBf16x2 d a st
  | .fscaleBf16x2 d a b => Sys2Proof.Machine.execFscaleBf16x2 d a b st
  | .frndBf16x2 d a => Sys2Proof.Machine.execFrndBf16x2 d a st
  | .fclassBf16x2 d a => Sys2Proof.Machine.execFclassBf16x2 d a st
  | .fcopysBf16x2 d a b => Sys2Proof.Machine.execFcopysBf16x2 d a b st
  | .fdot2Bf16x2 d a b => Sys2Proof.Machine.execFdot2Bf16x2 d a b st
  | .faddF16x2 d a b => Sys2Proof.Machine.execFaddF16x2 d a b st
  | .fsubF16x2 d a b => Sys2Proof.Machine.execFsubF16x2 d a b st
  | .fmulF16x2 d a b => Sys2Proof.Machine.execFmulF16x2 d a b st
  | .ffmaF16x2 d a b => Sys2Proof.Machine.execFfmaF16x2 d a b st
  | .fminF16x2 d a b => Sys2Proof.Machine.execFminF16x2 d a b st
  | .fmaxF16x2 d a b => Sys2Proof.Machine.execFmaxF16x2 d a b st
  | .fabsF16x2 d a => Sys2Proof.Machine.execFabsF16x2 d a st
  | .fnegF16x2 d a => Sys2Proof.Machine.execFnegF16x2 d a st
  | .fscaleF16x2 d a b => Sys2Proof.Machine.execFscaleF16x2 d a b st
  | .frndF16x2 d a => Sys2Proof.Machine.execFrndF16x2 d a st
  | .fclassF16x2 d a => Sys2Proof.Machine.execFclassF16x2 d a st
  | .fcopysF16x2 d a b => Sys2Proof.Machine.execFcopysF16x2 d a b st
  | .fdot2F16x2 d a b => Sys2Proof.Machine.execFdot2F16x2 d a b st
  | .fcvt t d a s p => Sys2Proof.Machine.execFcvt t d a s p st
  | .fexp2 d a y => Sys2Proof.Machine.execFexp2 d a y st
  | .flog2 d a y => Sys2Proof.Machine.execFlog2 d a y st
  | .frcp d a y => Sys2Proof.Machine.execFrcp d a y st
  | .frsq d a y => Sys2Proof.Machine.execFrsq d a y st
  | .fsqrt d a y => Sys2Proof.Machine.execFsqrt d a y st
  | .fsinpi d a y => Sys2Proof.Machine.execFsinpi d a y st
  | .fcospi d a y => Sys2Proof.Machine.execFcospi d a y st
  | .ftanh d a y => Sys2Proof.Machine.execFtanh d a y st
  | .fsigm d a y => Sys2Proof.Machine.execFsigm d a y st
  | .fgelu d a y => Sys2Proof.Machine.execFgelu d a y st
  | .ferf d a y => Sys2Proof.Machine.execFerf d a y st
  | .shfli d a b => Sys2Proof.Machine.execShfli d a b st
  | .shflu d a b => Sys2Proof.Machine.execShflu d a b st
  | .shfld d a b => Sys2Proof.Machine.execShfld d a b st
  | .shflx d a b => Sys2Proof.Machine.execShflx d a b st
  | .voteany d a => Sys2Proof.Machine.execVoteany d a st
  | .voteall d a => Sys2Proof.Machine.execVoteall d a st
  | .ballot d a b => Sys2Proof.Machine.execBallot d a b st
  | .redadd d a => Sys2Proof.Machine.execRedadd d a st
  | .redmin d a => Sys2Proof.Machine.execRedmin d a st
  | .redmax d a => Sys2Proof.Machine.execRedmax d a st
  | .redand d a => Sys2Proof.Machine.execRedand d a st
  | .redor d a => Sys2Proof.Machine.execRedor d a st
  | .redxor d a => Sys2Proof.Machine.execRedxor d a st
  | .scanadd d a => Sys2Proof.Machine.execScanadd d a st
  | .bcast d a l => Sys2Proof.Machine.execBcast d a l st
  | .matchLanes d a => Sys2Proof.Machine.execMatchLanes d a st
  | .redfadd d a => Sys2Proof.Machine.execRedfadd d a st
  | .redfmax d a => Sys2Proof.Machine.execRedfmax d a st
  | .redfmin d a => Sys2Proof.Machine.execRedfmin d a st
  | .scanfadd d a => Sys2Proof.Machine.execScanfadd d a st
  | .vlane d => Sys2Proof.Machine.execVlane d st
  | .vthr d => Sys2Proof.Machine.execVthr d st
  | .vsel d a b => Sys2Proof.Machine.execVsel d a b st
  | .vmovs d s h => Sys2Proof.Machine.execVmovs d s h st
  | .vaddScalar d a s h => Sys2Proof.Machine.execVaddScalar d a s h st
  | .vsubScalar d a s h => Sys2Proof.Machine.execVsubScalar d a s h st
  | .vmulScalar d a s h => Sys2Proof.Machine.execVmulScalar d a s h st
  | .vmulhScalar d a s h => Sys2Proof.Machine.execVmulhScalar d a s h st
  | .vmulhnScalar d a s h => Sys2Proof.Machine.execVmulhnScalar d a s h st
  | .vmadScalar d a s h => Sys2Proof.Machine.execVmadScalar d a s h st
  | .vminScalar d a s h => Sys2Proof.Machine.execVminScalar d a s h st
  | .vmaxScalar d a s h => Sys2Proof.Machine.execVmaxScalar d a s h st
  | .vminnScalar d a s h => Sys2Proof.Machine.execVminnScalar d a s h st
  | .vmaxnScalar d a s h => Sys2Proof.Machine.execVmaxnScalar d a s h st
  | .vandScalar d a s h => Sys2Proof.Machine.execVandScalar d a s h st
  | .vorScalar d a s h => Sys2Proof.Machine.execVorScalar d a s h st
  | .vxorScalar d a s h => Sys2Proof.Machine.execVxorScalar d a s h st
  | .vandnScalar d a s h => Sys2Proof.Machine.execVandnScalar d a s h st
  | .vshlScalar d a s h => Sys2Proof.Machine.execVshlScalar d a s h st
  | .vshrScalar d a s h => Sys2Proof.Machine.execVshrScalar d a s h st
  | .faddScalar d a s h => Sys2Proof.Machine.execFaddScalar d a s h st
  | .fsubScalar d a s h => Sys2Proof.Machine.execFsubScalar d a s h st
  | .fmulScalar d a s h => Sys2Proof.Machine.execFmulScalar d a s h st
  | .ffmaScalar d a s h => Sys2Proof.Machine.execFfmaScalar d a s h st
  | .fminScalar d a s h => Sys2Proof.Machine.execFminScalar d a s h st
  | .fmaxScalar d a s h => Sys2Proof.Machine.execFmaxScalar d a s h st
  | .fscaleScalar d a s h => Sys2Proof.Machine.execFscaleScalar d a s h st
  | .fcopysScalar d a s h => Sys2Proof.Machine.execFcopysScalar d a s h st
  | .vaddi d a im => Sys2Proof.Machine.execVaddi d a im st
  | .vandi d a im => Sys2Proof.Machine.execVandi d a im st
  | .vori d a im => Sys2Proof.Machine.execVori d a im st
  | .vxori d a im => Sys2Proof.Machine.execVxori d a im st
  | .vshli d a im => Sys2Proof.Machine.execVshli d a im st
  | .vshri d a im => Sys2Proof.Machine.execVshri d a im st
  | .vsrai d a im => Sys2Proof.Machine.execVsrai d a im st
  | .vmuli d a im => Sys2Proof.Machine.execVmuli d a im st
  | .vli d im => Sys2Proof.Machine.execVli d im st
  | .vlis d im => Sys2Proof.Machine.execVlis d im st
  | .bdecZ d a s => Sys2Proof.Machine.execBdecZ d a s st
  | .bdecS d a s => Sys2Proof.Machine.execBdecS d a s st
  | .lutxB32 d a s => Sys2Proof.Machine.execLutxB32 d a s st
  | .lutxB16 d a s => Sys2Proof.Machine.execLutxB16 d a s st
  | .qpop d q => Sys2Proof.Machine.execQpop d q st
  | .qpeek d q => Sys2Proof.Machine.execQpeek d q st
  | .qpush q a => Sys2Proof.Machine.execQpush q a st
  | .vkill d a => Sys2Proof.Machine.execVkill d a st
  | .vmov d a => Sys2Proof.Machine.execVmov d a st
  | .vmovCompact d a => Sys2Proof.Machine.execVmovCompact d a st
  | .vaddCompact d a => Sys2Proof.Machine.execVaddCompact d a st
  | .vsubCompact d a => Sys2Proof.Machine.execVsubCompact d a st
  | .vandCompact d a => Sys2Proof.Machine.execVandCompact d a st
  | .vorCompact d a => Sys2Proof.Machine.execVorCompact d a st
  | .vxorCompact d a => Sys2Proof.Machine.execVxorCompact d a st
  | .vshlCompact d a => Sys2Proof.Machine.execVshlCompact d a st
  | .vshrCompact d a => Sys2Proof.Machine.execVshrCompact d a st
  | .vminCompact d a => Sys2Proof.Machine.execVminCompact d a st
  | .vmaxCompact d a => Sys2Proof.Machine.execVmaxCompact d a st
  | .faddCompact d a => Sys2Proof.Machine.execFaddCompact d a st
  | .fsubCompact d a => Sys2Proof.Machine.execFsubCompact d a st
  | .fmulCompact d a => Sys2Proof.Machine.execFmulCompact d a st
  | .fminCompact d a => Sys2Proof.Machine.execFminCompact d a st
  | .fmaxCompact d a => Sys2Proof.Machine.execFmaxCompact d a st
  | .vmulCompact d a => Sys2Proof.Machine.execVmulCompact d a st
  | .dict im => Sys2Proof.Machine.execDict im st
  | .nop16 => Sys2Proof.Machine.execNop16 st
  | .pfx k r z c e s => Sys2Proof.Machine.execPfx k r z c e s st
  | .ldb d s a y => Sys2Proof.Machine.execLdb d s a y st
  | .ldbs d s a y => Sys2Proof.Machine.execLdbs d s a y st
  | .ldh d s a y => Sys2Proof.Machine.execLdh d s a y st
  | .ldhs d s a y => Sys2Proof.Machine.execLdhs d s a y st
  | .ldw d s a y => Sys2Proof.Machine.execLdw d s a y st
  | .ldd d s a y => Sys2Proof.Machine.execLdd d s a y st
  | .ldq d s a y => Sys2Proof.Machine.execLdq d s a y st
  | .ldwa d s a => Sys2Proof.Machine.execLdwa d s a st
  | .ldda d s a => Sys2Proof.Machine.execLdda d s a st
  | .stb d s a => Sys2Proof.Machine.execStb d s a st
  | .sth d s a => Sys2Proof.Machine.execSth d s a st
  | .stw d s a => Sys2Proof.Machine.execStw d s a st
  | .std d s a => Sys2Proof.Machine.execStd d s a st
  | .stq d s a => Sys2Proof.Machine.execStq d s a st
  | .stwl d s a => Sys2Proof.Machine.execStwl d s a st
  | .stdl d s a => Sys2Proof.Machine.execStdl d s a st
  | .ldsb d s a => Sys2Proof.Machine.execLdsb d s a st
  | .ldsbs d s a => Sys2Proof.Machine.execLdsbs d s a st
  | .ldsh d s a => Sys2Proof.Machine.execLdsh d s a st
  | .ldshs d s a => Sys2Proof.Machine.execLdshs d s a st
  | .ldsw d s a => Sys2Proof.Machine.execLdsw d s a st
  | .ldsd d s a => Sys2Proof.Machine.execLdsd d s a st
  | .ldsq d s a => Sys2Proof.Machine.execLdsq d s a st
  | .stsb d s a => Sys2Proof.Machine.execStsb d s a st
  | .stsh d s a => Sys2Proof.Machine.execStsh d s a st
  | .stsw d s a => Sys2Proof.Machine.execStsw d s a st
  | .stsd d s a => Sys2Proof.Machine.execStsd d s a st
  | .stsq d s a => Sys2Proof.Machine.execStsq d s a st
  | .aadd d s a => Sys2Proof.Machine.execAadd d s a st
  | .amin d s a => Sys2Proof.Machine.execAmin d s a st
  | .amax d s a => Sys2Proof.Machine.execAmax d s a st
  | .aminn d s a => Sys2Proof.Machine.execAminn d s a st
  | .amaxn d s a => Sys2Proof.Machine.execAmaxn d s a st
  | .aand d s a => Sys2Proof.Machine.execAand d s a st
  | .aor d s a => Sys2Proof.Machine.execAor d s a st
  | .axor d s a => Sys2Proof.Machine.execAxor d s a st
  | .axch d s a => Sys2Proof.Machine.execAxch d s a st
  | .acas d s a => Sys2Proof.Machine.execAcas d s a st
  | .afadd d s a => Sys2Proof.Machine.execAfadd d s a st
  | .afaddp d s a => Sys2Proof.Machine.execAfaddp d s a st
  | .ainc d s a => Sys2Proof.Machine.execAinc d s a st
  | .adec d s a => Sys2Proof.Machine.execAdec d s a st
  | .gadd d s a => Sys2Proof.Machine.execGadd d s a st
  | .gmin d s a => Sys2Proof.Machine.execGmin d s a st
  | .gmax d s a => Sys2Proof.Machine.execGmax d s a st
  | .gminn d s a => Sys2Proof.Machine.execGminn d s a st
  | .gmaxn d s a => Sys2Proof.Machine.execGmaxn d s a st
  | .gand d s a => Sys2Proof.Machine.execGand d s a st
  | .gor d s a => Sys2Proof.Machine.execGor d s a st
  | .gxor d s a => Sys2Proof.Machine.execGxor d s a st
  | .gfadd d s a => Sys2Proof.Machine.execGfadd d s a st
  | .gfaddp d s a => Sys2Proof.Machine.execGfaddp d s a st
  | .aaddS d s a => Sys2Proof.Machine.execAaddS d s a st
  | .aminS d s a => Sys2Proof.Machine.execAminS d s a st
  | .amaxS d s a => Sys2Proof.Machine.execAmaxS d s a st
  | .aminnS d s a => Sys2Proof.Machine.execAminnS d s a st
  | .amaxnS d s a => Sys2Proof.Machine.execAmaxnS d s a st
  | .aandS d s a => Sys2Proof.Machine.execAandS d s a st
  | .aorS d s a => Sys2Proof.Machine.execAorS d s a st
  | .axorS d s a => Sys2Proof.Machine.execAxorS d s a st
  | .axchS d s a => Sys2Proof.Machine.execAxchS d s a st
  | .acasS d s a => Sys2Proof.Machine.execAcasS d s a st
  | .afaddS d s a => Sys2Proof.Machine.execAfaddS d s a st
  | .afaddpS d s a => Sys2Proof.Machine.execAfaddpS d s a st
  | .aincS d s a => Sys2Proof.Machine.execAincS d s a st
  | .adecS d s a => Sys2Proof.Machine.execAdecS d s a st
  | .ldpw d s a => Sys2Proof.Machine.execLdpw d s a st
  | .stpw d s a => Sys2Proof.Machine.execStpw d s a st
  | .apadd d s a => Sys2Proof.Machine.execApadd d s a st
  | .ldxw d s a => Sys2Proof.Machine.execLdxw d s a st
  | .stxw d s a => Sys2Proof.Machine.execStxw d s a st
  | .nxadd d s a => Sys2Proof.Machine.execNxadd d s a st
  | .nxfadd d s a => Sys2Proof.Machine.execNxfadd d s a st
  | .ldxd d s a => Sys2Proof.Machine.execLdxd d s a st
  | .stxd d s a => Sys2Proof.Machine.execStxd d s a st
  | .fence c => Sys2Proof.Machine.execFence c st
  | .pref a im => Sys2Proof.Machine.execPref a im st
  | .invl1 a => Sys2Proof.Machine.execInvl1 a st
  | .waitc l s p t c => Sys2Proof.Machine.execWaitc l s p t c st
  | .waitr d a c => Sys2Proof.Machine.execWaitr d a c st
  | .bara d b => Sys2Proof.Machine.execBara d b st
  | .barw d a b => Sys2Proof.Machine.execBarw d a b st
  | .bart d b => Sys2Proof.Machine.execBart d b st
  | .bjoin d b => Sys2Proof.Machine.execBjoin d b st
  | .bleave d b => Sys2Proof.Machine.execBleave d b st
  | .binit d a b => Sys2Proof.Machine.execBinit d a b st
  | .xacq n => Sys2Proof.Machine.execXacq n st
  | .xtry d n => Sys2Proof.Machine.execXtry d n st
  | .xrel n => Sys2Proof.Machine.execXrel n st
  | .cpush d a c e w => Sys2Proof.Machine.execCpush d a c e w st
  | .opost d a c e w => Sys2Proof.Machine.execOpost d a c e w st
  | .cseq d c => Sys2Proof.Machine.execCseq d c st
  | .attn d a e w => Sys2Proof.Machine.execAttn d a e w st
  | .tdld d h => Sys2Proof.Machine.execTdld d h st
  | .tdst a h => Sys2Proof.Machine.execTdst a h st
  | .tdset d a b h => Sys2Proof.Machine.execTdset d a b h st
  | .tcpy d a e => Sys2Proof.Machine.execTcpy d a e st
  | .tcpyq d a b e => Sys2Proof.Machine.execTcpyq d a b e st
  | .tcpyx d a e => Sys2Proof.Machine.execTcpyx d a e st
  | .tdoff d a h => Sys2Proof.Machine.execTdoff d a h st
  | .hreg d a => Sys2Proof.Machine.execHreg d a st
  | .hregFree d a => Sys2Proof.Machine.execHregFree d a st
  | .hwait d a c => Sys2Proof.Machine.execHwait d a c st
  | .hret n => Sys2Proof.Machine.execHret n st
  | .hseal a => Sys2Proof.Machine.execHseal a st
  | .ostat d a => Sys2Proof.Machine.execOstat d a st
  | .ocancel d a => Sys2Proof.Machine.execOcancel d a st
  | .rtreg d a => Sys2Proof.Machine.execRtreg d a st
  | .rtfree d a => Sys2Proof.Machine.execRtfree d a st
  | .hstage a => Sys2Proof.Machine.execHstage a st
  | .hdrain d => Sys2Proof.Machine.execHdrain d st
  | .fold d a b h e => Sys2Proof.Machine.execFold d a b h e st
  | .scan d a b h e => Sys2Proof.Machine.execScan d a b h e st
  | .zip d a b h e => Sys2Proof.Machine.execZip d a b h e st
  | .outer d a b h e => Sys2Proof.Machine.execOuter d a b h e st
  | .epsnap d a p => Sys2Proof.Machine.execEpsnap d a p st
  | .eprest d a => Sys2Proof.Machine.execEprest d a st
  | .epcommit d a => Sys2Proof.Machine.execEpcommit d a st
  | .epmap d a => Sys2Proof.Machine.execEpmap d a st
  | .kvslot d a w => Sys2Proof.Machine.execKvslot d a w st
  | .kvtent d a => Sys2Proof.Machine.execKvtent d a st
  | .kvcommit d a => Sys2Proof.Machine.execKvcommit d a st
  | .kvroll d a => Sys2Proof.Machine.execKvroll d a st
  | .kvfork d a => Sys2Proof.Machine.execKvfork d a st
  | .kvlen d a => Sys2Proof.Machine.execKvlen d a st
  | .coll d a h e => Sys2Proof.Machine.execColl d a h e st
  | .abinit d a n => Sys2Proof.Machine.execAbinit d a n st
  | .abarr d a => Sys2Proof.Machine.execAbarr d a st
  | .abwait d a => Sys2Proof.Machine.execAbwait d a st
  | .abtest d a => Sys2Proof.Machine.execAbtest d a st
  | .absig d a => Sys2Proof.Machine.execAbsig d a st
  | .dawnld d a => Sys2Proof.Machine.execDawnld d a st
  | .dawngo d a => Sys2Proof.Machine.execDawngo d a st
  | .dawnstop d => Sys2Proof.Machine.execDawnstop d st
  | .jcdeal d => Sys2Proof.Machine.execJcdeal d st
  | .watchEventDelivery core slot => Sys2Proof.Machine.execWatchEventDelivery core slot st
  | .registerWrite off w => Sys2Proof.Machine.execRegisterWrite off w st
  | .hostDoorbell q tail recs => Sys2Proof.Machine.execHostDoorbell q tail recs st
  | .ident tag => Sys2Proof.Machine.execIdent tag st
  | .status c => Sys2Proof.Machine.execStatus c st
  | .bootContinue tag parts key sig lock => Sys2Proof.Machine.execBootContinue tag parts key sig lock st
  | .partCreate tag p => Sys2Proof.Machine.execPartCreate tag p st
  | .partMerge tag p1 p2 timeout => Sys2Proof.Machine.execPartMerge tag p1 p2 timeout st
  | .partMergeDrained => Sys2Proof.Machine.execPartMergeDrained st
  | .partMergeTimeout => Sys2Proof.Machine.execPartMergeTimeout st
  | .partSplit tag p => Sys2Proof.Machine.execPartSplit tag p st
  | .ctxCreate tag c => Sys2Proof.Machine.execCtxCreate tag c st
  | .ctxDestroy tag asid => Sys2Proof.Machine.execCtxDestroy tag asid st
  | .map tag asid va m => Sys2Proof.Machine.execMap tag asid va m st
  | .unmap tag asid va => Sys2Proof.Machine.execUnmap tag asid va st
  | .queueBind tag q => Sys2Proof.Machine.execQueueBind tag q st
  | .resetCore tag core failed => Sys2Proof.Machine.execResetCore tag core failed st
  | .resetOrrery tag core failed => Sys2Proof.Machine.execResetOrrery tag core failed st
  | .attest tag nonce asid hostBuf => Sys2Proof.Machine.execAttest tag nonce asid hostBuf st
  | .telem tag hostAddr => Sys2Proof.Machine.execTelem tag hostAddr st
  | .powerSet tag pstate cap heatCap => Sys2Proof.Machine.execPowerSet tag pstate cap heatCap st
  | .debugUnlock tag target nonce tenants sig => Sys2Proof.Machine.execDebugUnlock tag target nonce tenants sig st
  | .dedupScan tag part => Sys2Proof.Machine.execDedupScan tag part st
  | .scrub tag part => Sys2Proof.Machine.execScrub tag part st
  | .shootDownComplete k => Sys2Proof.Machine.execShootDownComplete k st
  | .reset => Sys2Proof.Machine.execReset st
  | .bootCheckDone ok => Sys2Proof.Machine.execBootCheckDone ok st
  | .limiterRaise r => Sys2Proof.Machine.execLimiterRaise r st
  | .limiterLower r => Sys2Proof.Machine.execLimiterLower r st
  | .thermalTrip die => Sys2Proof.Machine.execThermalTrip die st
  | .tripOffTimeout => Sys2Proof.Machine.execTripOffTimeout st
  | .supplyTrim cluster => Sys2Proof.Machine.execSupplyTrim cluster st
  | .budgetDivision part => Sys2Proof.Machine.execBudgetDivision part st
  | .ebudRefill asid => Sys2Proof.Machine.execEbudRefill asid st
  | .uncorrectableError pa => Sys2Proof.Machine.execUncorrectableError pa st
  | .correctedError pa => Sys2Proof.Machine.execCorrectedError pa st
  | .pageWalk die => Sys2Proof.Machine.execPageWalk die st
  | .pageWalkDone die k => Sys2Proof.Machine.execPageWalkDone die k st
  | .loadDataReturn op m => Sys2Proof.Machine.execLoadDataReturn op m st
  | .writeAppliedAtHome k => Sys2Proof.Machine.execWriteAppliedAtHome k st
  | .writeAck k => Sys2Proof.Machine.execWriteAck k st
  | .mwaitTimeout core slot split => Sys2Proof.Machine.execMwaitTimeout core slot split st
  | .remoteAccess k => Sys2Proof.Machine.execRemoteAccess k st
  | .remoteTranslationDone core slot split => Sys2Proof.Machine.execRemoteTranslationDone core slot split st
  | .linkFailure groups cut => Sys2Proof.Machine.execLinkFailure groups cut st
  | .copy asid chain seq => Sys2Proof.Machine.execCopy asid chain seq st
  | .expand asid chain seq => Sys2Proof.Machine.execExpand asid chain seq st
  | .quantise asid chain seq => Sys2Proof.Machine.execQuantise asid chain seq st
  | .decompress asid chain seq => Sys2Proof.Machine.execDecompress asid chain seq st
  | .tierMigration asid chain seq => Sys2Proof.Machine.execTierMigration asid chain seq st
  | .fill asid chain seq => Sys2Proof.Machine.execFill asid chain seq st
  | .gather asid chain seq => Sys2Proof.Machine.execGather asid chain seq st
  | .scatter asid chain seq => Sys2Proof.Machine.execScatter asid chain seq st
  | .operatorRun asid chain seq => Sys2Proof.Machine.execOperatorRun asid chain seq st
  | .launch asid chain seq => Sys2Proof.Machine.execLaunch asid chain seq st
  | .recordCompletion asid chain => Sys2Proof.Machine.execRecordCompletion asid chain st
  | .outputUnitOperation core => Sys2Proof.Machine.execOutputUnitOperation core st
  | .operationRetire op => Sys2Proof.Machine.execOperationRetire op st
  | .walkStart core slot => Sys2Proof.Machine.execWalkStart core slot st
  | .upcallDelivery core team cohort => Sys2Proof.Machine.execUpcallDelivery core team cohort st
  | .upcallTimeout core slot seq => Sys2Proof.Machine.execUpcallTimeout core slot seq st
  | .directFillComplete core slot unit opnd eng => Sys2Proof.Machine.execDirectFillComplete core slot unit opnd eng st
  | .stepStart core slot unit => Sys2Proof.Machine.execStepStart core slot unit st
  | .stepComplete core slot unit badRuns => Sys2Proof.Machine.execStepComplete core slot unit badRuns st
  | .deliveryConversionDone core slot unit => Sys2Proof.Machine.execDeliveryConversionDone core slot unit st
  | .walkCompletion core slot => Sys2Proof.Machine.execWalkCompletion core slot st
  | .selfTest core => Sys2Proof.Machine.execSelfTest core st
  | .selfTestResult core failed => Sys2Proof.Machine.execSelfTestResult core failed st
  | .attnPageGroupDone req group unit => Sys2Proof.Machine.execAttnPageGroupDone req group unit st
  | .attnAbsentPageRead req group unit => Sys2Proof.Machine.execAttnAbsentPageRead req group unit st
  | .attnMerge req eng => Sys2Proof.Machine.execAttnMerge req eng st
  | .attnCompletion req => Sys2Proof.Machine.execAttnCompletion req st
  | .collectiveStart coll => Sys2Proof.Machine.execCollectiveStart coll st
  | .collectiveTreeNode coll pos height => Sys2Proof.Machine.execCollectiveTreeNode coll pos height st
  | .collectiveCompletion coll => Sys2Proof.Machine.execCollectiveCompletion coll st
  | .collectiveTimeout coll => Sys2Proof.Machine.execCollectiveTimeout coll st
  | .collectiveAbort coll sub detail => Sys2Proof.Machine.execCollectiveAbort coll sub detail st
  | .switchReductionFailure coll => Sys2Proof.Machine.execSwitchReductionFailure coll st
  | .launchPacketAccept part queue => Sys2Proof.Machine.execLaunchPacketAccept part queue st
  | .teamPlacement launch => Sys2Proof.Machine.execTeamPlacement launch st
  | .teamRetire team => Sys2Proof.Machine.execTeamRetire team st
  | .preemptionDelayExpiry part => Sys2Proof.Machine.execPreemptionDelayExpiry part st
  | .contextResume saved core => Sys2Proof.Machine.execContextResume saved core st
  | .balancerInterval part => Sys2Proof.Machine.execBalancerInterval part st
  | .replicatedAcceptance launch chip answer => Sys2Proof.Machine.execReplicatedAcceptance launch chip answer st
  | .replicatedAcceptTimeout launch => Sys2Proof.Machine.execReplicatedAcceptTimeout launch st
  | .replicatedStart launch => Sys2Proof.Machine.execReplicatedStart launch st
  | .switchRequest core => Sys2Proof.Machine.execSwitchRequest core st
  | .bankExchange core => Sys2Proof.Machine.execBankExchange core st
  | .bankExchangeDone core => Sys2Proof.Machine.execBankExchangeDone core st
  | .spillComplete saved => Sys2Proof.Machine.execSpillComplete saved st
  | .demandRestore core line => Sys2Proof.Machine.execDemandRestore core line st
  | .engineReset eng => Sys2Proof.Machine.execEngineReset eng st
  | .attentionUnitReset unit => Sys2Proof.Machine.execAttentionUnitReset unit st
  | .debuggerResume asid edits => Sys2Proof.Machine.execDebuggerResume asid edits st

end

end Sys2Proof.Machine
end

