-- ==== Sys2Proof/Machine/Cycle.lean ====
section
/-! DEFINITION. What one step does around the meaning of an instruction: choosing whose turn it is, fetching,
decoding, the checks between instructions, the passing of time. -/

namespace Sys2Proof.Machine

open Sys2Proof

/-- A word the decoder refuses raises ILLEGAL (02 R20, R22). A PFX with nonzero [31:24] is reported at its
successor, whose fetch comes first (R24, R25). -/
def undecodable (why w : Nat) (s : State) : State :=
  if isPfxWord w then
    let s1 := { s with ix := { s.ix with p := true } }
    match fetchInstr s1 (s1.ix.addr + 4) with
    | .trap c => takeTrap c s1
    | .walk va => awaitWalks [va] s1
    | .word _ _ => illegal why s1
  else illegal why s

/-- The issuing split performs the instruction at its PC (02 R23). A fault of a PFX's own second parcel is one of the
prefixed pair (R28). -/
noncomputable def issueInstr (s : State) : Host.Outcome State Fault Refusal :=
  let pc := s.w.cur.pc
  match fetchInstr s pc with
  | .trap c => .next (takeTrap c { s with ix := { addr := pc, next := pc, p := pfxAt s pc } })
  | .walk va => .next (awaitWalks [va] { s with ix := { addr := pc, next := pc } })
  | .word w len =>
    let s1 := { s with ix := { addr := pc, next := pc + BitVec.ofNat 64 len, word := w32 w } }
    match decodeWord w with
    | .ok i => exec i s1
    | .error (.illegal why) => .next (undecodable why w s1)
    | .error .short => .next (undecodable 0 w s1)

/-- DBGCTL.STEP (16 R351): BKPT with TSUB 0x200 after each instruction of a user split has retired; TPC is the
next instruction (DEDUCED, notes/assumptions/12.md), and P, D and IDX of TINFO are 0 after a prefixed pair or a DICT too (log 12, DESIGN CHOICE). -/
def afterInstr (wasUser : Bool) (s : State) : State :=
  if wasUser && s.ctx.dbgctl.getLsbD 1 && s.ix.retired && s.w.cur.active != 0 && !s.w.dawn then
    deliver { code := 0x0B, tsub := 0x200, tmask := s.w.cur.active } s.w.cur.pc false { s with ix := { addr := s.w.cur.pc } }
  else s

/-- With STEP a user split's instruction raises BKPT, so while another split of the warp is in a handler the split stays at
it (16 R342, R351). -/
def stepHeld (s : State) : Bool :=
  s.ctx.dbgctl.getLsbD 1 && !s.w.cur.priv && !s.w.dawn && s.w.others.any Split.handler

/-- Map the next state of an outcome. -/
def mapNext (f : State → State) : Host.Outcome State Fault Refusal → Host.Outcome State Fault Refusal
  | .next s => .next (f s)
  | .fault r => .fault r
  | .refused r => .refused r

/-- A lane's issue opportunity, for the split in its place: an asynchronous WATCH is delivered first; the instruction
may have to wait for the debugger or the limiter. -/
noncomputable def laneTurn (s : State) : Host.Outcome State Fault Refusal :=
  if watchDue s then .next (deliverWatch s)
  else if stepHeld s then .next (laneTried s)
  else if laneHeld s then .next (noteClass s)
  else
    mapNext (fun t => laneAfter (afterInstr (!s.w.cur.priv) t))
      (issueInstr ((noteClass s).modCur (fun p => { p with yielded := false })))

/-- The turn of a lane, named by one of its splits. -/
noncomputable def issueTurn (core slot split : Nat) (s : State) : Host.Outcome State Fault Refusal :=
  match chosen core slot split s with
  | none => .next s
  | some f => if coreRuns f core then laneTurn { f with last := (core, slot, split) } else .next s

/-- Whether an instruction is a step of another agent. -/
def isEvent (i : Instr) : Bool := (encodeWord i).isNone

/-- Perform a turn. -/
noncomputable def runTurn (t : Turn) (s : State) : Host.Outcome State Fault Refusal :=
  match t with
  | .issue core slot split => issueTurn core slot split s
  | .event e => if isEvent e && powered s e then exec e s else .next s
  | .idle => .next { s with time := s.time + 1 }

/-- The turn of this step, taken off the agenda. -/
noncomputable def takeTurn (s : State) : Turn × State :=
  match s.agenda with
  | t :: ts => (t, { s with agenda := ts })
  | [] => (defaultTurn s, s)

/-- Time passes with every step; how much is free (notes/assumptions/3.md). With it come the refills of every budget (09 R212). -/
def passTime (s : State) : State :=
  let s1 := if Config.elapsed s.tick = 0 then s else countStalls s
  refillAll { s1 with time := s.time + Config.elapsed s.tick, tick := s.tick + 1 }

/-! ## Placing an instruction for the host -/

/-- A leaf of page 0 for every access (03 R38). -/
def openLeaf : W64 := w64 (2 ^ 12 + 2 ^ 4 + 2 ^ 3 + 2 ^ 2 + 2 ^ 1 + 1)

/-- A warp in the state of kernel entry (01 R7, 07 R147) on core 0 with its code page at address 0: what the boot,
a CTX_CREATE, a launch packet and a placement bring about (notes/assumptions/4.md). -/
def entryState (s : State) : State :=
  { s with
    w := { uid := s.nextId, cur := { active := 0xFFFFFFFF }, team := s.nextId + 1 }
    team := { uid := s.nextId + 1, launch := s.nextId + 2, ssize := 4096 }
    ctx := { live := true }
    core := { s.core with tlb := ⟨0, 0, 18, openLeaf⟩ :: s.core.tlb }
    dev := { s.dev with boot := 2, pwr := 0 }
    nextId := s.nextId + 3 }

/-- The state whose next turn is a split's fetch: s itself where that is so, else s with a warp at kernel entry. -/
noncomputable def fetchReady (s : State) : State :=
  match (takeTurn s).1 with
  | .issue c w p => if (chosen c w p s).isSome && coreRuns s c then s else { entryState s with agenda := [.issue 0 0 0] }
  | _ => { entryState s with agenda := [.issue 0 0 0] }

/-- The physical address of the parcel that the split of a turn fetches first. -/
noncomputable def fetchPA (s : State) : Option Nat :=
  match (takeTurn s).1 with
  | .issue c w p =>
    match chosen c w p s with
    | some s1 => match translate s1 .fetch s1.w.cur.pc with
      | .ok _ pa => some pa
      | _ => none
    | none => none
  | _ => none

/-- Store instruction bytes where the next fetch reads them. -/
noncomputable def placeCode (bs : List Byte) (s : State) : State :=
  match fetchPA (fetchReady s) with
  | some pa => { fetchReady s with
      mem := memPut (fetchReady s).mem pa bs
      launches := (fetchReady s).launches.map (fun l => { l with code := memPut l.code pa bs }) }
  | none =>
    let e := { entryState s with agenda := [.issue 0 0 0] }
    { e with mem := memPut e.mem 0 bs, launches := e.launches.map (fun l => { l with code := memPut l.code 0 bs }) }

end Sys2Proof.Machine
end

