-- ==== Sys2Proof/Machine/Step.lean ====
section
/-! DEFINITION. One step of the machine, and how the host places one instruction before it. -/

namespace Sys2Proof.Machine

open Sys2Proof

/-- One step: whose turn it is, what that does, and the passing of time. -/
noncomputable def step (s : State) : Host.Outcome State Fault Refusal :=
  mapNext (fun t => passTime (settle t)) (runTurn (takeTurn s).1 (takeTurn s).2)

/-- s with an instruction of nbits bits stored where the next step fetches, zero bytes above it up to the longest
form (a PFX and its successor, 8 bytes). -/
noncomputable def State.withFetchWord (s : State) (nbits w : Nat) : State := placeCode (leBytes 8 (w % 2 ^ nbits)) s

end Sys2Proof.Machine
end

