-- ==== Sys2Proof/Certificates/Slice0/Obligations.lean ====
section
/-! DEFINITION. The statements for the provers. Sys2Proof.Claims holds the words they are said in; each statement is an
`Obligations.<Name>`. -/

namespace Sys2Proof.Claims

open Sys2Proof Sys2Proof.Machine

/-! ## What an instruction leaves -/

/-- Every byte of memory reads as before. -/
def MemorySame (s t : State) : Prop := ∀ a, memRead t.mem a = memRead s.mem a

/-- Nothing changed but the issuing warp and the issue's own record: not another warp, core, team, context, memory,
write, queue or special register outside the warp. -/
def WarpOnly (s t : State) : Prop := { t with w := s.w, ix := s.ix } = s ∧ MemorySame s t

/-- The split goes on at pc with its number, threads, mode and handlers as they were; what it kept for an instruction it
was parked at is gone. -/
def GoesOn (s t : State) (pc : W64) : Prop :=
  t.ix.retired = true ∧
  t.w.cur = { s.w.cur with
    pc := pc, fresh := [], since := none, place := none, deadline := none, arg := [], skip := false, xlat := 0 }

/-- Every scalar but s[d] is unchanged. -/
def ScalarsBut (d : Nat) (s t : State) : Prop := ∀ n, n ≠ d → t.w.sGet n = s.w.sGet n
/-- Every mask register but k[k] is unchanged. -/
def MasksBut (k : Nat) (s t : State) : Prop := ∀ n, n ≠ k → t.w.kGet n = s.w.kGet n

/-- i completes: s[d] ← x (nothing for s0), and nothing else changes: no flag, mask, vector register, special register,
trap register, counter, no byte of memory. -/
def ScalarResult (i : Instr) (s : State) (d : Nat) (x : W64) : Prop :=
  ∃ t, exec i s = .next t ∧ WarpOnly s t ∧ GoesOn s t s.ix.next
    ∧ t.w.sGet d = (if d = 0 then 0 else x) ∧ ScalarsBut d s t
    ∧ { t.w with s := s.w.s, cur := s.w.cur } = s.w

/-- i completes and changes nothing but the program counter. -/
def OnlyAdvances (i : Instr) (s : State) : Prop :=
  ∃ t, exec i s = .next t ∧ WarpOnly s t ∧ GoesOn s t s.ix.next ∧ { t.w with cur := s.w.cur } = s.w

/-- i completes and changes nothing but the split's program counter, which becomes pc. -/
def OnlyJumps (i : Instr) (s : State) (pc : W64) : Prop :=
  ∃ t, exec i s = .next t ∧ WarpOnly s t ∧ GoesOn s t pc ∧ { t.w with cur := s.w.cur } = s.w

/-! ## Traps -/

/-- No other split of the warp has a handler active, and the warp is not the dawn warp. -/
def CanTrap (s : State) : Prop := s.w.dawn = false ∧ s.w.others.any Split.handler = false

/-- The split is in user mode with no handler active, KTVEC holds an address, and the debugger is not enabled: a cause that
no user handler takes goes to KTVEC (16 R346). -/
def UserNoHandler (s : State) : Prop :=
  CanTrap s ∧ s.w.cur.priv = false ∧ s.w.cur.userH = false ∧ s.ctx.ktvec ≠ 0 ∧ s.ctx.dbgctl.getLsbD 0 = false

/-- TCAUSE of a cause delivered to KTVEC from user mode without nesting (16 R343). -/
def kernelTcause (s : State) (code : Nat) : W64 := BitVec.ofNat 64 (2 ^ 12 + s.w.cur.num * 2 ^ 9 + code)

/-- i is delivered to KTVEC with the given cause and TPC (16 R346): the six trap registers, privileged mode, the handler's
address, and nothing else: no register, flag, mask or byte of memory. -/
def TrapsAt (i : Instr) (s : State) (tpc : W64) (code : Nat) (tsub taddr tinfo : W64) (tmask : W32) : Prop :=
  ∃ t, exec i s = .next t ∧ WarpOnly s t
    ∧ t.w.trap = { tcause := kernelTcause s code, tpc := tpc, taddr := taddr, tmask := tmask.setWidth 64
                   tsub := tsub, tinfo := tinfo }
    ∧ t.w.cur.pc = s.ctx.ktvec &&& 0x01FFFFFFFFFFFFFE#64 ∧ t.w.cur.priv = true ∧ t.w.cur.supH = true
    ∧ t.w.cur.active = s.w.cur.active ∧ t.w.cur.num = s.w.cur.num
    ∧ { t.w with trap := s.w.trap, cur := s.w.cur } = s.w

/-- i is delivered with TPC the instruction's own address and an INFO of its cause (02 R20). -/
def Traps (i : Instr) (s : State) (code : Nat) (tsub taddr : W64) (info : Nat) (tmask : W32) : Prop :=
  TrapsAt i s s.ix.addr code tsub taddr (tinfoWord s.ix info) tmask

/-- i raises ILLEGAL with a reason (02 R20, R22): INFO[39:32] is the reason, INFO[31:0] the word. -/
def RaisesIllegal (i : Instr) (s : State) (why : Nat) : Prop :=
  Traps i s 0x01 0 0 (why * 2 ^ 32 + s.ix.word.toNat) s.w.cur.active

/-- i raises PRIV (16 R344). -/
def RaisesPriv (i : Instr) (s : State) : Prop := Traps i s 0x02 0 0 0 s.w.cur.active

/-- The user frame of the issuing warp holds r after a delivery (16 R346, R360): in the warp, and where a page of the save area
holds the frame, in its 48 bytes. Of the rest of the state only the issuing warp and the issue's own record may differ, and
the monitors on the lines written. -/
def FrameSaved (s t : State) (r : TrapRegs) : Prop :=
  t.w.frame = r ∧ { t with w := s.w, ws := s.ws, ix := s.ix, mem := s.mem } = s
  ∧ t.ws.map (fun w => { w with mon := none }) = s.ws.map (fun w => { w with mon := none })
  ∧ (framePA s = none → t.mem = s.mem ∧ t.ws = s.ws ∧ t.w.mon = s.w.mon)
  ∧ ∀ pa, framePA s = some pa →
      (∀ i x, [r.tcause, r.tpc, r.taddr, r.tmask, r.tsub, r.tinfo][i]? = some x → BitVec.ofNat 64 (memNat t.mem (pa + 8 * i) 8) = x)
      ∧ ∀ a, a < pa ∨ pa + 48 ≤ a → memRead t.mem a = memRead s.mem a

/-- The user frame as it stands: the six words in memory where a page of the save area holds it, else the warp's own. -/
def FrameHolds (s : State) (r : TrapRegs) : Prop :=
  match framePA s with
  | none => r = s.w.frame
  | some pa => ∀ i x, [r.tcause, r.tpc, r.taddr, r.tmask, r.tsub, r.tinfo][i]? = some x →
      x = BitVec.ofNat 64 (memNat s.mem (pa + 8 * i) 8)

/-! ## Integers -/

/-- A shift count: the low 8 bits of an operand (07 R154). -/
def count {n : Nat} (b : BitVec n) : Nat := b.toNat % 256

/-- a shifted left by b[7:0]. -/
def shiftedLeft {n : Nat} (a b : BitVec n) : BitVec n := BitVec.ofNat n (a.toNat * 2 ^ count b)
/-- a shifted right by b[7:0], zero fill. -/
def shiftedRight {n : Nat} (a b : BitVec n) : BitVec n := BitVec.ofNat n (a.toNat / 2 ^ count b)
/-- a shifted right by b[7:0], sign fill. -/
def shiftedSigned {n : Nat} (a b : BitVec n) : BitVec n := BitVec.ofInt n (a.toInt / 2 ^ count b)
/-- The high half of a signed product. -/
def highSigned {n : Nat} (a b : BitVec n) : BitVec n := BitVec.ofInt n (a.toInt * b.toInt / 2 ^ n)
/-- The high half of an unsigned product. -/
def highUnsigned {n : Nat} (a b : BitVec n) : BitVec n := BitVec.ofNat n (a.toNat * b.toNat / 2 ^ n)
/-- The smaller and the larger of two signed, and of two unsigned, numbers. -/
def lesserS {n : Nat} (a b : BitVec n) : BitVec n := if a.toInt ≤ b.toInt then a else b
def greaterS {n : Nat} (a b : BitVec n) : BitVec n := if b.toInt ≤ a.toInt then a else b
def lesserU {n : Nat} (a b : BitVec n) : BitVec n := if a.toNat ≤ b.toNat then a else b
def greaterU {n : Nat} (a b : BitVec n) : BitVec n := if b.toNat ≤ a.toNat then a else b
/-- Leading zero bits, n for 0. -/
def leadingZeros {n : Nat} (a : BitVec n) : Nat := if a.toNat = 0 then n else n - 1 - Nat.log2 a.toNat
/-- Set bits. -/
def setBits {n : Nat} (a : BitVec n) : Nat := ((List.range n).filter (fun j => a.getLsbD j)).length

end Sys2Proof.Claims

/-! # Scalars, flags and branches (07 R154 to R158; 14 R305) -/

section

open Sys2Proof Sys2Proof.Machine Sys2Proof.Claims

/-- 07 R154, R155, R157, R158: the result of every scalar instruction of majors 0x01, 0x02 and 0x03 but for SDIV, SDIVN, SREM and
SREMN (ScalarDivision) and SCMP and SCMPI (CompareSetsFlags), for every state and operand; a shift immediate is in 0 to 63 (its other values: ShiftImmediateOutOfRange). A write to s0 is discarded. -/
def Obligations.ScalarResults : Prop := ∀ (s : State) (d a b : BitVec 6) (i : BitVec 9) (j : BitVec 15),
  let x := s.w.sGet a.toNat
  let y := s.w.sGet b.toNat
  let im : W64 := i.signExtend 64
  let R := fun (k : Instr) (v : W64) => ScalarResult k s d.toNat v
  (R (.sadd d a b) (BitVec.ofNat 64 (x.toNat + y.toNat))
    ∧ R (.ssub d a b) (BitVec.ofInt 64 (x.toInt - y.toInt))
    ∧ R (.smul d a b) (BitVec.ofNat 64 (x.toNat * y.toNat))
    ∧ R (.smulh d a b) (highSigned x y)
    ∧ R (.smulhn d a b) (highUnsigned x y)
    ∧ R (.sand d a b) (x &&& y)
    ∧ R (.sor d a b) (x ||| y)
    ∧ R (.sxor d a b) (x ^^^ y)
    ∧ R (.sandn d a b) (x &&& ~~~y)
    ∧ R (.sshl d a b) (shiftedLeft x y)
    ∧ R (.sshr d a b) (shiftedRight x y)
    ∧ R (.ssra d a b) (shiftedSigned x y)
    ∧ R (.smin d a b) (lesserS x y)
    ∧ R (.smax d a b) (greaterS x y)
    ∧ R (.sminn d a b) (lesserU x y)
    ∧ R (.smaxn d a b) (greaterU x y)
    ∧ R (.sclz d a) (BitVec.ofNat 64 (leadingZeros x))
    ∧ R (.spopc d a) (BitVec.ofNat 64 (setBits x))
    ∧ R (.smov d a) x)
  ∧ (R (.saddi d a i) (x + im)
    ∧ R (.sandi d a i) (x &&& im)
    ∧ R (.sori d a i) (x ||| im)
    ∧ R (.sxori d a i) (x ^^^ im)
    ∧ R (.smuli d a i) (x * im)
    ∧ (i.toNat ≤ 63 →
        R (.sshli d a i) (BitVec.ofNat 64 (x.toNat * 2 ^ i.toNat))
        ∧ R (.sshri d a i) (BitVec.ofNat 64 (x.toNat / 2 ^ i.toNat))
        ∧ R (.ssrai d a i) (BitVec.ofInt 64 (x.toInt / 2 ^ i.toNat))))
  ∧ R (.sli d j) (j.signExtend 64)
  ∧ R (.slis d j) (BitVec.ofNat 64 (((s.w.sGet d.toNat).toNat * 2 ^ 15) % 2 ^ 64 ||| j.toNat))

/-- 07 R155, whole: division truncates toward zero and never traps; by 0 it gives −1 (SDIV), the dividend (SREM),
2^64 − 1 (SDIVN), the dividend (SREMN); −2^63 by −1 gives −2^63 with remainder 0. -/
def Obligations.ScalarDivision : Prop := ∀ (s : State) (d a b : BitVec 6),
  let x := s.w.sGet a.toNat
  let y := s.w.sGet b.toNat
  (y ≠ 0 →
    ScalarResult (.sdiv d a b) s d.toNat (BitVec.ofInt 64 (x.toInt.tdiv y.toInt))
    ∧ ScalarResult (.srem d a b) s d.toNat (BitVec.ofInt 64 (x.toInt - y.toInt * x.toInt.tdiv y.toInt))
    ∧ ScalarResult (.sdivn d a b) s d.toNat (BitVec.ofNat 64 (x.toNat / y.toNat))
    ∧ ScalarResult (.sremn d a b) s d.toNat (BitVec.ofNat 64 (x.toNat % y.toNat)))
  ∧ (y = 0 →
    ScalarResult (.sdiv d a b) s d.toNat (-1)
    ∧ ScalarResult (.srem d a b) s d.toNat x
    ∧ ScalarResult (.sdivn d a b) s d.toNat (BitVec.ofNat 64 (2 ^ 64 - 1))
    ∧ ScalarResult (.sremn d a b) s d.toNat x)
  ∧ (x = BitVec.ofInt 64 (-(2 ^ 63)) ∧ y = -1 →
    ScalarResult (.sdiv d a b) s d.toNat (BitVec.ofInt 64 (-(2 ^ 63)))
    ∧ ScalarResult (.srem d a b) s d.toNat 0)

/-- i completes with the four flags of comparing a with b and nothing else changed (07 R156). -/
def Sys2Proof.Claims.SetsFlags (i : Instr) (s : State) (a b : W64) : Prop :=
  ∃ t, exec i s = .next t ∧ WarpOnly s t ∧ GoesOn s t s.ix.next
    ∧ (t.w.fz = true ↔ a = b)
    ∧ t.w.fn = (a - b).getLsbD 63
    ∧ (t.w.fc = true ↔ b.toNat ≤ a.toNat)
    ∧ (t.w.fv = true ↔ (a.toInt - b.toInt < -(2 ^ 63) ∨ 2 ^ 63 ≤ a.toInt - b.toInt))
    ∧ ((t.w.fn ≠ t.w.fv) ↔ a.toInt < b.toInt)
    ∧ { t.w with fz := s.w.fz, fn := s.w.fn, fc := s.w.fc, fv := s.w.fv, cur := s.w.cur } = s.w

/-- 07 R156, whole: SCMP and SCMPI set all four flags from (a − b) mod 2^64 and write nothing else; with R148's reading
LT is the signed and LTN the unsigned comparison. -/
def Obligations.CompareSetsFlags : Prop := ∀ (s : State) (a b : BitVec 6) (i : BitVec 9),
  SetsFlags (.scmp a b) s (s.w.sGet a.toNat) (s.w.sGet b.toNat)
  ∧ SetsFlags (.scmpi a i) s (s.w.sGet a.toNat) (i.signExtend 64)

/-- 07 R157, R160; 02 R22: a shift immediate outside its range raises ILLEGAL, WHY 3, from user mode without a handler,
and nothing else of the machine changes. -/
def Sys2Proof.Claims.ShiftImmediateOutOfRange : Prop :=
  ∀ (s : State) (d a : BitVec 6) (i : BitVec 9) (vd va : BitVec 7) (vi : BitVec 7), UserNoHandler s →
    (63 < i.toNat → ∀ k ∈ [Instr.sshli d a i, .sshri d a i, .ssrai d a i], RaisesIllegal k s 3)
    ∧ (31 < vi.toNat → ∀ k ∈ [Instr.vshli vd va vi, .vshri vd va vi, .vsrai vd va vi], RaisesIllegal k s 3)

/-- The table of 07 R148: a condition number is true of the flags. -/
def Sys2Proof.Claims.CondTrue (c : Nat) (w : Warp) : Prop :=
  c = 0 ∨ (c = 1 ∧ w.fz = true) ∨ (c = 2 ∧ w.fz = false) ∨ (c = 3 ∧ w.fn ≠ w.fv) ∨ (c = 4 ∧ w.fn = w.fv)
  ∨ (c = 5 ∧ (w.fz = true ∨ w.fn ≠ w.fv)) ∨ (c = 6 ∧ w.fz = false ∧ w.fn = w.fv)
  ∨ (c = 7 ∧ w.fc = false) ∨ (c = 8 ∧ w.fc = true) ∨ (c = 9 ∧ (w.fc = false ∨ w.fz = true))
  ∨ (c = 10 ∧ w.fc = true ∧ w.fz = false) ∨ (c = 11 ∧ w.fv = true) ∨ (c = 12 ∧ w.fv = false)
  ∨ (c = 13 ∧ w.fn = true) ∨ (c = 14 ∧ w.fn = false)

/-- 14 R305, 07 R148: BRA moves to the address + 2 × SignExtend(OFF21) where its condition holds of the flags, and to the
next instruction where it does not; nothing else changes. -/
def Sys2Proof.Claims.BranchFollowsCondition : Prop := ∀ (s : State) (c : BitVec 4) (o : BitVec 21),
  (CondTrue c.toNat s.w → OnlyJumps (.bra c o) s (s.ix.addr + 2 * o.signExtend 64))
  ∧ (¬ CondTrue c.toNat s.w → OnlyJumps (.bra c o) s s.ix.next)

/-- i completes at pc with s63 holding the address after it, and nothing else changes (01 R9). -/
def Sys2Proof.Claims.Calls (i : Instr) (s : State) (pc : W64) : Prop :=
  ∃ t, exec i s = .next t ∧ WarpOnly s t ∧ GoesOn s t pc ∧ t.w.sGet 63 = s.ix.addr + 4 ∧ ScalarsBut 63 s t
    ∧ { t.w with s := s.w.s, cur := s.w.cur } = s.w

/-- 14 R306; 02 R16: NOP and NOP16 change only the program counter; YIELD also makes its split pass its next issue
opportunity. -/
def Sys2Proof.Claims.NopsAndYield (s : State) : Prop :=
  OnlyAdvances .nop s ∧ OnlyAdvances .nop16 s
  ∧ (s.w.dawn = false → ∃ t, exec .yield s = .next t ∧ WarpOnly s t
      ∧ t.w.cur = { s.w.cur with
          pc := s.ix.next, fresh := [], since := none, place := none, deadline := none, arg := [], skip := false, xlat := 0
          yielded := true }
      ∧ { t.w with cur := s.w.cur } = s.w)

/-- 14 R305, R306; 01 R9; 02 R12: NOP and YIELD (NopsAndYield); CALL and CALLR write the link into s63, JMP and RET write nothing; a register target is read
before s63 is written; a target with bit 0 set raises ALIGN with TADDR the target. -/
def Sys2Proof.Claims.CallsJumpsAndNops : Prop := ∀ (s : State) (a : BitVec 6) (o : BitVec 25), NopsAndYield s ∧ (s.w.dawn = false →
  Calls (.call o) s (s.ix.addr + 2 * o.signExtend 64)
  ∧ ((s.w.sGet a.toNat).getLsbD 0 = false →
      OnlyJumps (.jmp a) s (s.w.sGet a.toNat) ∧ Calls (.callr a) s (s.w.sGet a.toNat))
  ∧ ((s.w.sGet 63).getLsbD 0 = false → OnlyJumps .ret s (s.w.sGet 63))
  ∧ (UserNoHandler s →
      ((s.w.sGet a.toNat).getLsbD 0 = true →
        Traps (.jmp a) s 0x03 0 (s.w.sGet a.toNat) 0 s.w.cur.active
        ∧ Traps (.callr a) s 0x03 0 (s.w.sGet a.toNat) 0 s.w.cur.active)
      ∧ ((s.w.sGet 63).getLsbD 0 = true → Traps .ret s 0x03 0 (s.w.sGet 63) 0 s.w.cur.active)))

/-- 14 R305, R306; 07 R148; 01 R9; 02 R12, R16: BRA (BranchFollowsCondition), and CALL, CALLR, JMP, RET, NOP, NOP16 and YIELD
(CallsJumpsAndNops). TMASK of a cause of the whole instruction is the
model's reading: notes/assumptions 18.md. -/
def Obligations.BranchesCallsAndNops : Prop := BranchFollowsCondition ∧ CallsJumpsAndNops

end

/-! # Special registers (07 R150) -/

section

open Sys2Proof Sys2Proof.Machine Sys2Proof.Claims

/-- What the special register of a number holds (the table of 07 R150); none for a number not in the table. -/
def Sys2Proof.Claims.specialValue (s : State) (n : Nat) : Option W64 :=
  match n with
  | 0x000 => some (BitVec.ofNat 64 s.time)
  | 0x001 => some (BitVec.ofNat 64 s.core.num)
  | 0x002 => some (BitVec.ofNat 64 (s.core.num / 80))
  | 0x003 => some (BitVec.ofNat 64 s.team.chip)
  | 0x004 => some (BitVec.ofNat 64 s.team.index)
  | 0x005 => some (BitVec.ofNat 64 s.w.wid)
  | 0x006 => some (BitVec.ofNat 64 s.team.nteam)
  | 0x007 => some (BitVec.ofNat 64 s.team.nwarp)
  | 0x008 => some s.team.launchId
  | 0x009 => some (BitVec.ofNat 64 (s.team.pgen % 2 ^ 16))
  | 0x00A => some (BitVec.ofNat 64 (s.ctx.tenant % 2 ^ 12))
  | 0x010 => some s.w.part
  | 0x011 => some s.w.rnd
  | 0x012 => some s.w.flush
  | 0x013 => some s.w.fpx
  | 0x014 => some s.w.fpe
  | 0x015 => some (BitVec.ofNat 64 (effRate s s.ctx % 2 ^ 16 * 2 ^ 32 + s.ctx.ebudLevel % 2 ^ 32))
  | 0x016 => some (BitVec.ofNat 64 s.w.blocks)
  | 0x017 => some (BitVec.ofNat 64 (s.w.stack.length * 2 ^ 8 + s.w.splits.length))
  | 0x018 => some (BitVec.ofNat 64 (s.w.count .ld + s.w.count .st * 2 ^ 6 + s.w.count .cp * 2 ^ 12
      + s.w.count .tl * 2 ^ 18 + s.w.count .cl * 2 ^ 24))
  | 0x020 => some s.w.tvec
  | 0x021 => some s.w.trap.tcause
  | 0x022 => some s.w.trap.tpc
  | 0x023 => some s.w.trap.taddr
  | 0x024 => some s.w.trap.tmask
  | 0x025 => some s.w.trap.tsub
  | 0x026 => some s.w.trap.tinfo
  | 0x030 => some s.core.spill
  | 0x031 => some s.ctx.ktvec
  | 0x032 => some s.ctx.asidReg
  | 0x033 => some s.ctx.dbgctl
  | _ => none

/-- The registers of access P, and of access RW. -/
def Sys2Proof.Claims.accessP (n : Nat) : Prop := n = 0x030 ∨ n = 0x031 ∨ n = 0x032 ∨ n = 0x033
def Sys2Proof.Claims.accessRW (n : Nat) : Prop :=
  n = 0x010 ∨ n = 0x011 ∨ n = 0x012 ∨ n = 0x013 ∨ n = 0x014 ∨ n = 0x020 ∨ n = 0x022

/-- The limits of a written value (04 R60; 07 R150; 16 R343, R351); the other writable registers have none. -/
def Sys2Proof.Claims.keepsLimits (s : State) (n : Nat) (x : W64) : Prop :=
  (n = 0x010 → x = 32 ∨ x = 16 ∨ x = 8 ∨ x = 4 ∨ x = 2)
  ∧ (n = 0x011 → 1 ≤ x.toNat ∧ x.toNat ≤ 5)
  ∧ (n = 0x012 → x.toNat < 4)
  ∧ (n = 0x013 ∨ n = 0x014 → x.toNat < 32)
  ∧ (n = 0x020 → x.toNat < 2 ^ 57)
  ∧ (n = 0x031 → x.toNat < 2 ^ 57 ∧ x.getLsbD 0 = false)
  ∧ (n = 0x033 → x.toNat < 2 ^ 57 ∧ x.toNat / 2 ^ 4 % 8 = 0 ∧ (x.getLsbD 0 = true → 1 ≤ s.dbgs)
      ∧ (x.getLsbD 1 = true ∨ x.getLsbD 2 = true → s.dbgs = 2))

/-- 07 R150: MFS writes s[SD] with the register of every number of the table, P registers in privileged mode, and changes
nothing else. -/
def Sys2Proof.Claims.SpecialRegisterReads : Prop := ∀ (s : State) (d : BitVec 6) (n : BitVec 9) (x : W64),
  specialValue s n.toNat = some x → (accessP n.toNat → s.w.cur.priv = true) → ScalarResult (.mfs d n) s d.toNat x

/-- 07 R150: MTS to a register of access RW, or of access P in privileged mode, with a value inside its limits, leaves the
value there, every other special register as it was, and no other state but DBGCTL's watch list changed. -/
def Sys2Proof.Claims.SpecialRegisterWrites : Prop := ∀ (s : State) (a : BitVec 6) (n : BitVec 9),
  s.w.dawn = false → (accessRW n.toNat ∨ (accessP n.toNat ∧ s.w.cur.priv = true)) →
  keepsLimits s n.toNat (s.w.sGet a.toNat) →
  ∃ t, exec (.mts a n) s = .next t
    ∧ specialValue t n.toNat = some (s.w.sGet a.toNat)
    ∧ (∀ m, m ≠ n.toNat → specialValue t m = specialValue s m)
    ∧ GoesOn s t s.ix.next ∧ MemorySame s t
    ∧ { t with w := s.w, ix := s.ix, core := s.core, ctx := s.ctx } = s
    ∧ { t.core with spill := s.core.spill } = s.core
    ∧ { t.ctx with ktvec := s.ctx.ktvec, asidReg := s.ctx.asidReg, dbgctl := s.ctx.dbgctl, watch := s.ctx.watch
                   watchCount := s.ctx.watchCount } = s.ctx
    ∧ (n.toNat ≠ 0x033 → t.ctx.watch = s.ctx.watch ∧ t.ctx.watchCount = s.ctx.watchCount)
    ∧ { t.w with part := s.w.part, rnd := s.w.rnd, flush := s.w.flush, fpx := s.w.fpx, fpe := s.w.fpe, tvec := s.w.tvec
                 trap := { t.w.trap with tpc := s.w.trap.tpc }, cur := s.w.cur } = s.w

/-- 07 R150: MFS and MTS (SpecialRegisterReads, SpecialRegisterWrites). That a write of ASID changes only what ASID reads, and
that SPILL has no limits, is the model's choice: notes/assumptions 20.md and 73.md. -/
def Obligations.SpecialRegisters : Prop := SpecialRegisterReads ∧ SpecialRegisterWrites

/-- 07 R150: the access checks of MFS and MTS, in their order, for user code without a handler: a number not in the table
is ILLEGAL WHY 3; a write to a register of access R is PRIV; P is PRIV; a value that breaks the limits is ILLEGAL WHY 3. -/
def Sys2Proof.Claims.SpecialRegisterChecks : Prop := ∀ (s : State) (d a : BitVec 6) (n : BitVec 9), UserNoHandler s →
  (specialValue s n.toNat = none → RaisesIllegal (.mfs d n) s 3 ∧ RaisesIllegal (.mts a n) s 3)
  ∧ (specialValue s n.toNat ≠ none → ¬ accessRW n.toNat → RaisesPriv (.mts a n) s)
  ∧ (accessP n.toNat → RaisesPriv (.mfs d n) s)
  ∧ (accessRW n.toNat → ¬ keepsLimits s n.toNat (s.w.sGet a.toNat) → RaisesIllegal (.mts a n) s 3)

/-- 07 R150, R154; 02 R22: the access checks of MFS and MTS (SpecialRegisterChecks), and an immediate shift count outside its
range is ILLEGAL WHY 3 (ShiftImmediateOutOfRange). TMASK of a cause of the whole instruction is the
model's reading: notes/assumptions 18.md. -/
def Obligations.IllegalOperands : Prop := SpecialRegisterChecks ∧ ShiftImmediateOutOfRange

/-! # Divergence (14 R307, R308, R310) -/

/-- The lowest split number that none of some splits has. -/
def Sys2Proof.Claims.LowestFree (n : Nat) (ps : List Split) : Prop :=
  (∀ p ∈ ps, p.num ≠ n) ∧ ∀ m, m < n → ∃ p ∈ ps, p.num = m

/-- 14 R308; 16 R342, R345: BRD and BRD.n. An empty side moves the split only; the stack limit raises STAGE, TSUB 0x12, and
nothing changes; otherwise an entry is pushed and the warp divides, or the other path is deferred. The new split has the
issuing split's mode and no handler, and TMASK is the split's threads: the model's readings, notes/assumptions 17.md and
18.md. The encoding example is in the last clause. -/
def Obligations.DivergentBranch : Prop :=
  (∀ (s : State) (k : BitVec 3) (n : BitVec 1) (o : BitVec 21), s.w.dawn = false → s.ix.next = s.ix.addr + 4 →
    let act := s.w.cur.active
    let taken := act &&& (if n = 1 then ~~~(s.w.kGet k.toNat) else s.w.kGet k.toNat)
    let rest := act &&& ~~~taken
    let target := s.ix.addr + 2 * o.signExtend 64
    (taken = 0 → OnlyJumps (.brd k n o) s (s.ix.addr + 4))
    ∧ (taken ≠ 0 → rest = 0 → OnlyJumps (.brd k n o) s target)
    ∧ (taken ≠ 0 → rest ≠ 0 → s.w.stack.length = 1056 → UserNoHandler s → s.w.upcall = none →
        Traps (.brd k n o) s 0x0F 0x12 0 0 act)
    ∧ (taken ≠ 0 → rest ≠ 0 → s.w.stack.length < 1056 →
        ∃ t e, exec (.brd k n o) s = .next t ∧ WarpOnly s t ∧ t.w.stack = e :: s.w.stack
          ∧ e.members = act ∧ e.av = false ∧ e.arrived = 0
          ∧ { t.w with stack := s.w.stack, cur := s.w.cur, others := s.w.others } = s.w
          ∧ { t.w.cur with pc := s.w.cur.pc, active := act, fresh := s.w.cur.fresh, since := s.w.cur.since
                           place := s.w.cur.place, deadline := s.w.cur.deadline, arg := s.w.cur.arg, skip := s.w.cur.skip
                           xlat := s.w.cur.xlat } = s.w.cur
          ∧ (s.w.splits.length < 4 → e.defer = 0 ∧ t.w.cur.active = rest ∧ t.w.cur.pc = s.ix.addr + 4
              ∧ ∃ q, t.w.others = s.w.others.filter (fun p => p.active != 0) ++ [q] ∧ q.active = taken ∧ q.pc = target
                ∧ q.priv = s.w.cur.priv ∧ q.userH = false ∧ q.supH = false ∧ LowestFree q.num s.w.splits)
          ∧ (4 ≤ s.w.splits.length → e.defer = rest ∧ e.defpc = s.ix.addr + 4 ∧ t.w.cur.active = taken
              ∧ t.w.cur.pc = target ∧ t.w.others = s.w.others)))
  ∧ (∀ (s : State) (n : BitVec 1) (o : BitVec 21), s.w.dawn = false →
      OnlyJumps (.brd 0 n o) s s.ix.next ∨ OnlyJumps (.brd 0 n o) s (s.ix.addr + 2 * o.signExtend 64))
  ∧ decodeTableWord 32 0x00005597 = some (.brd 3 1 10)

/-- The entry an RCV by threads m acts on: the newest whose MEMBERS include them. -/
def Sys2Proof.Claims.NewestWith (m : W32) (pre : List Entry) (e : Entry) : Prop :=
  (m &&& ~~~e.members) = 0 ∧ ∀ x ∈ pre, (m &&& ~~~x.members) ≠ 0

/-- What RCV makes of the entry it acts on: its first RCV records ADDR and where the merged threads go on (14 R310). -/
def Sys2Proof.Claims.atRcv (s : State) (e : Entry) : Entry :=
  if e.av then e else { e with addr := s.ix.addr, av := true, resume := s.ix.next }

/-- A split parked at an entry whose arrived threads are arr. -/
def Sys2Proof.Claims.Gathered (arr : W32) (p : Split) : Prop := p.active ≠ 0 ∧ p.rcv = true ∧ (p.active &&& ~~~arr) = 0

/-- 14 R310: RCV. Without an entry, or away from the entry's ADDR, it is a NOP. At the ADDR it goes on with the deferred
threads where there are any; it merges the parked splits, where all members have arrived, into one that continues after the
RCV, with the lowest of their numbers and in the mode of the split that has it; else the split parks. -/
def Sys2Proof.Claims.Reconvergence : Prop := ∀ (s : State), s.w.dawn = false →
  let act := s.w.cur.active
  ((∀ e ∈ s.w.stack, (act &&& ~~~e.members) ≠ 0) → OnlyAdvances .rcv s)
  ∧ (∀ pre e0 post, s.w.stack = pre ++ e0 :: post → NewestWith act pre e0 →
      let e := atRcv s e0
      let arr := e.arrived ||| act
      let Rest := fun (t : State) => WarpOnly s t ∧ { t.w with stack := s.w.stack, cur := s.w.cur, others := s.w.others } = s.w
      (e0.av = true → s.ix.addr ≠ e0.addr → OnlyAdvances .rcv s)
      ∧ (s.ix.addr = e.addr → e.defer ≠ 0 → ∃ t, exec .rcv s = .next t ∧ t.ix.retired = true ∧ Rest t
          ∧ t.w.stack = pre ++ { e with arrived := arr, defer := 0 } :: post ∧ t.w.others = s.w.others
          ∧ t.w.cur.active = e.defer ∧ t.w.cur.pc = e.defpc ∧ t.w.cur.num = s.w.cur.num ∧ t.w.cur.priv = e.dpriv)
      ∧ (s.ix.addr = e.addr → e.defer = 0 → (e.members &&& ~~~arr) = 0 → act ≠ 0 → ∃ t, exec .rcv s = .next t
          ∧ t.ix.retired = true ∧ Rest t
          ∧ t.w.stack = pre ++ post ∧ t.w.cur.active = e.members ∧ t.w.cur.pc = e.resume ∧ t.w.cur.rcv = false
          ∧ (t.w.cur.num = s.w.cur.num ∨ ∃ p ∈ s.w.others, Gathered arr p ∧ t.w.cur.num = p.num)
          ∧ t.w.cur.num ≤ s.w.cur.num ∧ (∀ p ∈ s.w.others, Gathered arr p → t.w.cur.num ≤ p.num)
          ∧ (s.w.splits.map (·.num) |>.Nodup → (t.w.cur.num = s.w.cur.num → t.w.cur.priv = s.w.cur.priv)
              ∧ ∀ p ∈ s.w.others, Gathered arr p → t.w.cur.num = p.num → t.w.cur.priv = p.priv)
          ∧ ∀ p, p ∈ t.w.others ↔ p ∈ s.w.others ∧ p.active ≠ 0 ∧ ¬ Gathered arr p)
      ∧ (s.ix.addr = e.addr → e.defer = 0 → (e.members &&& ~~~arr) ≠ 0 → ∃ t, exec .rcv s = .next t ∧ Rest t
          ∧ t.w.stack = pre ++ { e with arrived := arr } :: post ∧ t.w.others = s.w.others
          ∧ t.w.cur.active = act ∧ t.w.cur.rcv = true ∧ t.w.cur.pc = s.ix.addr ∧ t.w.cur.num = s.w.cur.num))

/-- A warp goes on after an EXIT, or no upcall that still counts ends with it (10 R231). -/
def Sys2Proof.Claims.ExitsPlainly (s : State) : Prop :=
  (∃ p ∈ s.w.others, p.active ≠ 0) ∨ ∀ u, s.w.upcall = some u → u.revoked = true

/-- 14 R307: which threads an EXIT leaves. The other splits keep their threads, PC and mode (a parked one may merge); the
deferred threads of the newest entry run at DEFPC, in the entry's mode, under the lowest free number, where all its other
members have exited or arrived; the parked splits of the newest entry merge where all its members left have arrived. -/
def Sys2Proof.Claims.ExitSurvivors (s t : State) : Prop :=
  let gone := s.w.cur.active
  let live := s.w.others.filter (fun p => p.active != 0)
  (∀ p ∈ live, p.rcv = false → p ∈ t.w.splits)
  ∧ (s.w.stack = [] → t.w.splits = live)
  ∧ (∀ e es, s.w.stack = e :: es → (e.members &&& ~~~gone) ≠ 0 → (e.defer &&& ~~~gone) ≠ 0 → live.length < 4 →
      (e.members &&& ~~~gone &&& ~~~e.defer &&& ~~~e.arrived) = 0 →
      ∃ q ∈ t.w.splits, q.active = e.defer &&& ~~~gone ∧ q.pc = e.defpc ∧ q.priv = e.dpriv ∧ LowestFree q.num live
        ∧ q.rcv = false ∧ q.userH = false ∧ q.supH = false)
  ∧ (∀ e es, s.w.stack = e :: es → (e.members &&& ~~~gone) ≠ 0 → e.av = true → (e.defer &&& ~~~gone) = 0 →
      (e.members &&& ~~~gone &&& ~~~e.arrived) = 0 → (∃ p ∈ live, Gathered (e.arrived &&& ~~~gone) p) →
      ∃ q ∈ t.w.splits, q.active = e.members &&& ~~~gone ∧ q.pc = e.resume ∧ q.rcv = false
        ∧ (∃ p ∈ live, Gathered (e.arrived &&& ~~~gone) p ∧ q.num = p.num)
        ∧ ∀ p ∈ live, Gathered (e.arrived &&& ~~~gone) p → q.num ≤ p.num)

/-- 14 R307, R303; 16 R342; 08 R188: EXIT completes. No split, member, deferred or arrived thread of the warp is a thread
that exited; no entry is empty; the other threads go on as ExitSurvivors says; the warp has ended exactly when no split is
left; a user handler active in the split ends and frees TVEC. In the dawn warp it ends the warp, and the slot is Loaded.
(The threads of other splits and of the exiting one are distinct in every state a run reaches; stated as a hypothesis.) -/
def Sys2Proof.Claims.ExitEndsThreads : Prop := ∀ (s : State),
  (s.w.dawn = true → ∃ t, exec .exit s = .next t ∧ MemorySame s t ∧ t.w.ended = true ∧ t.w.splits = [] ∧ t.w.blocks = 0
      ∧ { t.core.dawn with st := s.core.dawn.st } = s.core.dawn ∧ t.core.dawn.st = .loaded ∧ t.ws = s.ws)
  ∧ (s.w.dawn = false → ExitsPlainly s → (∀ p ∈ s.w.others, (p.active &&& s.w.cur.active) = 0) →
    ∃ t, exec .exit s = .next t
      ∧ (∀ p ∈ t.w.splits, (p.active &&& s.w.cur.active) = 0)
      ∧ (∀ e ∈ t.w.stack, e.members ≠ 0 ∧ (e.members &&& s.w.cur.active) = 0 ∧ (e.defer &&& s.w.cur.active) = 0
          ∧ (e.arrived &&& s.w.cur.active) = 0)
      ∧ ExitSurvivors s t
      ∧ (t.w.ended = true ↔ t.w.splits = [])
      ∧ (s.w.cur.userH = true → t.w.tvec = s.w.tvec &&& ~~~1#64) ∧ (s.w.cur.userH = false → t.w.tvec = s.w.tvec)
      ∧ (∀ n, t.w.sGet n = s.w.sGet n) ∧ (∀ n, t.w.kGet n = s.w.kGet n) ∧ (∀ r n, t.w.vGet r n = s.w.vGet r n)
      ∧ t.w.fz = s.w.fz ∧ t.w.fn = s.w.fn ∧ t.w.fc = s.w.fc ∧ t.w.fv = s.w.fv
      ∧ MemorySame s t ∧ t.ws = s.ws ∧ t.core = s.core ∧ t.ctx = s.ctx ∧ t.writes = s.writes)

/-- 10 R231, R232: an EXIT that ends its warp ends the upcall that the warp serves: an unsealed produce upcall and a consume
upcall fail by it, so that the walk ends, or raises the upcall anew away from the warp; any other is over. -/
def Sys2Proof.Claims.ExitEndsUpcall : Prop := ∀ (s : State) (u : Upcall) (w : WalkS), s.w.dawn = false →
  (∀ p ∈ s.w.others, p.active = 0) → s.w.stack = [] → s.w.upcall = some u → u.revoked = false → s.w.core = s.core.num →
  s.core.walks.filter (fun v => v.slot == u.slot) = [w] → w.ended = none →
  let x := upStage w u.unit u.kind u.pos
  let fails := u.kind = 2 ∨ (u.kind < 2 ∧ u.sealed = false)
  ∃ t v, exec .exit s = .next t ∧ MemorySame s t ∧ t.w.ended = true ∧ t.w.upcall = none ∧ t.findWalk s.core.num u.slot = some v
    ∧ (u.kind = 3 ∨ (u.kind < 2 ∧ u.sealed = true) → v = w)
    ∧ (fails → (w.prob.policy = 0 ∨ x.retry = true) → ∃ f, v.ended = some (false, f) ∧ f.sub = 9 ∧ f.detail = 1)
    ∧ (fails → w.prob.policy ≠ 0 → x.retry = false → u.unit < w.units.length → v.ended = none
        ∧ (upStage v u.unit u.kind u.pos).retry = true ∧ (upStage v u.unit u.kind u.pos).raised = s.time
        ∧ (upStage v u.unit u.kind u.pos).avoid = some x.warp)

/-- 14 R303, R307, R310; 10 R231; 16 R342: RCV and EXIT (Reconvergence, ExitEndsThreads, ExitEndsUpcall). Where it rests on a
reading or a choice of the model: notes/assumptions 16.md, 17.md. -/
def Obligations.ReconvergenceAndExit : Prop := Reconvergence ∧ ExitEndsThreads ∧ ExitEndsUpcall

/-! # Traps (16 R341 to R349) -/

/-- 16 R349, R343, R346: TRAP n and BKPT n from user mode, where no user handler may take it and the debugger is off, enter
KTVEC with TSUB = n and TMASK the split's threads; TPC is the next instruction for TRAP, the BKPT itself for BKPT. -/
def Sys2Proof.Claims.TrapToKernel (s : State) (n : BitVec 9) : Prop := UserNoHandler s →
  (tvecReady s.w.tvec = false →
    TrapsAt (.trap n) s s.ix.next 0x0A (n.setWidth 64) 0 (tinfoWord s.ix 0) s.w.cur.active)
  ∧ Traps (.bkpt n) s 0x0B (n.setWidth 64) 0 0 s.w.cur.active

/-- 16 R346: TRAP from user mode with TVEC.ADDR ≠ 0 and TVEC.BUSY = 0 goes to the user handler: the trap registers with DEST
0, BUSY set, the mode kept, the program counter at TVEC.ADDR × 2; nothing else changes. -/
def Sys2Proof.Claims.TrapToUserHandler (s : State) (n : BitVec 9) : Prop := CanTrap s → s.w.cur.priv = false →
  s.w.tvec.getLsbD 0 = false → s.w.tvec &&& 0x01FFFFFFFFFFFFFE#64 ≠ 0 →
  ∃ t, exec (.trap n) s = .next t ∧ WarpOnly s t
    ∧ t.w.trap = { tcause := BitVec.ofNat 64 (s.w.cur.num * 2 ^ 9 + 0x0A), tpc := s.ix.next, taddr := 0
                   tmask := s.w.cur.active.setWidth 64, tsub := n.setWidth 64, tinfo := tinfoWord s.ix 0 }
    ∧ t.w.tvec = s.w.tvec ||| 1
    ∧ t.w.cur.pc = s.w.tvec &&& 0x01FFFFFFFFFFFFFE#64 ∧ t.w.cur.userH = true ∧ t.w.cur.priv = false
    ∧ t.w.cur.supH = s.w.cur.supH ∧ t.w.cur.active = s.w.cur.active
    ∧ { t.w with trap := s.w.trap, tvec := s.w.tvec, cur := s.w.cur } = s.w

/-- 16 R346, R360: a TRAP or BKPT in a user handler goes to KTVEC with NEST 1, and the six trap registers of the interrupted
handler are kept in the user frame of the warp's record. -/
def Sys2Proof.Claims.TrapNests (s : State) (n : BitVec 9) : Prop := CanTrap s → s.w.cur.priv = false →
  s.w.cur.userH = true → s.w.tvec.getLsbD 0 = true → s.ctx.ktvec ≠ 0 → s.ctx.dbgctl.getLsbD 0 = false →
  ∀ i ∈ [Instr.trap n, .bkpt n], ∃ t, exec i s = .next t ∧ FrameSaved s t s.w.trap
    ∧ t.w.trap.tcause = BitVec.ofNat 64 (2 ^ 14 + 2 ^ 12 + s.w.cur.num * 2 ^ 9 + (match i with | .trap _ => 0x0A | _ => 0x0B))
    ∧ t.w.trap.tsub = n.setWidth 64 ∧ t.w.cur.pc = s.ctx.ktvec &&& 0x01FFFFFFFFFFFFFE#64
    ∧ t.w.cur.priv = true ∧ t.w.cur.supH = true ∧ t.w.cur.userH = true ∧ t.w.tvec = s.w.tvec
    ∧ { t.w with trap := s.w.trap, frame := s.w.frame, cur := s.w.cur, mon := s.w.mon } = s.w

/-- 16 R343, R346, R349: where TRAP and BKPT go and what their delivery writes: to KTVEC, to the user handler, and to
KTVEC from within a user handler. Where it rests on a reading or a choice of the model: notes/assumptions 18.md,
122.md. -/
def Obligations.TrapEntry : Prop := ∀ (s : State) (n : BitVec 9), TrapToKernel s n ∧ TrapToUserHandler s n ∧ TrapNests s n

/-- 16 R342: a split that raises a cause while another split of its warp is in a handler parks at the instruction with no
effect but its parking. -/
def Sys2Proof.Claims.TrapWaitsForOtherHandler : Prop := ∀ (s : State) (n : BitVec 9), s.w.dawn = false →
  s.w.others.any Split.handler = true →
  ∀ i ∈ [Instr.trap n, .bkpt n], ∃ t, exec i s = .next t ∧ WarpOnly s t
    ∧ t.w.cur.since ≠ none ∧ { t.w.cur with since := s.w.cur.since } = s.w.cur ∧ { t.w with cur := s.w.cur } = s.w
    ∧ t.ix = s.ix

/-- 16 R346, R348: a cause bound for KTVEC from a privileged split, or with KTVEC 0, is a double trap: every warp of the team
(but a dawn warp) ends with no thread, and Ablas logs the cause, the TPC and the core. -/
def Sys2Proof.Claims.DoubleTrapEndsTeam : Prop := ∀ (s : State) (n : BitVec 9), CanTrap s →
  s.ctx.dbgctl.getLsbD 0 = false → (s.w.cur.priv = true ∨ s.ctx.ktvec = 0) →
  ∃ t, exec (.bkpt n) s = .next t
    ∧ t.errLog = (0x0B, s.ix.addr, s.core.num) :: s.errLog
    ∧ t.w.ended = true ∧ t.w.splits = [] ∧ t.w.stack = []
    ∧ t.ws.length = s.ws.length
    ∧ (∀ x ∈ t.ws, x.team = s.w.team → x.dawn = false → x.ended = true ∧ x.splits = [])
    ∧ (∀ x ∈ s.ws, x.team ≠ s.w.team ∨ x.dawn = true → x ∈ t.ws)
    ∧ { t with w := s.w, ws := s.ws, errLog := s.errLog } = s ∧ MemorySame s t

/-- 16 R346, R355: with DBGCTL.DBG = 1 BKPT goes to the debugger, DEST 2. Observe logs the event and the split goes on after
it; Invasive logs it and stops the split at it. -/
def Sys2Proof.Claims.BreakpointToDebugger : Prop := ∀ (s : State) (n : BitVec 9), CanTrap s → s.ctx.dbgctl.getLsbD 0 = true →
  ∃ t r, exec (.bkpt n) s = .next t ∧ t.dbgLog = (s.core.num, r) :: s.dbgLog ∧ MemorySame s t
    ∧ r.tpc = s.ix.addr ∧ r.tsub = n.setWidth 64
    ∧ r.tcause = BitVec.ofNat 64 (2 * 2 ^ 12 + s.w.cur.num * 2 ^ 9 + s.w.cur.priv.toNat * 2 ^ 8 + 0x0B)
    ∧ t.w.trap = r
    ∧ (sessionNames s s.ctx.tenant = false → GoesOn s t s.ix.next ∧ { t.w with trap := s.w.trap, cur := s.w.cur } = s.w)
    ∧ (sessionNames s s.ctx.tenant = true → t.w.cur.stopped = true ∧ t.w.cur.pc = s.w.cur.pc ∧ t.w.cur.active = s.w.cur.active)

/-- 16 R342, R346, R348, R355: a cause that waits for another split's handler, a double trap, and a breakpoint that
the debugger receives (TrapWaitsForOtherHandler, DoubleTrapEndsTeam, BreakpointToDebugger). Where it rests on a
reading or a choice of the model: notes/assumptions 18.md, 19.md, 116.md. -/
def Obligations.TrapsElsewhere : Prop := TrapWaitsForOtherHandler ∧ DoubleTrapEndsTeam ∧ BreakpointToDebugger

/-- 16 R347, R346, R348: ERET ends the handler active in its split. It raises ILLEGAL WHY 10 where none is active, ALIGN
where TPC is odd (a user handler stays active; in privileged mode, as in a supervisor handler, the cause is a double trap),
clears BUSY for DEST 0, takes the mode PM for DEST 1 and reloads the trap
registers from the user frame where NEST is 1, and continues at TPC; nothing else changes. After a core-store WATCH the instruction
at TPC runs once without the watch check. TMASK of a cause of the whole instruction, and where the frame stands without a mapped
save area, are the model's readings: notes/assumptions 18.md, 122.md. -/
def Obligations.ReturnFromTrap : Prop := ∀ (s : State), s.w.dawn = false →
  (UserNoHandler s → s.w.cur.supH = false → RaisesIllegal .eret s 10)
  ∧ (s.w.cur.userH = true → s.w.cur.supH = false → s.w.cur.priv = false → CanTrap s → s.ctx.ktvec ≠ 0 →
      s.w.trap.tpc.getLsbD 0 = true →
      ∃ t, exec .eret s = .next t ∧ FrameSaved s t s.w.trap ∧ t.w.trap.tcause.toNat % 256 = 0x03 ∧ t.w.trap.taddr = s.w.trap.tpc
        ∧ t.w.cur.userH = true ∧ t.w.tvec = s.w.tvec)
  ∧ (s.w.cur.supH = true → s.w.cur.priv = true → CanTrap s → s.w.trap.tpc.getLsbD 0 = true →
      ∃ t, exec .eret s = .next t ∧ MemorySame s t ∧ t.errLog = (0x03, s.ix.addr, s.core.num) :: s.errLog
        ∧ t.w.ended = true ∧ t.w.splits = [] ∧ ∀ x ∈ t.ws, x.team = s.w.team → x.dawn = false → x.ended = true)
  ∧ (s.w.trap.tpc.getLsbD 0 = false → s.w.cur.userH = true → s.w.cur.supH = false → s.w.trap.tcause.toNat / 2 ^ 12 % 4 = 0 →
      ∃ t, exec .eret s = .next t ∧ WarpOnly s t ∧ t.ix.retired = true
        ∧ t.w.cur.pc = s.w.trap.tpc ∧ t.w.cur.userH = false ∧ t.w.cur.priv = s.w.cur.priv
        ∧ t.w.cur.active = s.w.cur.active ∧ t.w.tvec = s.w.tvec &&& ~~~1#64
        ∧ { t.w with tvec := s.w.tvec, cur := s.w.cur } = s.w)
  ∧ (s.w.trap.tpc.getLsbD 0 = false → s.w.cur.supH = true → s.w.trap.tcause.toNat / 2 ^ 12 % 4 = 1 →
      ∃ t, exec .eret s = .next t ∧ WarpOnly s t ∧ t.ix.retired = true
        ∧ t.w.cur.pc = s.w.trap.tpc ∧ t.w.cur.supH = false ∧ t.w.cur.userH = s.w.cur.userH
        ∧ t.w.cur.priv = s.w.trap.tcause.getLsbD 8 ∧ t.w.cur.active = s.w.cur.active
        ∧ (s.w.trap.tcause.getLsbD 14 = false → t.w.trap = s.w.trap) ∧ (s.w.trap.tcause.getLsbD 14 = true → FrameHolds s t.w.trap)
        ∧ (t.w.cur.skip = true ↔ s.w.trap.tcause.toNat % 256 = 0x10 ∧ s.w.trap.tcause.getLsbD 15 = false
            ∧ s.w.cur.watchPc = some s.w.trap.tpc)
        ∧ { t.w with trap := s.w.trap, cur := s.w.cur } = s.w)

end

/-! # Lane instructions (02 R26, R27; 07 R143 to R146, R159 to R170; 08 R171 to R180) -/

section

open Sys2Proof Sys2Proof.Machine Sys2Proof.Claims

/-- Thread n performs the instruction: it is active and the prefix's mask selects it (02 R27). -/
def Sys2Proof.Claims.Selected (s : State) (n : Nat) : Prop :=
  s.w.cur.active.getLsbD n = true ∧ ∀ p, s.ix.pfx = some p → (s.w.kGet p.k).getLsbD n = true
/-- Thread n is active, not selected, and Z = 1: it receives a clean zero (02 R27). -/
def Sys2Proof.Claims.Cleared (s : State) (n : Nat) : Prop :=
  s.w.cur.active.getLsbD n = true ∧ ∃ p, s.ix.pfx = some p ∧ p.z = true ∧ (s.w.kGet p.k).getLsbD n = false
/-- The third source (02 R26): v[VC] under a prefix, else v[VD]. -/
def Sys2Proof.Claims.third (s : State) (d : Nat) : Nat := match s.ix.pfx with
  | some p => p.vc
  | none => d
/-- The half of a scalar that H selects (07 R159). -/
def Sys2Proof.Claims.half (s : State) (x : BitVec 6) (h : BitVec 1) : W32 :=
  BitVec.ofNat 32 ((s.w.sGet x.toNat).toNat / 2 ^ (32 * h.toNat))

/-- The registers of an instruction are there: held, not standing in the save record of an MSPILL, and none that it reads
awaits the data of a load. -/
def Sys2Proof.Claims.RegsReady (s : State) (reads writes : List Nat) : Prop :=
  (∀ r ∈ reads ++ writes, s.w.holds r = true ∧ r ∉ s.w.spilled) ∧ ∀ r ∈ reads, s.w.awaits r = false

/-- Every thread's value and poison of v[r] is as before. -/
def Sys2Proof.Claims.RegSame (s t : State) (r : Nat) : Prop :=
  ∀ n, n < 32 → t.w.vGet r n = s.w.vGet r n ∧ t.w.pGet r n = s.w.pGet r n
/-- Outstanding operations are as before, but for the registers that still await their data. -/
def Sys2Proof.Claims.OpsSame (s t : State) : Prop :=
  t.w.ops.map (fun o => { o with dests := [] }) = s.w.ops.map (fun o => { o with dests := [] })

/-- What a write of the threads `on` of v[d] leaves: the values and poison given there, every other thread and register as
it was, the register bound (07 R143), and of the warp nothing else but fpx, which the caller says. -/
def Sys2Proof.Claims.VectorWrite (s t : State) (d : Nat) (on : Nat → Prop) (res : Nat → W32) (poi : Nat → Bool) : Prop :=
  (∀ n, n < 32 → on n → t.w.vGet d n = res n ∧ t.w.pGet d n = poi n)
  ∧ (∀ n, n < 32 → ¬ on n → t.w.vGet d n = s.w.vGet d n ∧ t.w.pGet d n = s.w.pGet d n)
  ∧ (∀ r, r ≠ d → RegSame s t r)
  ∧ (∀ r, r ∈ t.w.bound ↔ r = d ∨ r ∈ s.w.bound) ∧ OpsSame s t
  ∧ { t.w with v := s.w.v, vp := s.w.vp, bound := s.w.bound, ops := s.w.ops, fpx := s.w.fpx, cur := s.w.cur } = s.w

/-- FPX gains the exceptions of the selected threads, and nothing else (04 R62). -/
def Sys2Proof.Claims.FpxGains (s t : State) (exc : Nat → Exc) : Prop :=
  ∀ b, t.w.fpx.getLsbD b = true ↔ s.w.fpx.getLsbD b = true ∨ ∃ n, n < 32 ∧ Selected s n ∧ (exc n).getLsbD b = true

open Classical in
/-- The lane instruction k completes: f gives each selected thread's result and exceptions, the poison is that of the read
registers, threads that the prefix clears receive a clean zero, and nothing else changes (07 R145, R159; 02 R27). -/
def Sys2Proof.Claims.LaneCompletes (s : State) (k : Instr) (d : Nat) (reads : List Nat) (f : Nat → W32 × Exc) : Prop :=
  RegsReady s reads [d] → (∀ n, n < 32 → Selected s n → (f n).2 &&& s.w.fpe.setWidth 5 = 0) →
  ∃ t, exec k s = .next t ∧ WarpOnly s t ∧ GoesOn s t s.ix.next
    ∧ VectorWrite s t d (fun n => Selected s n ∨ Cleared s n) (fun n => if Selected s n then (f n).1 else 0)
        (fun n => if Selected s n then reads.any (fun r => s.w.pGet r n) else false)
    ∧ FpxGains s t (fun n => (f n).2)

/-- The lane instruction k raises ARITH from user mode without a handler where a selected thread raises an exception that
FPE enables: TMASK names exactly those threads, TSUB holds the enabled exceptions they raise, and no register, no FPX bit
changes (04 R62). -/
def Sys2Proof.Claims.LaneTraps (s : State) (k : Instr) (d : Nat) (reads : List Nat) (f : Nat → W32 × Exc) : Prop :=
  RegsReady s reads [d] → UserNoHandler s → tvecReady s.w.tvec = false →
  ∀ (m : W32) (e : Exc), m ≠ 0 →
    (∀ n, n < 32 → (m.getLsbD n = true ↔ Selected s n ∧ (f n).2 &&& s.w.fpe.setWidth 5 ≠ 0)) →
    (∀ b, e.getLsbD b = true ↔ ∃ n, n < 32 ∧ Selected s n ∧ ((f n).2 &&& s.w.fpe.setWidth 5).getLsbD b = true) →
    Traps k s 0x0C (e.setWidth 64) 0 0 m

/-- An integer operator on two vector operands. -/
def Sys2Proof.Claims.IntVV (s : State) (k : Instr) (d a b : BitVec 7) (f : W32 → W32 → W32) : Prop :=
  LaneCompletes s k d.toNat [a.toNat, b.toNat] (fun n => (f (s.w.vGet a.toNat n) (s.w.vGet b.toNat n), 0))
/-- An integer operator with a second operand that is the same for every thread. -/
def Sys2Proof.Claims.IntV1 (s : State) (k : Instr) (d a : BitVec 7) (b : W32) (f : W32 → W32 → W32) : Prop :=
  LaneCompletes s k d.toNat [a.toNat] (fun n => (f (s.w.vGet a.toNat n) b, 0))
/-- A unary integer operator. -/
def Sys2Proof.Claims.IntU (s : State) (k : Instr) (d a : BitVec 7) (f : W32 → W32) : Prop :=
  LaneCompletes s k d.toNat [a.toNat] (fun n => (f (s.w.vGet a.toNat n), 0))
/-- A compact form: vd ← vd op va (02 R16). -/
def Sys2Proof.Claims.IntCC (s : State) (k : Instr) (d a : BitVec 5) (f : W32 → W32 → W32) : Prop :=
  LaneCompletes s k d.toNat [d.toNat, a.toNat] (fun n => (f (s.w.vGet d.toNat n) (s.w.vGet a.toNat n), 0))

/-- Saturation to a signed 32-bit value (07 R161). -/
def Sys2Proof.Claims.saturated (x : Int) : W32 := BitVec.ofInt 32 (min (max x (-(2 ^ 31))) (2 ^ 31 - 1))
/-- Position and width of a bit field (07 R162). -/
def Sys2Proof.Claims.fieldPos (b : W32) : Nat := b.toNat % 2 ^ 5
def Sys2Proof.Claims.fieldWidth (b : W32) : Nat := min (b.toNat / 2 ^ 8 % 2 ^ 6) 32
/-- Result byte j of VPERMB (07 R163). -/
def Sys2Proof.Claims.permutedByte (a b : W32) (j : Nat) : Nat :=
  let sel := b.toNat / 2 ^ (4 * j) % 16
  let byte := a.toNat / 2 ^ (8 * (sel % 4)) % 256
  if 8 ≤ sel then (if 128 ≤ byte then 255 else 0) else if 4 ≤ sel then 0 else byte

/-- 02 R16: every compact integer form does vd ← vd op va as its 32-bit form. -/
def Sys2Proof.Claims.CompactIntegers (s : State) : Prop := ∀ (d a : BitVec 5),
  IntCC s (.vaddCompact d a) d a (fun x y => BitVec.ofNat 32 (x.toNat + y.toNat))
  ∧ IntCC s (.vsubCompact d a) d a (fun x y => BitVec.ofInt 32 (x.toInt - y.toInt))
  ∧ IntCC s (.vmulCompact d a) d a (fun x y => BitVec.ofNat 32 (x.toNat * y.toNat))
  ∧ IntCC s (.vandCompact d a) d a (· &&& ·) ∧ IntCC s (.vorCompact d a) d a (· ||| ·)
  ∧ IntCC s (.vxorCompact d a) d a (· ^^^ ·)
  ∧ IntCC s (.vshlCompact d a) d a shiftedLeft ∧ IntCC s (.vshrCompact d a) d a shiftedRight
  ∧ IntCC s (.vminCompact d a) d a lesserS ∧ IntCC s (.vmaxCompact d a) d a greaterS
  ∧ LaneCompletes s (.vmovCompact d a) d.toNat [a.toNat] (fun n => (s.w.vGet a.toNat n, 0))

/-- 07 R159, R160, R161; 02 R16: every integer lane instruction of majors 0x10, 0x1A and 0x1C and every compact integer form, for every state and operand,
prefixed or not. A shift immediate is in 0 to 31 (others: ShiftImmediateOutOfRange). -/
def Sys2Proof.Claims.VectorIntegerResults : Prop := ∀ (s : State) (d a b : BitVec 7) (x : BitVec 6) (h : BitVec 1),
  let z := half s x h
  let im : W32 := b.signExtend 32
  let mad := fun (k : Instr) (reads : List Nat) (y : Nat → W32) =>
    LaneCompletes s k d.toNat (reads ++ [third s d.toNat])
      (fun n => (BitVec.ofNat 32 ((s.w.vGet a.toNat n).toNat * (y n).toNat + (s.w.vGet (third s d.toNat) n).toNat), 0))
  (IntVV s (.vadd d a b) d a b (fun x y => BitVec.ofNat 32 (x.toNat + y.toNat))
    ∧ IntVV s (.vsub d a b) d a b (fun x y => BitVec.ofInt 32 (x.toInt - y.toInt))
    ∧ IntVV s (.vmul d a b) d a b (fun x y => BitVec.ofNat 32 (x.toNat * y.toNat))
    ∧ IntVV s (.vmulh d a b) d a b highSigned
    ∧ IntVV s (.vmulhn d a b) d a b highUnsigned
    ∧ mad (.vmad d a b) [a.toNat, b.toNat] (fun n => s.w.vGet b.toNat n)
    ∧ IntVV s (.vmin d a b) d a b lesserS ∧ IntVV s (.vmax d a b) d a b greaterS
    ∧ IntVV s (.vminn d a b) d a b lesserU ∧ IntVV s (.vmaxn d a b) d a b greaterU
    ∧ IntVV s (.vand d a b) d a b (· &&& ·) ∧ IntVV s (.vor d a b) d a b (· ||| ·)
    ∧ IntVV s (.vxor d a b) d a b (· ^^^ ·) ∧ IntVV s (.vandn d a b) d a b (fun x y => x &&& ~~~y)
    ∧ IntVV s (.vshl d a b) d a b shiftedLeft ∧ IntVV s (.vshr d a b) d a b shiftedRight)
  ∧ (IntV1 s (.vaddScalar d a x h) d a z (fun x y => BitVec.ofNat 32 (x.toNat + y.toNat))
    ∧ IntV1 s (.vsubScalar d a x h) d a z (fun x y => BitVec.ofInt 32 (x.toInt - y.toInt))
    ∧ IntV1 s (.vmulScalar d a x h) d a z (fun x y => BitVec.ofNat 32 (x.toNat * y.toNat))
    ∧ IntV1 s (.vmulhScalar d a x h) d a z highSigned
    ∧ IntV1 s (.vmulhnScalar d a x h) d a z highUnsigned
    ∧ mad (.vmadScalar d a x h) [a.toNat] (fun _ => z)
    ∧ IntV1 s (.vminScalar d a x h) d a z lesserS ∧ IntV1 s (.vmaxScalar d a x h) d a z greaterS
    ∧ IntV1 s (.vminnScalar d a x h) d a z lesserU ∧ IntV1 s (.vmaxnScalar d a x h) d a z greaterU
    ∧ IntV1 s (.vandScalar d a x h) d a z (· &&& ·) ∧ IntV1 s (.vorScalar d a x h) d a z (· ||| ·)
    ∧ IntV1 s (.vxorScalar d a x h) d a z (· ^^^ ·) ∧ IntV1 s (.vandnScalar d a x h) d a z (fun x y => x &&& ~~~y)
    ∧ IntV1 s (.vshlScalar d a x h) d a z shiftedLeft ∧ IntV1 s (.vshrScalar d a x h) d a z shiftedRight)
  ∧ (IntV1 s (.vaddi d a b) d a im (· + ·) ∧ IntV1 s (.vandi d a b) d a im (· &&& ·)
    ∧ IntV1 s (.vori d a b) d a im (· ||| ·) ∧ IntV1 s (.vxori d a b) d a im (· ^^^ ·)
    ∧ IntV1 s (.vmuli d a b) d a im (· * ·)
    ∧ (b.toNat ≤ 31 →
        IntU s (.vshli d a b) d a (fun x => BitVec.ofNat 32 (x.toNat * 2 ^ b.toNat))
        ∧ IntU s (.vshri d a b) d a (fun x => BitVec.ofNat 32 (x.toNat / 2 ^ b.toNat))
        ∧ IntU s (.vsrai d a b) d a (fun x => BitVec.ofInt 32 (x.toInt / 2 ^ b.toNat))))
  ∧ CompactIntegers s

/-- 07 R161, R162, R163: the operators of major 0x11, and VLI, VLIS (R164) and VMOV (R146). -/
def Sys2Proof.Claims.VectorBitAndLoadResults : Prop := ∀ (s : State) (d a b : BitVec 7) (i : BitVec 14),
  (IntVV s (.vsra d a b) d a b shiftedSigned
    ∧ IntVV s (.vrot d a b) d a b (fun x y =>
        BitVec.ofNat 32 (x.toNat * 2 ^ (y.toNat % 32) + x.toNat / 2 ^ (32 - y.toNat % 32)))
    ∧ IntVV s (.vabsd d a b) d a b (fun x y => BitVec.ofNat 32 (x.toInt - y.toInt).natAbs)
    ∧ IntVV s (.vadds d a b) d a b (fun x y => saturated (x.toInt + y.toInt))
    ∧ IntVV s (.vsubs d a b) d a b (fun x y => saturated (x.toInt - y.toInt))
    ∧ IntVV s (.vavg d a b) d a b (fun x y => BitVec.ofInt 32 ((x.toInt + y.toInt) / 2))
    ∧ IntVV s (.vbfx d a b) d a b (fun x y => BitVec.ofNat 32 (x.toNat / 2 ^ fieldPos y % 2 ^ fieldWidth y))
    ∧ LaneCompletes s (.vbfi d a b) d.toNat [a.toNat, b.toNat, third s d.toNat] (fun n =>
        let y := s.w.vGet b.toNat n
        let field : W32 := BitVec.ofNat 32 (2 ^ fieldWidth y - 1)
        ((s.w.vGet (third s d.toNat) n &&& ~~~(field <<< fieldPos y))
          ||| ((s.w.vGet a.toNat n &&& field) <<< fieldPos y), 0))
    ∧ IntVV s (.vpack d a b) d a b (fun x y => BitVec.ofNat 32 (y.toNat % 2 ^ 16 * 2 ^ 16 + x.toNat % 2 ^ 16))
    ∧ IntVV s (.vpermb d a b) d a b (fun x y => BitVec.ofNat 32 (permutedByte x y 0 + permutedByte x y 1 * 2 ^ 8
        + permutedByte x y 2 * 2 ^ 16 + permutedByte x y 3 * 2 ^ 24))
    ∧ IntU s (.vclz d a) d a (fun x => BitVec.ofNat 32 (leadingZeros x))
    ∧ IntU s (.vpopc d a) d a (fun x => BitVec.ofNat 32 (setBits x))
    ∧ IntU s (.vbrev d a) d a (fun x => x.reverse)
    ∧ IntU s (.vnot d a) d a (fun x => ~~~x)
    ∧ IntU s (.vabs d a) d a (fun x => BitVec.ofNat 32 x.toInt.natAbs)
    ∧ IntU s (.vneg d a) d a (fun x => BitVec.ofInt 32 (-x.toInt)))
  ∧ IntU s (.vmov d a) d a (fun x => x)
  ∧ LaneCompletes s (.vli d i) d.toNat [] (fun _ => (i.signExtend 32, 0))
  ∧ LaneCompletes s (.vlis d i) d.toNat [d.toNat]
      (fun n => (BitVec.ofNat 32 ((s.w.vGet d.toNat n).toNat * 2 ^ 14 % 2 ^ 32 ||| i.toNat), 0))

/-- 02 R16; 07 R146, R159 to R164: the integer vector instructions (VectorIntegerResults, VectorBitAndLoadResults). -/
def Obligations.VectorResults : Prop := VectorIntegerResults ∧ VectorBitAndLoadResults

/-- The rounding mode, flushing and saturation of the issuing instruction (02 R27, 04 R60). -/
def Sys2Proof.Claims.floatEnv (s : State) : LaneEnv :=
  { mode := match s.ix.pfx with
      | some p => if p.rm = 0 then s.w.rnd.toNat % 8 else p.rm
      | none => s.w.rnd.toNat % 8
    fi := s.w.flush.getLsbD 0, fo := s.w.flush.getLsbD 1
    sat := match s.ix.pfx with
      | some p => p.sat
      | none => false }

/-- A floating lane instruction of each operator (07 R166): P says of each instruction, with its destination, the registers
it reads and the operation on a thread's operands, what the caller states. -/
def Sys2Proof.Claims.EveryFloat (s : State) (P : Instr → Nat → List Nat → (Nat → W32 × Exc) → Prop) : Prop :=
  ∀ (d a b : BitVec 7) (x : BitVec 6) (h : BitVec 1) (d5 a5 : BitVec 5),
  let env := floatEnv s
  let va := fun n => s.w.vGet a.toNat n
  let vb := fun n => s.w.vGet b.toNat n
  let vc := fun n => s.w.vGet (third s d.toNat) n
  let two := fun (k : Instr) (f : LaneOp) => P k d.toNat [a.toNat, b.toNat] (fun n => f env (va n) (vb n) 0)
  let one := fun (k : Instr) (f : LaneOp) => P k d.toNat [a.toNat] (fun n => f env (va n) 0 0)
  let three := fun (k : Instr) (f : LaneOp) =>
    P k d.toNat [a.toNat, b.toNat, third s d.toNat] (fun n => f env (va n) (vb n) (vc n))
  let scalar := fun (k : Instr) (f : LaneOp) => P k d.toNat [a.toNat] (fun n => f env (va n) (half s x h) 0)
  let compact := fun (k : Instr) (f : LaneOp) =>
    P k d5.toNat [d5.toNat, a5.toNat] (fun n => f env (s.w.vGet d5.toNat n) (s.w.vGet a5.toNat n) 0)
  (two (.fadd d a b) (onF32 opAdd) ∧ two (.fsub d a b) (onF32 opSub) ∧ two (.fmul d a b) (onF32 opMul)
    ∧ three (.ffma d a b) (onF32 opFma) ∧ two (.fmin d a b) (onF32 opMin) ∧ two (.fmax d a b) (onF32 opMax)
    ∧ one (.fabs d a) (onF32 opAbs) ∧ one (.fneg d a) (onF32 opNeg) ∧ two (.fscale d a b) (onF32 opScale)
    ∧ one (.frnd d a) (onF32 opRnd) ∧ one (.fclass d a) (onF32 opClass) ∧ two (.fcopys d a b) (onF32 opCopys))
  ∧ (two (.faddBf16x2 d a b) (onPacked fmtBF16 opAdd) ∧ two (.fsubBf16x2 d a b) (onPacked fmtBF16 opSub)
    ∧ two (.fmulBf16x2 d a b) (onPacked fmtBF16 opMul) ∧ three (.ffmaBf16x2 d a b) (onPacked fmtBF16 opFma)
    ∧ two (.fminBf16x2 d a b) (onPacked fmtBF16 opMin) ∧ two (.fmaxBf16x2 d a b) (onPacked fmtBF16 opMax)
    ∧ one (.fabsBf16x2 d a) (onPacked fmtBF16 opAbs) ∧ one (.fnegBf16x2 d a) (onPacked fmtBF16 opNeg)
    ∧ two (.fscaleBf16x2 d a b) (onPacked fmtBF16 opScale) ∧ one (.frndBf16x2 d a) (onPacked fmtBF16 opRnd)
    ∧ one (.fclassBf16x2 d a) (onPacked fmtBF16 opClass) ∧ two (.fcopysBf16x2 d a b) (onPacked fmtBF16 opCopys)
    ∧ three (.fdot2Bf16x2 d a b) (dot2 fmtBF16))
  ∧ (two (.faddF16x2 d a b) (onPacked fmtF16 opAdd) ∧ two (.fsubF16x2 d a b) (onPacked fmtF16 opSub)
    ∧ two (.fmulF16x2 d a b) (onPacked fmtF16 opMul) ∧ three (.ffmaF16x2 d a b) (onPacked fmtF16 opFma)
    ∧ two (.fminF16x2 d a b) (onPacked fmtF16 opMin) ∧ two (.fmaxF16x2 d a b) (onPacked fmtF16 opMax)
    ∧ one (.fabsF16x2 d a) (onPacked fmtF16 opAbs) ∧ one (.fnegF16x2 d a) (onPacked fmtF16 opNeg)
    ∧ two (.fscaleF16x2 d a b) (onPacked fmtF16 opScale) ∧ one (.frndF16x2 d a) (onPacked fmtF16 opRnd)
    ∧ one (.fclassF16x2 d a) (onPacked fmtF16 opClass) ∧ two (.fcopysF16x2 d a b) (onPacked fmtF16 opCopys)
    ∧ three (.fdot2F16x2 d a b) (dot2 fmtF16))
  ∧ (scalar (.faddScalar d a x h) (onF32 opAdd) ∧ scalar (.fsubScalar d a x h) (onF32 opSub)
    ∧ scalar (.fmulScalar d a x h) (onF32 opMul)
    ∧ P (.ffmaScalar d a x h) d.toNat [a.toNat, third s d.toNat] (fun n => onF32 opFma env (va n) (half s x h) (vc n))
    ∧ scalar (.fminScalar d a x h) (onF32 opMin) ∧ scalar (.fmaxScalar d a x h) (onF32 opMax)
    ∧ scalar (.fscaleScalar d a x h) (onF32 opScale) ∧ scalar (.fcopysScalar d a x h) (onF32 opCopys))
  ∧ (compact (.faddCompact d5 a5) (onF32 opAdd) ∧ compact (.fsubCompact d5 a5) (onF32 opSub)
    ∧ compact (.fmulCompact d5 a5) (onF32 opMul) ∧ compact (.fminCompact d5 a5) (onF32 opMin)
    ∧ compact (.fmaxCompact d5 a5) (onF32 opMax))

/-! ## What the exact result becomes (04 R52 to R61) -/

/-- The sign of an encoding. -/
def Sys2Proof.Claims.signOf (f : FFmt) (x : Nat) : Bool := x / 2 ^ (f.width - 1) % 2 == 1
/-- The exponent field of all ones. -/
def Sys2Proof.Claims.topField (f : FFmt) : Nat := 2 ^ (f.width - 1 - f.mant) - 1

/-- The value of a finite encoding (04 R52, R54): none for a NaN or an infinity. -/
def Sys2Proof.Claims.valueOf (f : FFmt) (x : Nat) : Option ℚ :=
  let e := x / 2 ^ f.mant % 2 ^ (f.width - 1 - f.mant)
  let m := x % 2 ^ f.mant
  let sign : ℚ := if signOf f x then -1 else 1
  if e = topField f ∧ (f.inf = true ∨ m = 2 ^ f.mant - 1) then none
  else if e = 0 then some (sign * m * 2 ^ (1 - (f.bias : ℤ) - f.mant))
  else some (sign * (2 ^ f.mant + m) * 2 ^ ((e : ℤ) - f.bias - f.mant))

/-- The power of two behind the largest finite value of a format with infinities, and its smallest normal value. -/
noncomputable def Sys2Proof.Claims.beyond (f : FFmt) : ℝ := 2 ^ ((topField f : ℤ) - f.bias)
noncomputable def Sys2Proof.Claims.normalMin (f : FFmt) : ℝ := 2 ^ (1 - (f.bias : ℤ))

/-- The encoding r, of value v, is what the exact q becomes under a mode (04 R59): 1 the nearest value, a tie to the even
encoding; 2 the nearest not beyond q in magnitude; 3 the nearest not above q; 4 the nearest not below q; 5 the nearest, a tie
away from zero. -/
def Sys2Proof.Claims.RoundsTo (f : FFmt) (mode : Nat) (q : ℝ) (r : Nat) (v : ℚ) : Prop :=
  valueOf f r = some v ∧ ∀ y (w : ℚ), y < 2 ^ f.width → valueOf f y = some w →
    (mode = 1 → |(v : ℝ) - q| ≤ |(w : ℝ) - q| ∧ (|(v : ℝ) - q| = |(w : ℝ) - q| → w ≠ v → r % 2 = 0))
    ∧ (mode = 2 → |(v : ℝ)| ≤ |q| ∧ 0 ≤ (v : ℝ) * q ∧ (|(w : ℝ)| ≤ |q| → |w| ≤ |v|))
    ∧ (mode = 3 → (v : ℝ) ≤ q ∧ ((w : ℝ) ≤ q → w ≤ v))
    ∧ (mode = 4 → q ≤ v ∧ (q ≤ w → v ≤ w))
    ∧ (mode = 5 → |(v : ℝ) - q| ≤ |(w : ℝ) - q| ∧ (|(v : ℝ) - q| = |(w : ℝ) - q| → |w| ≤ |v|))

/-- A mode that takes q to an infinity (04 R59). -/
def Sys2Proof.Claims.Overflows (f : FFmt) (mode : Nat) (q : ℝ) : Prop :=
  let step : ℝ := beyond f / 2 ^ (f.mant + 1)
  ((mode = 1 ∨ mode = 5) ∧ beyond f - step / 2 ≤ |q|) ∨ (mode = 3 ∧ q < -(beyond f - step)) ∨ (mode = 4 ∧ beyond f - step < q)

/-- A result and its exceptions are the exact q, not 0, rounded once (04 R59, R61; no SAT, no flushing): NX where the value is not
q, OF where q rounds beyond the largest value, UF where it is inexact and below the smallest normal one, no NV, no DZ. -/
def Sys2Proof.Claims.RoundedOnce (f : FFmt) (mode : Nat) (q : ℝ) (r : Nat × Exc) : Prop :=
  (Overflows f mode q → r.2 = 0x14 ∧ (0 < q → r.1 = topField f * 2 ^ f.mant)
    ∧ (q < 0 → r.1 = 2 ^ (f.width - 1) + topField f * 2 ^ f.mant))
  ∧ (¬ Overflows f mode q → ∃ v, RoundsTo f mode q r.1 v ∧ (signOf f r.1 = true ↔ q < 0)
    ∧ (r.2.getLsbD 4 = true ↔ (v : ℝ) ≠ q) ∧ (r.2.getLsbD 2 = true ↔ beyond f ≤ |q|)
    ∧ (|q| ≤ normalMin f - normalMin f / 2 ^ (f.mant + 1) → (v : ℝ) ≠ q → r.2.getLsbD 3 = true)
    ∧ (normalMin f ≤ |q| ∨ (v : ℝ) = q → r.2.getLsbD 3 = false)
    ∧ r.2.getLsbD 1 = false ∧ r.2.getLsbD 0 = false)

/-- The integer that x rounds to in a mode (07 R166, 08 R178). -/
def Sys2Proof.Claims.RoundsToInt (mode : Nat) (x : ℚ) (z : ℤ) : Prop :=
  (mode = 1 → 2 * |(z : ℚ) - x| ≤ 1 ∧ (2 * |(z : ℚ) - x| = 1 → z % 2 = 0))
  ∧ (mode = 2 → |(z : ℚ)| ≤ |x| ∧ |x| < |(z : ℚ)| + 1 ∧ 0 ≤ z * x)
  ∧ (mode = 3 → (z : ℚ) ≤ x ∧ x < z + 1) ∧ (mode = 4 → x ≤ z ∧ (z : ℚ) < x + 1)
  ∧ (mode = 5 → 2 * |(z : ℚ) - x| ≤ 1 ∧ (2 * |(z : ℚ) - x| = 1 → |x| ≤ |(z : ℚ)|))

/-- 04 R59, R61, R63; 02 R27; 07 R166, R167, R169: on finite operands the arithmetic operators give their exact result rounded once;
an exact zero sum of opposite operands is +0, and -0 under RDN; FRND gives an integer, without NX; FMIN and FMAX one of the
operands. FI replaces subnormal operands by zeros first, SAT an infinite result by the largest value, and FO a subnormal result by
a zero, with UF and NX. -/
def Sys2Proof.Claims.FloatRoundedOnce : Prop := ∀ (mode : Nat), 1 ≤ mode → mode ≤ 5 →
  ∀ f ∈ [fmtF32, fmtBF16, fmtF16], ∀ (a b c : Nat), a < 2 ^ f.width → b < 2 ^ f.width → c < 2 ^ f.width →
  let env : LaneEnv := { mode := mode }
  (∀ x y z, valueOf f a = some x → valueOf f b = some y → valueOf f c = some z →
    (x + y ≠ 0 → RoundedOnce f mode (x + y) (opAdd f env a b c))
    ∧ (x - y ≠ 0 → RoundedOnce f mode (x - y) (opSub f env a b c))
    ∧ (x * y ≠ 0 → RoundedOnce f mode (x * y) (opMul f env a b c))
    ∧ (x * y + z ≠ 0 → RoundedOnce f mode (x * y + z) (opFma f env a b c))
    ∧ (x ≠ 0 → x + y = 0 → opAdd f env a b c = (if mode = 3 then 2 ^ (f.width - 1) else 0, 0))
    ∧ (x ≠ 0 → x - y = 0 → opSub f env a b c = (if mode = 3 then 2 ^ (f.width - 1) else 0, 0))
    ∧ (∀ p ∈ [(opMin f env a b c, min x y), (opMax f env a b c, max x y)],
        p.1.2 = 0 ∧ (p.1.1 = a ∨ p.1.1 = b) ∧ valueOf f p.1.1 = some p.2))
  ∧ (∀ x, valueOf f a = some x →
    (x ≠ 0 → RoundedOnce f mode (x * 2 ^ (BitVec.ofNat f.width b).toInt) (opScale f env a b c))
    ∧ (∃ z, RoundsToInt mode x z ∧ valueOf f (opRnd f env a b c).1 = some (z : ℚ) ∧ (opRnd f env a b c).2 = 0
        ∧ signOf f (opRnd f env a b c).1 = signOf f a))
  ∧ (∀ op ∈ [opAdd, opSub, opMul, opFma],
    let tiny := fun (x : Nat) => x / 2 ^ f.mant % 2 ^ (f.width - 1 - f.mant) = 0 ∧ x % 2 ^ f.mant ≠ 0
    let zeroed := fun (x : Nat) => if tiny x then x / 2 ^ (f.width - 1) * 2 ^ (f.width - 1) else x
    let plain := op f env a b c
    op f { env with fi := true } a b c = op f env (zeroed a) (zeroed b) (zeroed c)
    ∧ op f { env with fo := true } a b c = (if tiny plain.1 then (zeroed plain.1, plain.2 ||| 0x18) else plain)
    ∧ op f { env with sat := true } a b c = (if plain.1 % 2 ^ (f.width - 1) = topField f * 2 ^ f.mant then (plain.1 - 1, plain.2) else plain))
  ∧ (f ≠ fmtF32 → ∀ (va vb vc : W32) (x0 x1 y0 y1 z : ℚ),
    valueOf f (va.toNat % 2 ^ 16) = some x0 → valueOf f (va.toNat / 2 ^ 16) = some x1 →
    valueOf f (vb.toNat % 2 ^ 16) = some y0 → valueOf f (vb.toNat / 2 ^ 16) = some y1 → valueOf fmtF32 vc.toNat = some z →
    z + x0 * y0 + x1 * y1 ≠ 0 →
    RoundedOnce fmtF32 mode (z + x0 * y0 + x1 * y1) ((dot2 f env va vb vc).1.toNat, (dot2 f env va vb vc).2))

/-- 07 R166 to R170, 02 R16, R27, 04 R59, R61, R62, R63: every floating lane instruction of majors 0x13, 0x14, 0x15 and 0x1B and the
compact f32 forms completes with its operation's result and exceptions where FPE enables none that it raises; on finite operands
that is the exact result rounded once (FloatRoundedOnce). Where it rests on a reading or a choice of the model:
notes/assumptions 13.md. -/
def Obligations.FloatResults : Prop := (∀ s, EveryFloat s (LaneCompletes s)) ∧ FloatRoundedOnce

/-- FCVT and the special functions, in each of their types (08 R176 to R180). -/
def Sys2Proof.Claims.EveryConvert (s : State) (P : Instr → Nat → List Nat → (Nat → W32 × Exc) → Prop) : Prop :=
  ∀ (d a : BitVec 7) (t y : BitVec 4) (p : BitVec 2),
  let env := floatEnv s
  let va := fun n => s.w.vGet a.toNat n
  (cvtOk t.toNat y.toNat p.toNat = true → typeWidth t.toNat = 32 →
      P (.fcvt t d a y p) d.toNat [a.toNat] (fun n => cvtLane t.toNat y.toNat p.toNat env (va n) 0 0))
  ∧ (cvtOk t.toNat y.toNat p.toNat = true → typeWidth t.toNat ≠ 32 →
      P (.fcvt t d a y p) d.toNat [a.toNat, d.toNat]
        (fun n => cvtLane t.toNat y.toNat p.toNat env (va n) 0 (s.w.vGet d.toNat n)))
  ∧ ∀ f ∈ [(fun y => Instr.fexp2 d a y, 0), (fun y => .flog2 d a y, 1), (fun y => .frcp d a y, 2), (fun y => .frsq d a y, 3),
      (fun y => .fsqrt d a y, 4), (fun y => .fsinpi d a y, 5), (fun y => .fcospi d a y, 6), (fun y => .ftanh d a y, 7),
      (fun y => .fsigm d a y, 8), (fun y => .fgelu d a y, 9), (fun y => .ferf d a y, 10)],
    P (f.1 0) d.toNat [a.toNat] (fun n => onF32 (spOp f.2) env (va n) 0 0)
    ∧ P (f.1 1) d.toNat [a.toNat] (fun n => onPacked fmtBF16 (spOp f.2) env (va n) 0 0)
    ∧ P (f.1 2) d.toNat [a.toNat] (fun n => onPacked fmtF16 (spOp f.2) env (va n) 0 0)

/-- The value of an element of a type (00 R4; 04 R52, R54, R56), none for a NaN, an infinity or .b32. -/
def Sys2Proof.Claims.elementValue (ty x : Nat) : Option ℚ :=
  let term := fun (s c : Nat) => if c = 7 then (0 : ℚ) else (if s = 1 then -1 else 1) / 2 ^ c
  match ty with
  | 0 => valueOf fmtF32 x | 1 => valueOf fmtBF16 x | 2 => valueOf fmtF16 x | 3 => valueOf fmtE4 x | 4 => valueOf fmtE5 x
  | 5 => some (term (x / 2 ^ 7 % 2) (x / 2 ^ 4 % 8) + term (x / 2 ^ 3 % 2) (x % 8))
  | 6 => some (term (x / 2 ^ 3 % 2) (x % 8))
  | 7 => some ((BitVec.ofNat 32 x).toInt : ℚ) | 8 => some x
  | 9 => some ((BitVec.ofNat 16 x).toInt : ℚ) | 10 => some x
  | 11 => some ((BitVec.ofNat 8 x).toInt : ℚ) | 12 => some x
  | _ => none

/-- 04 R55, R58; 08 R177, R178, R179: an element of value q converts, with no flushing and no SAT, into a float as q rounded once (e4
up to its largest value); into an integer type as q rounded to an integer, or the end of the range with NV; into d8 or d4 as the
nearest value, a tie to the smaller magnitude, with NX where it is another; an integer into another keeps its low bits. A NaN gives
a canonical NaN, a zero for an integer type, or a dyadic zero. .b32 copies. -/
def Sys2Proof.Claims.ConvertsOnce : Prop := ∀ (mode src x : Nat), 1 ≤ mode → mode ≤ 5 → src < 13 → x < 2 ^ typeWidth src →
  let env : LaneEnv := { mode := mode }
  let ints := [(7, 32, (-(2 ^ 31) : ℤ), (2 ^ 31 - 1 : ℤ)), (8, 32, 0, 2 ^ 32 - 1), (9, 16, -(2 ^ 15), 2 ^ 15 - 1), (10, 16, 0, 2 ^ 16 - 1),
    (11, 8, -(2 ^ 7), 2 ^ 7 - 1), (12, 8, 0, 2 ^ 8 - 1)]
  (∀ q, elementValue src x = some q →
    (∀ d ∈ [(0, fmtF32), (1, fmtBF16), (2, fmtF16), (4, fmtE5)],
      (q ≠ 0 → RoundedOnce d.2 mode q (convert env d.1 src x))
      ∧ (q = 0 → (convert env d.1 src x).1 % 2 ^ (d.2.width - 1) = 0 ∧ (convert env d.1 src x).2 = 0))
    ∧ (q ≠ 0 → |q| ≤ 448 → ∃ v, RoundsTo fmtE4 mode q (convert env 3 src x).1 v
        ∧ ((convert env 3 src x).2.getLsbD 4 = true ↔ v ≠ q))
    ∧ (∀ d ∈ ints, src < 7 → ∃ z, RoundsToInt mode q z
        ∧ (d.2.2.1 ≤ z → z ≤ d.2.2.2 → convert env d.1 src x = ((z % 2 ^ d.2.1).toNat, if (z : ℚ) = q then 0 else 0x10))
        ∧ (z < d.2.2.1 → convert env d.1 src x = ((d.2.2.1 % 2 ^ d.2.1).toNat, 1))
        ∧ (d.2.2.2 < z → convert env d.1 src x = ((d.2.2.2 % 2 ^ d.2.1).toNat, 1)))
    ∧ (∀ d ∈ ints, 7 ≤ src → convert env d.1 src x = ((q.num % 2 ^ d.2.1).toNat, 0))
    ∧ (∀ d ∈ [5, 6], src < 5 → ∃ v, elementValue d (convert env d src x).1 = some v
        ∧ (∀ y w, y < 2 ^ typeWidth d → elementValue d y = some w → |v - q| ≤ |w - q| ∧ (|v - q| = |w - q| → |v| ≤ |w|))
        ∧ (convert env d src x).2 = (if v = q then 0 else 0x10)))
  ∧ (∀ g, typeFloat src = some g → isNaN (fdecode g x) = true →
      (∀ d h, typeFloat d = some h → (convert env d src x).1 = (if h = fmtE4 then 0x7F
          else topField h * 2 ^ h.mant + 2 ^ (h.mant - 1)))
      ∧ (∀ d ∈ ints, convert env d.1 src x = (0, 1)) ∧ convert env 5 src x = (0x77, 1) ∧ convert env 6 src x = (0x7, 1))
  ∧ convert env 13 src x = (x, 0)

/-- 08 R180, R181: FRCP, FRSQ and FSQRT give their exact result rounded once, f32 results to the nearest value whatever the mode; the
eleven functions' values at the edges of their domains, with the flags listed there; a negative operand of FLOG2, FRSQ and
FSQRT and a NaN of any; FEXP2 of an integer and FLOG2 of a power of two are exact. -/
def Sys2Proof.Claims.SpecialPoints : Prop := ∀ (mode : Nat), 1 ≤ mode → mode ≤ 5 →
  let env : LaneEnv := { mode := mode }
  (∀ f ∈ [fmtF32, fmtBF16, fmtF16], ∀ (a : Nat) (x : ℚ), a < 2 ^ f.width → valueOf f a = some x →
    let m := if f = fmtF32 then 1 else mode
    (x ≠ 0 → RoundedOnce f m (1 / (x : ℝ)) (spOp 2 f env a 0 0))
    ∧ (0 < x → RoundedOnce f m (1 / √(x : ℝ)) (spOp 3 f env a 0 0) ∧ RoundedOnce f m √(x : ℝ) (spOp 4 f env a 0 0))
    ∧ (x < 0 → ∀ n ∈ [1, 3, 4], spOp n f env a 0 0 = (topField f * 2 ^ f.mant + 2 ^ (f.mant - 1), 1)))
  ∧ (∀ a n, isNaN (fdecode fmtF32 a) = true →
      spOp n fmtF32 env a 0 0 = (0x7FC00000, if isSig (fdecode fmtF32 a) then 1 else 0))
  ∧ (∀ p ∈ [(0, 0xFF800000, 0, 0), (0, 0x7F800000, 0x7F800000, 0), (0, 0, 0x3F800000, 0), (0, 0x80000000, 0x3F800000, 0),
      (1, 0, 0xFF800000, 2), (1, 0x80000000, 0xFF800000, 2), (1, 0xFF800000, 0x7FC00000, 1), (1, 0x7F800000, 0x7F800000, 0),
      (2, 0, 0x7F800000, 2), (2, 0x80000000, 0xFF800000, 2), (2, 0x7F800000, 0, 0), (2, 0xFF800000, 0x80000000, 0),
      (3, 0, 0x7F800000, 2), (3, 0x80000000, 0xFF800000, 2), (3, 0xFF800000, 0x7FC00000, 1), (3, 0x7F800000, 0, 0),
      (4, 0, 0, 0), (4, 0x80000000, 0x80000000, 0), (4, 0xFF800000, 0x7FC00000, 1), (4, 0x7F800000, 0x7F800000, 0),
      (5, 0x7F800000, 0x7FC00000, 1), (5, 0xFF800000, 0x7FC00000, 1), (5, 0, 0, 0), (5, 0x80000000, 0x80000000, 0),
      (6, 0x7F800000, 0x7FC00000, 1), (6, 0xFF800000, 0x7FC00000, 1), (6, 0, 0x3F800000, 0), (6, 0x80000000, 0x3F800000, 0),
      (7, 0x7F800000, 0x3F800000, 0), (7, 0xFF800000, 0xBF800000, 0), (7, 0, 0, 0), (7, 0x80000000, 0x80000000, 0),
      (8, 0xFF800000, 0, 0), (8, 0x7F800000, 0x3F800000, 0), (8, 0, 0x3F000000, 0), (8, 0x80000000, 0x3F000000, 0),
      (9, 0xFF800000, 0x80000000, 0), (9, 0x7F800000, 0x7F800000, 0), (9, 0, 0, 0), (9, 0x80000000, 0x80000000, 0),
      (10, 0x7F800000, 0x3F800000, 0), (10, 0xFF800000, 0xBF800000, 0), (10, 0, 0, 0), (10, 0x80000000, 0x80000000, 0)],
    spOp p.1 fmtF32 env p.2.1 0 0 = (p.2.2.1, BitVec.ofNat 5 p.2.2.2))
  ∧ (∀ (a : Nat) (n : ℤ), a < 2 ^ 32 → -126 ≤ n → n ≤ 127 →
    (valueOf fmtF32 a = some (n : ℚ) →
      valueOf fmtF32 (spOp 0 fmtF32 env a 0 0).1 = some (2 ^ n) ∧ (spOp 0 fmtF32 env a 0 0).2 = 0)
    ∧ (valueOf fmtF32 a = some (2 ^ n) →
      valueOf fmtF32 (spOp 1 fmtF32 env a 0 0).1 = some (n : ℚ) ∧ (spOp 1 fmtF32 env a 0 0).2 = 0))

/-- 04 R55, R58; 08 R176 to R181: FCVT with accepted operands, and the eleven special functions on f32, packed bf16 and packed f16,
complete with their operation's result and exceptions; a narrow FCVT keeps the other elements of vd. What a conversion gives
(ConvertsOnce), and the special functions at their exact points (SpecialPoints). Where it rests on
a reading or a choice of the model: notes/assumptions 9.md, 11.md. -/
def Obligations.ConvertAndSpecialResults : Prop := (∀ s, EveryConvert s (LaneCompletes s)) ∧ ConvertsOnce ∧ SpecialPoints

/-- 04 R62: every floating lane instruction, FCVT and special function raises ARITH, with nothing written, where a selected thread raises an exception
that FPE enables. -/
def Sys2Proof.Claims.FloatTrapsWriteNothing : Prop := ∀ s, EveryFloat s (LaneTraps s) ∧ EveryConvert s (LaneTraps s)

/-- 04 R53; 07 R167, R168: what the float operators give on special operands, with FI and FO off and no SAT: a NaN operand of
FADD, FSUB, FMUL, FSCALE and FRND gives the canonical NaN, with NV exactly for a signalling one; FMIN and FMAX return the
other operand; FABS, FNEG and FCOPYS change only the sign; FCLASS sets exactly one of ten bits. -/
def Sys2Proof.Claims.FloatSpecialOperands : Prop := ∀ (a b : W32) (mode : Nat),
  let env : LaneEnv := { mode := mode }
  let nan := fun (x : W32) => x.toNat / 2 ^ 23 % 2 ^ 8 = 255 ∧ x.toNat % 2 ^ 23 ≠ 0
  let sig := fun (x : W32) => nan x ∧ x.getLsbD 22 = false
  ((nan a ∨ nan b) → ∀ op ∈ [opAdd, opSub, opMul],
      (onF32 op env a b 0).1 = 0x7FC00000 ∧ ((onF32 op env a b 0).2 = 1 ↔ sig a ∨ sig b)
      ∧ ((onF32 op env a b 0).2 = 0 ↔ ¬ (sig a ∨ sig b)))
  ∧ (nan a → ∀ op ∈ [opScale, opRnd], (onF32 op env a b 0).1 = 0x7FC00000 ∧ ((onF32 op env a b 0).2 = 1 ↔ sig a))
  ∧ (nan a → ¬ nan b → ∀ op ∈ [opMin, opMax], (onF32 op env a b 0).1 = b ∧ (onF32 op env b a 0).1 = b)
  ∧ (nan a → nan b → ∀ op ∈ [opMin, opMax], (onF32 op env a b 0).1 = 0x7FC00000)
  ∧ onF32 opAbs env a b 0 = (a &&& 0x7FFFFFFF, 0)
  ∧ onF32 opNeg env a b 0 = (a ^^^ 0x80000000, 0)
  ∧ onF32 opCopys env a b 0 = ((a &&& 0x7FFFFFFF) ||| (b &&& 0x80000000), 0)
  ∧ (∃ j, j < 10 ∧ onF32 opClass env a b 0 = (BitVec.ofNat 32 (2 ^ j), 0))

/-- 04 R53, R62; 07 R167, R168: floating-point traps and special operands (FloatTrapsWriteNothing, FloatSpecialOperands). TMASK of a cause of the whole instruction is the
model's reading: notes/assumptions 18.md. -/
def Obligations.FloatTrapsAndSpecials : Prop := FloatTrapsWriteNothing ∧ FloatSpecialOperands

/-- The comparison of 07 R165 on two operands; FN 10 to 15 on f32 values. -/
def Sys2Proof.Claims.VcmpTrue (c : Nat) (a b : W32) : Prop :=
  (c = 0 ∧ a = b) ∨ (c = 1 ∧ a ≠ b) ∨ (c = 2 ∧ a.toInt < b.toInt) ∨ (c = 3 ∧ b.toInt ≤ a.toInt)
  ∨ (c = 4 ∧ a.toInt ≤ b.toInt) ∨ (c = 5 ∧ b.toInt < a.toInt)
  ∨ (c = 6 ∧ a.toNat < b.toNat) ∨ (c = 7 ∧ b.toNat ≤ a.toNat)
  ∨ (c = 8 ∧ a.toNat ≤ b.toNat) ∨ (c = 9 ∧ b.toNat < a.toNat)
  ∨ (10 ≤ c ∧ (condF32 c a b).1 = true)
/-- The exceptions of a comparison: none for FN 0 to 9. -/
def Sys2Proof.Claims.vcmpExc (c : Nat) (a b : W32) : Exc := if c < 10 then 0 else (condF32 c a b).2

/-- The f32 conditions (07 R165): FEQ, FNE, FLT and FLE compare the values, +0 and -0 alike and the infinities at the ends, and no
NaN is equal, less or ordered; FUN and FORD tell whether one is a NaN. FLT and FLE raise NV for any NaN, the others for a
signalling one. -/
def Sys2Proof.Claims.FloatConditions : Prop := ∀ (a b : W32),
  let nan := fun (x : W32) => x.toNat / 2 ^ 23 % 2 ^ 8 = 255 ∧ x.toNat % 2 ^ 23 ≠ 0
  let sig := fun (x : W32) => nan x ∧ x.getLsbD 22 = false
  let key := fun (x : W32) => if x.getLsbD 31 then -((x.toNat % 2 ^ 31 : Nat) : Int) else ((x.toNat % 2 ^ 31 : Nat) : Int)
  let some_ := nan a ∨ nan b
  ((condF32 10 a b).1 = true ↔ ¬ some_ ∧ key a = key b) ∧ ((condF32 11 a b).1 = true ↔ some_ ∨ key a ≠ key b)
  ∧ ((condF32 12 a b).1 = true ↔ ¬ some_ ∧ key a < key b) ∧ ((condF32 13 a b).1 = true ↔ ¬ some_ ∧ key a ≤ key b)
  ∧ ((condF32 14 a b).1 = true ↔ some_) ∧ ((condF32 15 a b).1 = true ↔ ¬ some_)
  ∧ (∀ c ∈ [12, 13], (some_ → (condF32 c a b).2 = 1) ∧ (¬ some_ → (condF32 c a b).2 = 0))
  ∧ (∀ c ∈ [10, 11, 14, 15], (sig a ∨ sig b → (condF32 c a b).2 = 1) ∧ (¬ (sig a ∨ sig b) → (condF32 c a b).2 = 0))

/-- 07 R165, R149; 02 R27: VCMP writes the selected threads' bits of k[VD] with the comparison, clears those that Z clears,
and leaves every other bit and mask; a write to k0 is discarded. A poisoned operand in a selected thread raises POISON, an
enabled NV raises ARITH, and no mask bit is written. TMASK of a cause of the whole instruction is the
model's reading: notes/assumptions 18.md. What the f32 conditions are: FloatConditions. -/
def Obligations.CompareIntoMask : Prop := FloatConditions ∧ ∀ (s : State) (c : BitVec 4) (k : BitVec 3) (a b : BitVec 7),
  RegsReady s [a.toNat, b.toNat] [] →
  let va := fun n => s.w.vGet a.toNat n
  let vb := fun n => s.w.vGet b.toNat n
  let poisoned := fun n => s.w.pGet a.toNat n = true ∨ s.w.pGet b.toNat n = true
  let enabled := fun n => vcmpExc c.toNat (va n) (vb n) &&& s.w.fpe.setWidth 5 ≠ 0
  ((∀ n, n < 32 → Selected s n → ¬ poisoned n ∧ ¬ enabled n) →
    ∃ t, exec (.vcmp c k a b) s = .next t ∧ WarpOnly s t ∧ GoesOn s t s.ix.next ∧ MasksBut k.toNat s t
      ∧ (∀ n, n < 32 → k ≠ 0 →
          ((t.w.kGet k.toNat).getLsbD n = true ↔
            (Selected s n ∧ VcmpTrue c.toNat (va n) (vb n))
            ∨ (¬ Selected s n ∧ ¬ Cleared s n ∧ (s.w.kGet k.toNat).getLsbD n = true)))
      ∧ FpxGains s t (fun n => vcmpExc c.toNat (va n) (vb n))
      ∧ { t.w with k := s.w.k, fpx := s.w.fpx, cur := s.w.cur } = s.w)
  ∧ (UserNoHandler s → ∀ m : W32, m ≠ 0 → (∀ n, n < 32 → (m.getLsbD n = true ↔ Selected s n ∧ poisoned n)) →
      (∀ n, n < 32 → Selected s n → ¬ enabled n) → Traps (.vcmp c k a b) s 0x06 0 0 0 m)
  ∧ (UserNoHandler s → tvecReady s.w.tvec = false → ∀ m : W32, m ≠ 0 →
      (∀ n, n < 32 → (m.getLsbD n = true ↔ Selected s n ∧ enabled n)) →
      (∀ n, n < 32 → Selected s n → ¬ poisoned n) → s.w.fpe.setWidth 5 = (1 : Exc) →
      Traps (.vcmp c k a b) s 0x0C 1 0 0 m)

end

/-! # Across lanes, packed fields, the prefix, the dictionary and the dawn slot (02 R18 to R28; 08 R171 to R191) -/

section

open Sys2Proof Sys2Proof.Machine Sys2Proof.Claims

/-- The tile width, and the active threads of thread n's tile in ascending order (07 R151, 08 R171). -/
def Sys2Proof.Claims.tileWidth (s : State) : Nat := s.w.part.toNat % 2 ^ 6
def Sys2Proof.Claims.tileOf (s : State) (n : Nat) : List Nat :=
  (List.range 32).filter (fun u => s.w.cur.active.getLsbD u && u / tileWidth s == n / tileWidth s)
def Sys2Proof.Claims.tileStart (s : State) (n : Nat) : Nat := tileWidth s * (n / tileWidth s)

/-- k writes v[d] in every active thread with a value and a poison bit that `val` describes, and nothing else (08 R171). -/
def Sys2Proof.Claims.WritesActive (s : State) (k : Instr) (d : Nat) (reads : List Nat) (val : W32 → Bool → Nat → Prop) : Prop :=
  RegsReady s reads [d] →
  ∃ t, exec k s = .next t ∧ WarpOnly s t ∧ GoesOn s t s.ix.next ∧ t.w.fpx = s.w.fpx
    ∧ VectorWrite s t d (fun n => s.w.cur.active.getLsbD n = true) (fun n => t.w.vGet d n) (fun n => t.w.pGet d n)
    ∧ ∀ n, n < 32 → s.w.cur.active.getLsbD n = true → val (t.w.vGet d n) (t.w.pGet d n) n

/-- 08 R175: VLANE, VTHR, VSEL (with the mask of its prefix, else k0; poison follows the selected operand) and VMOVS write
every active thread. -/
def Sys2Proof.Claims.LaneIdentityAndSelect (s : State) (d a b : BitVec 7) : Prop := ∀ (x : BitVec 6) (h : BitVec 1),
  let k := match s.ix.pfx with
    | some p => s.w.kGet p.k
    | none => 0xFFFFFFFF
  WritesActive s (.vlane d) d.toNat [] (fun v p n => v = BitVec.ofNat 32 (n % tileWidth s) ∧ p = false)
  ∧ WritesActive s (.vthr d) d.toNat [] (fun v p n => v = BitVec.ofNat 32 (s.w.wid * 32 + n) ∧ p = false)
  ∧ WritesActive s (.vsel d a b) d.toNat [a.toNat, b.toNat] (fun v p n =>
      let r := if k.getLsbD n then a.toNat else b.toNat
      v = s.w.vGet r n ∧ p = s.w.pGet r n)
  ∧ WritesActive s (.vmovs d x h) d.toNat [] (fun v p _ => v = half s x h ∧ p = false)

/-- 08 R173, R175: VLANE, VTHR, VSEL and VMOVS (LaneIdentityAndSelect); the five shuffle forms deliver the source thread's value, active or not; the result is poisoned where the value
or the index read is. -/
def Obligations.LanesMove : Prop := ∀ (s : State) (d a b : BitVec 7) (l : BitVec 5),
  LaneIdentityAndSelect s d a b ∧ (s.w.dawn = false →
  let W := tileWidth s
  let x := fun n => (s.w.vGet b.toNat n).toNat
  let from_ := fun (src : Nat → Nat) (v : W32) (p : Bool) (n : Nat) =>
    v = s.w.vGet a.toNat (src n) ∧ (p = true ↔ s.w.pGet a.toNat (src n) = true ∨ s.w.pGet b.toNat n = true)
  WritesActive s (.shfli d a b) d.toNat [a.toNat, b.toNat] (from_ (fun n => tileStart s n + x n % W))
  ∧ WritesActive s (.shflu d a b) d.toNat [a.toNat, b.toNat] (from_ (fun n => if x n < W ∧ x n ≤ n % W then n - x n else n))
  ∧ WritesActive s (.shfld d a b) d.toNat [a.toNat, b.toNat]
      (from_ (fun n => if x n < W ∧ n % W + x n < W then n + x n else n))
  ∧ WritesActive s (.shflx d a b) d.toNat [a.toNat, b.toNat]
      (from_ (fun n => tileStart s n + (n % W ^^^ (x n % 2 ^ 5 &&& (W - 1)))))
  ∧ WritesActive s (.bcast d a l) d.toNat [a.toNat] (fun v p n =>
      let u := tileStart s n + l.toNat % W
      v = s.w.vGet a.toNat u ∧ p = s.w.pGet a.toNat u))

/-- 08 R171, R173: votes, BALLOT and MATCH take contributions from the active threads of the tile only; a poisoned
contribution, or bit index, poisons the result. -/
def Sys2Proof.Claims.VotesAndBallots : Prop := ∀ (s : State) (d a b : BitVec 7), s.w.dawn = false →
  let v := s.w.vGet a.toNat
  let poi := fun n => ∃ u ∈ tileOf s n, s.w.pGet a.toNat u = true
  WritesActive s (.voteany d a) d.toNat [a.toNat] (fun r p n =>
      (r = 1 ∨ r = 0) ∧ (r = 1 ↔ ∃ u ∈ tileOf s n, v u ≠ 0) ∧ (p = true ↔ poi n))
  ∧ WritesActive s (.voteall d a) d.toNat [a.toNat] (fun r p n =>
      (r = 1 ∨ r = 0) ∧ (r = 1 ↔ ∀ u ∈ tileOf s n, v u ≠ 0) ∧ (p = true ↔ poi n))
  ∧ WritesActive s (.ballot d a b) d.toNat [a.toNat, b.toNat] (fun r p n =>
      (∀ j, j < 32 → (r.getLsbD j = true ↔
        ∃ u ∈ tileOf s n, u % tileWidth s = j ∧ (v u).getLsbD ((s.w.vGet b.toNat n).toNat % 32) = true))
      ∧ (p = true ↔ poi n ∨ s.w.pGet b.toNat n = true))
  ∧ WritesActive s (.matchLanes d a) d.toNat [a.toNat] (fun r p n =>
      (∀ j, j < 32 → (r.getLsbD j = true ↔ ∃ u ∈ tileOf s n, u % tileWidth s = j ∧ v u = v n)) ∧ (p = true ↔ poi n))

/-- 08 R174: the integer reductions over the active threads of the tile, and SCANADD's inclusive prefix. -/
def Sys2Proof.Claims.IntegerReductions : Prop := ∀ (s : State) (d a : BitVec 7), s.w.dawn = false →
  let v := s.w.vGet a.toNat
  let poi := fun (p : Bool) (n : Nat) => p = true ↔ ∃ u ∈ tileOf s n, s.w.pGet a.toNat u = true
  let before := fun n => (tileOf s n).filter (fun u => decide (u ≤ n))
  WritesActive s (.redadd d a) d.toNat [a.toNat] (fun r p n =>
      r = BitVec.ofNat 32 ((tileOf s n).map (fun u => (v u).toNat)).sum ∧ poi p n)
  ∧ WritesActive s (.redmin d a) d.toNat [a.toNat] (fun r p n =>
      (∃ u ∈ tileOf s n, r = v u) ∧ (∀ u ∈ tileOf s n, r.toInt ≤ (v u).toInt) ∧ poi p n)
  ∧ WritesActive s (.redmax d a) d.toNat [a.toNat] (fun r p n =>
      (∃ u ∈ tileOf s n, r = v u) ∧ (∀ u ∈ tileOf s n, (v u).toInt ≤ r.toInt) ∧ poi p n)
  ∧ WritesActive s (.redand d a) d.toNat [a.toNat] (fun r p n =>
      (∀ j, j < 32 → (r.getLsbD j = true ↔ ∀ u ∈ tileOf s n, (v u).getLsbD j = true)) ∧ poi p n)
  ∧ WritesActive s (.redor d a) d.toNat [a.toNat] (fun r p n =>
      (∀ j, j < 32 → (r.getLsbD j = true ↔ ∃ u ∈ tileOf s n, (v u).getLsbD j = true)) ∧ poi p n)
  ∧ WritesActive s (.redxor d a) d.toNat [a.toNat] (fun r p n =>
      (∀ j, j < 32 → (r.getLsbD j = true ↔ ((tileOf s n).filter (fun u => (v u).getLsbD j)).length % 2 = 1)) ∧ poi p n)
  ∧ WritesActive s (.scanadd d a) d.toNat [a.toNat] (fun r p n =>
      r = BitVec.ofNat 32 ((before n).map (fun u => (v u).toNat)).sum
      ∧ (p = true ↔ ∃ u ∈ before n, s.w.pGet a.toNat u = true))

/-- 08 R171, R173, R174: votes, ballots and integer reductions (VotesAndBallots, IntegerReductions). -/
def Obligations.VotesAndReductions : Prop := VotesAndBallots ∧ IntegerReductions

/-- A floating instruction across lanes completes where FPE enables no exception that an active thread raises: f gives each
active thread's delivered bits and exceptions, poi its poison. -/
def Sys2Proof.Claims.FloatAcross (s : State) (k : Instr) (d a : Nat) (f : Nat → FRes) (poi : Nat → Prop) : Prop :=
  RegsReady s [a] [d] →
  (∀ n, n < 32 → s.w.cur.active.getLsbD n = true → (f n).exc &&& s.w.fpe.setWidth 5 = 0) →
  ∃ t, exec k s = .next t ∧ WarpOnly s t ∧ GoesOn s t s.ix.next
    ∧ VectorWrite s t d (fun n => s.w.cur.active.getLsbD n = true) (fun n => BitVec.ofNat 32 (f n).bits) (fun n => t.w.pGet d n)
    ∧ (∀ n, n < 32 → s.w.cur.active.getLsbD n = true → (t.w.pGet d n = true ↔ poi n))
    ∧ ∀ b, t.w.fpx.getLsbD b = true ↔ s.w.fpx.getLsbD b = true
        ∨ ∃ n, n < 32 ∧ s.w.cur.active.getLsbD n = true ∧ (f n).exc.getLsbD b = true

/-- The tree of 04 R74 over the lanes of n's tile: inactive lanes hold the identity, FI applies to the leaves. -/
def Sys2Proof.Claims.treeNode (op : Nat → Nat → FRes) (s : State) (a id n : Nat) : Nat → Nat → FRes
  | 0, l =>
    ⟨if s.w.cur.active.getLsbD (tileStart s n + l) then
        flushIn (s.w.flush.getLsbD 0) fmtF32 (s.w.vGet a (tileStart s n + l)).toNat else id, 0⟩
  | h + 1, l =>
    let x := treeNode op s a id n h l
    let y := treeNode op s a id n h (l + 2 ^ h)
    let r := op x.bits y.bits
    ⟨r.bits, x.exc ||| y.exc ||| r.exc⟩

/-- The aligned blocks of lanes 0 to t, of decreasing power-of-two size, and the tree's nodes of those blocks added from left to
right (04 R75): the value of lane t of n's tile. -/
def Sys2Proof.Claims.scanned (s : State) (a n t : Nat) : FRes :=
  let add := fun (acc : Nat × Option FRes) (h : Nat) =>
    let x := treeNode addRne s a 0x80000000 n h acc.1
    (acc.1 + 2 ^ h, some (match acc.2 with
      | none => x
      | some y => ⟨(addRne y.bits x.bits).bits, y.exc ||| x.exc ||| (addRne y.bits x.bits).exc⟩))
  ((([5, 4, 3, 2, 1, 0].filter (fun h => (t + 1) / 2 ^ h % 2 == 1)).foldl add (0, none)).2).getD ⟨0x80000000, 0⟩

/-- 08 R174; 04 R74, R75: REDFADD, REDFMAX, REDFMIN and SCANFADD deliver the tree's value after FO to every active
thread, poisoned where a contribution is, with the exceptions of the tile's tree. Where it rests on a reading or a
choice of the model: notes/assumptions 13.md. -/
def Obligations.FloatReductions : Prop := ∀ (s : State) (d a : BitVec 7), s.w.dawn = false →
  let root := fun (op : Nat → Nat → FRes) (id n : Nat) =>
    flushOut (s.w.flush.getLsbD 1) fmtF32 (treeNode op s a.toNat id n (Nat.log2 (tileWidth s)) 0)
  let poi := fun n => ∃ u ∈ tileOf s n, s.w.pGet a.toNat u = true
  FloatAcross s (.redfadd d a) d.toNat a.toNat (root addRne 0x80000000) poi
  ∧ FloatAcross s (.redfmax d a) d.toNat a.toNat (root nodeMax 0xFF800000) poi
  ∧ FloatAcross s (.redfmin d a) d.toNat a.toNat (root nodeMin 0x7F800000) poi
  ∧ (∀ exc : Nat → Exc,
      (∀ n b, (exc n).getLsbD b = true ↔ (treeNode addRne s a.toNat 0x80000000 n (Nat.log2 (tileWidth s)) 0).exc.getLsbD b = true
        ∨ ∃ u ∈ tileOf s n, (scanned s a.toNat n (u % tileWidth s)).exc.getLsbD b = true) →
      FloatAcross s (.scanfadd d a) d.toNat a.toNat
        (fun n => flushOut (s.w.flush.getLsbD 1) fmtF32 ⟨(scanned s a.toNat n (n % tileWidth s)).bits, exc n⟩)
        (fun n => ∃ u ∈ tileOf s n, u ≤ n ∧ s.w.pGet a.toNat u = true))

/-- Bit p of the team's scratchpad, bit 0 the lowest bit of its first byte. -/
def Sys2Proof.Claims.scratchBit (s : State) (p : Nat) : Bool :=
  (memRead s.core.sram (s.team.sbase + p / 8)).getLsbD (p % 8)
/-- Whether a granule under n bytes of the team's scratchpad is poisoned. -/
def Sys2Proof.Claims.scratchPoison (s : State) (off n : Nat) : Prop := granPoisoned s.core.sp (s.team.sbase + off) n = true

/-- 08 R182, R183: BDEC takes the w bits at bit address base + v[VA] × w of the scratchpad, zero- or sign-extended;
LUTX takes the entry v[VA] mod 2^n of the table at t0; a poisoned index or granule poisons the result; nothing else
changes. Where it rests on a reading or a choice of the model: notes/assumptions 27.md. -/
def Obligations.PackedFieldsAndTables : Prop := ∀ (s : State) (d a : BitVec 7) (x : BitVec 6),
  let base := (s.w.sGet x.toNat).toNat % 2 ^ 32
  let w := (s.w.sGet x.toNat).toNat / 2 ^ 32 % 2 ^ 5
  let n := (s.w.sGet x.toNat).toNat / 2 ^ 32 % 2 ^ 4
  let idx := fun t => (s.w.vGet a.toNat t).toNat
  let at_ := fun t => base + idx t * w
  (1 ≤ w → w ≤ 16 → (∀ t, t < 32 → s.w.cur.active.getLsbD t = true → (at_ t + w - 1) / 8 < s.team.ssize) →
    let poi := fun t => s.w.pGet a.toNat t = true ∨ scratchPoison s (at_ t / 8) ((at_ t + w - 1) / 8 + 1 - at_ t / 8)
    WritesActive s (.bdecZ d a x) d.toNat [a.toNat] (fun v p t =>
      (∀ j, j < 32 → v.getLsbD j = (decide (j < w) && scratchBit s (at_ t + j))) ∧ (p = true ↔ poi t))
    ∧ WritesActive s (.bdecS d a x) d.toNat [a.toNat] (fun v p t =>
      (∀ j, j < 32 → v.getLsbD j = scratchBit s (at_ t + min j (w - 1))) ∧ (p = true ↔ poi t)))
  ∧ ∀ k ∈ [(Instr.lutxB32 d a x, 4), (Instr.lutxB16 d a x, 2)],
      n ≤ 8 → base % k.2 = 0 → base + k.2 * 2 ^ n ≤ s.team.ssize →
      WritesActive s k.1 d.toNat [a.toNat] (fun v p t =>
        (∀ j, j < 32 → v.getLsbD j = (decide (j < 8 * k.2) && scratchBit s (8 * (base + k.2 * (idx t % 2 ^ n)) + j)))
        ∧ (p = true ↔ s.w.pGet a.toNat t = true ∨ scratchPoison s (base + k.2 * (idx t % 2 ^ n)) k.2))

/-- 07 R146, R143: VKILL of registers of blocks held, none awaiting data: where SPLITS reads 1 (one split, no stack entry) they are unbound and read 0 with
poison clear; in a divergent warp the active threads' values become 0 and no entry is freed; nothing else changes. -/
def Obligations.VkillFreesRegisters : Prop := ∀ (s : State) (d a : BitVec 7), s.w.dawn = false → d.toNat ≤ a.toNat →
  (∀ r, d.toNat ≤ r → r ≤ a.toNat → s.w.holds r = true ∧ r ∉ s.w.spilled ∧ s.w.awaits r = false) →
  ∃ t, exec (.vkill d a) s = .next t ∧ WarpOnly s t ∧ GoesOn s t s.ix.next
    ∧ (∀ r n, n < 32 → r < d.toNat ∨ a.toNat < r → t.w.vGet r n = s.w.vGet r n ∧ t.w.pGet r n = s.w.pGet r n)
    ∧ (s.w.splits.length = 1 ∧ s.w.stack = [] → ∀ r, d.toNat ≤ r → r ≤ a.toNat →
        r ∉ t.w.bound ∧ ∀ n, n < 32 → t.w.vGet r n = 0 ∧ t.w.pGet r n = false)
    ∧ (s.w.splits.length ≠ 1 ∨ s.w.stack ≠ [] → ∀ r, d.toNat ≤ r → r ≤ a.toNat → r ∈ t.w.bound ∧ ∀ n, n < 32 →
        (s.w.cur.active.getLsbD n = true → t.w.vGet r n = 0 ∧ t.w.pGet r n = false)
        ∧ (s.w.cur.active.getLsbD n = false → t.w.vGet r n = s.w.vGet r n ∧ t.w.pGet r n = s.w.pGet r n))
    ∧ OpsSame s t
    ∧ { t.w with v := s.w.v, vp := s.w.vp, bound := s.w.bound, ops := s.w.ops, spilled := s.w.spilled
                 cur := s.w.cur } = s.w

/-- The instructions a PFX may precede (02 R24). -/
def Sys2Proof.Claims.mayFollowPfx : Instr → Bool
  | .vadd _ _ _ | .vsub _ _ _ | .vmul _ _ _ | .vmulh _ _ _ | .vmulhn _ _ _ | .vmad _ _ _ | .vmin _ _ _ | .vmax _ _ _
  | .vminn _ _ _ | .vmaxn _ _ _ | .vand _ _ _ | .vor _ _ _ | .vxor _ _ _ | .vandn _ _ _ | .vshl _ _ _ | .vshr _ _ _
  | .vsra _ _ _ | .vrot _ _ _ | .vabsd _ _ _ | .vadds _ _ _ | .vsubs _ _ _ | .vavg _ _ _ | .vbfx _ _ _ | .vbfi _ _ _
  | .vpack _ _ _ | .vpermb _ _ _ | .vclz _ _ | .vpopc _ _ | .vbrev _ _ | .vnot _ _ | .vabs _ _ | .vneg _ _
  | .vcmp _ _ _ _ | .fadd _ _ _ | .fsub _ _ _ | .fmul _ _ _ | .ffma _ _ _ | .fmin _ _ _ | .fmax _ _ _ | .fabs _ _
  | .fneg _ _ | .fscale _ _ _ | .frnd _ _ | .fclass _ _ | .fcopys _ _ _ | .faddBf16x2 _ _ _ | .fsubBf16x2 _ _ _
  | .fmulBf16x2 _ _ _ | .ffmaBf16x2 _ _ _ | .fminBf16x2 _ _ _ | .fmaxBf16x2 _ _ _ | .fabsBf16x2 _ _ | .fnegBf16x2 _ _
  | .fscaleBf16x2 _ _ _ | .frndBf16x2 _ _ | .fclassBf16x2 _ _ | .fcopysBf16x2 _ _ _ | .fdot2Bf16x2 _ _ _
  | .faddF16x2 _ _ _ | .fsubF16x2 _ _ _ | .fmulF16x2 _ _ _ | .ffmaF16x2 _ _ _ | .fminF16x2 _ _ _ | .fmaxF16x2 _ _ _
  | .fabsF16x2 _ _ | .fnegF16x2 _ _ | .fscaleF16x2 _ _ _ | .frndF16x2 _ _ | .fclassF16x2 _ _ | .fcopysF16x2 _ _ _
  | .fdot2F16x2 _ _ _ | .fcvt _ _ _ _ _ | .fexp2 _ _ _ | .flog2 _ _ _ | .frcp _ _ _ | .frsq _ _ _ | .fsqrt _ _ _
  | .fsinpi _ _ _ | .fcospi _ _ _ | .ftanh _ _ _ | .fsigm _ _ _ | .fgelu _ _ _ | .ferf _ _ _ | .vsel _ _ _
  | .vaddScalar _ _ _ _ | .vsubScalar _ _ _ _ | .vmulScalar _ _ _ _ | .vmulhScalar _ _ _ _ | .vmulhnScalar _ _ _ _
  | .vmadScalar _ _ _ _ | .vminScalar _ _ _ _ | .vmaxScalar _ _ _ _ | .vminnScalar _ _ _ _ | .vmaxnScalar _ _ _ _
  | .vandScalar _ _ _ _ | .vorScalar _ _ _ _ | .vxorScalar _ _ _ _ | .vandnScalar _ _ _ _ | .vshlScalar _ _ _ _
  | .vshrScalar _ _ _ _ | .faddScalar _ _ _ _ | .fsubScalar _ _ _ _ | .fmulScalar _ _ _ _ | .ffmaScalar _ _ _ _
  | .fminScalar _ _ _ _ | .fmaxScalar _ _ _ _ | .fscaleScalar _ _ _ _ | .fcopysScalar _ _ _ _ | .vaddi _ _ _
  | .vandi _ _ _ | .vori _ _ _ | .vxori _ _ _ | .vshli _ _ _ | .vshri _ _ _ | .vsrai _ _ _ | .vmuli _ _ _ => true
  | _ => false

/-- A successor's major and function; the successors of 02 R24. -/
def Sys2Proof.Claims.wordMajor (w : Nat) : Nat := w / 2 % 2 ^ 6
def Sys2Proof.Claims.wordFn (w : Nat) : Nat := w / 2 ^ 7 % 2 ^ 4
def Sys2Proof.Claims.permitted (w : Nat) : Prop := w % 2 = 1
  ∧ (wordMajor w ∈ [0x10, 0x11, 0x12, 0x13, 0x14, 0x15, 0x16, 0x17, 0x1A, 0x1B, 0x1C] ∨ (wordMajor w = 0x19 ∧ wordFn w = 6))

/-- The fields of a PFX that its successor permits: the table of 02 R25. K is permitted with each. -/
def Sys2Proof.Claims.fieldsPermitted (r : BitVec 3) (z : BitVec 1) (c : BitVec 7) (e : BitVec 2) (x : BitVec 1) (w : Nat) : Prop :=
  (wordMajor w ∈ [0x10, 0x1A, 0x11, 0x12, 0x1C, 0x19] → r = 0 ∧ x = 0)
  ∧ (wordMajor w ∈ [0x12, 0x16, 0x17, 0x1C, 0x19] → c = 0)
  ∧ (wordMajor w ∈ [0x10, 0x1A] → wordFn w ≠ 5 → c = 0) ∧ (wordMajor w = 0x11 → wordFn w ≠ 7 → c = 0)
  ∧ (wordMajor w ∈ [0x13, 0x1B] → wordFn w ≠ 3 → c = 0)
  ∧ (wordMajor w ∈ [0x14, 0x15] → wordFn w ≠ 3 → wordFn w ≠ 12 → c = 0)
  ∧ (wordMajor w = 0x19 → z = 0 ∧ e = 0)

/-- The word of a PFX with its fields (02 R24): major 0x3E, K, RM, Z, VC, EC, SAT. -/
def Sys2Proof.Claims.prefixWord (k r : BitVec 3) (z : BitVec 1) (c : BitVec 7) (e : BitVec 2) (x : BitVec 1) : Nat :=
  0x7D + k.toNat * 2 ^ 7 + r.toNat * 2 ^ 10 + z.toNat * 2 ^ 13 + c.toNat * 2 ^ 14 + e.toNat * 2 ^ 21 + x.toNat * 2 ^ 23

open Classical in
/-- The instruction p is a prefixed VADD, and completes: under the mask k[K] the active threads receive the sums, with the
operands' poison; the other active threads keep what they hold, or receive a clean zero with Z; the split goes on after both
words (02 R27, R28; 07 R160). -/
def Sys2Proof.Claims.PrefixedAdd (s : State) (p : Instr) (k : BitVec 3) (z : BitVec 1) (d a b : BitVec 7) : Prop :=
  RegsReady s [a.toNat, b.toNat] [d.toNat] →
  let act := fun n => s.w.cur.active.getLsbD n = true
  let sel := fun n => (s.w.kGet k.toNat).getLsbD n = true
  ∃ t, exec p s = .next t ∧ WarpOnly s t ∧ GoesOn s t (s.ix.addr + 8) ∧ t.w.fpx = s.w.fpx
    ∧ VectorWrite s t d.toNat (fun n => act n ∧ (sel n ∨ z = 1))
        (fun n => if sel n then s.w.vGet a.toNat n + s.w.vGet b.toNat n else 0)
        (fun n => if sel n then s.w.pGet a.toNat n || s.w.pGet b.toNat n else false)

/-- 02 R24, R25, R27, R28: a PFX and a permitted successor are one instruction: the successor performed with the prefix's mask,
mode, third source and saturation, continuing after both (for VADD the whole effect is written out); RM 6 or 7 is ILLEGAL WHY 3, a successor that is none WHY 5, a field
it does not permit WHY 6, with TINFO.P set and TPC at the PFX. -/
def Sys2Proof.Claims.PrefixedInstruction : Prop :=
  ∀ (s : State) (k r : BitVec 3) (z : BitVec 1) (c : BitVec 7) (e : BitVec 2) (x : BitVec 1) (w n : Nat),
  let p := prefixWord k r z c e x
  let own := { s with ix := { s.ix with p := true, word := BitVec.ofNat 32 p } }
  fetchInstr own (s.ix.addr + 4) = .word w n →
  (∀ i, r.toNat ≤ 5 → permitted w → fieldsPermitted r z c e x w → decodeWord w = .ok i → mayFollowPfx i = true →
    exec (.pfx k r z c e x) s = exec i { s with ix := { s.ix with
      p := true, word := BitVec.ofNat 32 w, next := s.ix.addr + 8
      pfx := some { k := k.toNat, rm := r.toNat, z := z == 1, vc := c.toNat, sat := x == 1 } } }
    ∧ ∃ t, exec (.pfx k r z c e x) s = .next t)
  ∧ (∀ d a b, r = 0 → c = 0 → x = 0 → decodeWord w = .ok (.vadd d a b) → PrefixedAdd s (.pfx k r z c e x) k z d a b)
  ∧ (UserNoHandler s →
      let why := fun (m : Nat) (word : Nat) => TrapsAt (.pfx k r z c e x) s s.ix.addr 0x01 0 0
        (tinfoWord { s.ix with p := true } (m * 2 ^ 32 + word % 2 ^ 32)) s.w.cur.active
      (6 ≤ r.toNat → why 3 p)
      ∧ (r.toNat ≤ 5 → ¬ permitted w → why 5 w)
      ∧ (r.toNat ≤ 5 → permitted w → ¬ fieldsPermitted r z c e x w → why 6 p))

/-- The instructions a dictionary entry may hold, by their encoding: all but PFX and DICT (02 R18). -/
def Sys2Proof.Claims.mayBeEntry : Instr → Bool
  | .pfx _ _ _ _ _ _ => false
  | .dict _ => false
  | i => !isEvent i

/-- 02 R18, R20: DICT performs its entry as if it stood there, continuing 2 bytes on (for SADD the whole effect is written out); an index past the dictionary is ILLEGAL
WHY 7, a refused entry WHY 8, each with TINFO.D and IDX. -/
def Sys2Proof.Claims.DictionaryEntry : Prop := ∀ (s : State) (i : BitVec 10), s.w.dawn = false →
  let own := { s with ix := { s.ix with dict := some i.toNat } }
  (∀ w n e, i.toNat < s.team.dictn → fetchEntry own (s.team.dict + BitVec.ofNat 64 (4 * i.toNat)) = .word w n →
    entryRefused w = false → decodeWord w = .ok e → mayBeEntry e = true →
    exec (.dict i) s = exec e { s with ix := { s.ix with
      dict := some i.toNat, word := BitVec.ofNat 32 w, next := s.ix.addr + 2 } }
    ∧ ∃ t, exec (.dict i) s = .next t)
  ∧ (∀ w n d a b, i.toNat < s.team.dictn → fetchEntry own (s.team.dict + BitVec.ofNat 64 (4 * i.toNat)) = .word w n →
      entryRefused w = false → decodeWord w = .ok (.sadd d a b) → s.ix.next = s.ix.addr + 2 →
      ScalarResult (.dict i) s d.toNat (BitVec.ofNat 64 ((s.w.sGet a.toNat).toNat + (s.w.sGet b.toNat).toNat)))
  ∧ (UserNoHandler s →
      let why := fun (m : Nat) (word : Nat) => TrapsAt (.dict i) s s.ix.addr 0x01 0 0
        (tinfoWord { s.ix with dict := some i.toNat } (m * 2 ^ 32 + word % 2 ^ 32)) s.w.cur.active
      (s.team.dictn ≤ i.toNat → why 7 s.ix.word.toNat)
      ∧ (∀ w n, i.toNat < s.team.dictn → fetchEntry own (s.team.dict + BitVec.ofNat 64 (4 * i.toNat)) = .word w n →
          entryRefused w = true → why 8 w))

/-- 02 R18, R20, R24 to R28: PFX and DICT (PrefixedInstruction, DictionaryEntry). TMASK of a cause of the whole instruction is the
model's reading: notes/assumptions 18.md. -/
def Obligations.PrefixAndDictionary : Prop := PrefixedInstruction ∧ DictionaryEntry

/-- The dawn slot and its queues are all of the core that changes, and of the warp only the register written (08 R189). -/
def Sys2Proof.Claims.DawnOnly (s t : State) : Prop :=
  { t with w := s.w, ix := s.ix, core := s.core } = s ∧ { t.core with dawn := s.core.dawn } = s.core ∧ MemorySame s t

/-- 08 R189: QPOP takes the oldest entry of a queue and QPEEK reads it, into every active thread with its poison; QPUSH in the
dawn warp appends all 32 threads' values and poison; nothing else changes. -/
def Sys2Proof.Claims.DawnQueues : Prop := ∀ (s : State) (d : BitVec 7) (q : BitVec 2),
  (∀ (en : QEntry) (rest : List QEntry), s.w.dawn = false → s.core.dawn.st ≠ .free → s.core.dawn.owner = s.w.team →
    RegsReady s [] [d.toNat] → tabGet [] q.toNat s.core.dawn.queues = en :: rest → placeBefore q.toNat s = false →
    ∀ i ∈ [Instr.qpop d q, .qpeek d q], ∃ t, exec i s = .next t ∧ DawnOnly s t ∧ GoesOn s t s.ix.next ∧ t.w.fpx = s.w.fpx
      ∧ VectorWrite s t d.toNat (fun n => s.w.cur.active.getLsbD n = true) (fun n => (en.vals[n]?).getD 0)
          (fun n => en.pois.getLsbD n)
      ∧ { t.core.dawn with queues := s.core.dawn.queues } = s.core.dawn
      ∧ tabGet [] q.toNat t.core.dawn.queues = (match i with | .qpop _ _ => rest | _ => en :: rest)
      ∧ ∀ m, m ≠ q.toNat → tabGet [] m t.core.dawn.queues = tabGet [] m s.core.dawn.queues)
  ∧ (s.w.dawn = true → RegsReady s [d.toNat] [] → (tabGet [] q.toNat s.core.dawn.queues).length < 16 →
    ∃ t en, exec (.qpush q d) s = .next t ∧ DawnOnly s t ∧ GoesOn s t s.ix.next ∧ { t.w with cur := s.w.cur } = s.w
      ∧ tabGet [] q.toNat t.core.dawn.queues = tabGet [] q.toNat s.core.dawn.queues ++ [en]
      ∧ (∀ n, n < 32 → (en.vals[n]?).getD 0 = s.w.vGet d.toNat n ∧ en.pois.getLsbD n = s.w.pGet d.toNat n)
      ∧ ∀ m, m ≠ q.toNat → tabGet [] m t.core.dawn.queues = tabGet [] m s.core.dawn.queues)

/-- 08 R186, R188: DAWNLD of a readable, well-formed header into a slot that is free, or the team's own and not running, loads
it: the slot is Loaded, owned by the team, with the image's address and blocks and its queues empty, and SD ← 1; a running slot or
another team's gives SD ← 0 and TSUB ← 1, with no change. (The header's two dwords are read
as scalar loads: the two hypotheses say that both complete with the values d0 and d1.) -/
def Sys2Proof.Claims.DawnLoads (s : State) (d a : BitVec 6) : Prop :=
  (s.core.dawn.st = .running ∨ (s.core.dawn.st ≠ .free ∧ s.core.dawn.owner ≠ s.w.team) →
    ∃ t, exec (.dawnld d a) s = .next t ∧ WarpOnly s t ∧ GoesOn s t s.ix.next ∧ t.w.sGet d.toNat = 0 ∧ ScalarsBut d.toNat s t
      ∧ t.w.trap = { s.w.trap with tsub := 1 })
  ∧ (s.core.dawn.st ≠ .running → (s.core.dawn.st = .free ∨ s.core.dawn.owner = s.w.team) →
  ∀ (d0 d1 : Nat) (s1 s2 : State),
    (∀ k, inlineLoad true false 8 (s.w.sGet a.toNat) 2 s k = k d0 s1) →
    (∀ k, inlineLoad true false 8 (s1.w.sGet a.toNat + 8) 2 s1 k = k d1 s2) →
    dawnBad d0 d1 = false →
    s1.w = s.w → s2.w = s.w → s2.ix = s.ix →
    ∃ t, exec (.dawnld d a) s = .next t ∧ t.w.sGet d.toNat = (if d = 0 then 0 else 1) ∧ ScalarsBut d.toNat s t
      ∧ GoesOn s t s.ix.next ∧ MemorySame s2 t ∧ t.core.dawn.st = .loaded ∧ t.core.dawn.owner = s.w.team
      ∧ t.core.dawn.image = s.w.sGet a.toNat ∧ t.core.dawn.xb = d0 / 2 ^ 24 % 2 ^ 3 ∧ ∀ q, tabGet [] q t.core.dawn.queues = [])

/-- 08 R186, R188: DAWNLD (DawnLoads); DAWNGO on the team's loaded slot, with its fence complete and the image's blocks
free or none needed, starts the dawn warp at the image's first parcel with s1 = s[SA] and the slot Running, and where they are
not free gives 0 and TSUB 3; DAWNSTOP on the team's running slot ends it and the slot is
Loaded; each writes 1. -/
def Sys2Proof.Claims.DawnSlot : Prop := ∀ (s : State) (d a : BitVec 6), s.w.dawn = false →
  DawnLoads s d a
  ∧ (s.core.dawn.owner = s.w.team → s.core.dawn.st = .loaded → fenceDone 4 s = true →
    (s.core.dawn.xb = 0 ∨ (s.core.xq = [] ∧ blocksFit s s.core.dawn.xb = true) → ∃ t v, exec (.dawngo d a) s = .next t ∧ t.w.sGet d.toNat = (if d = 0 then 0 else 1) ∧ ScalarsBut d.toNat s t
      ∧ GoesOn s t s.ix.next ∧ MemorySame s t ∧ t.core.dawn.st = .running ∧ t.core.dawn.owner = s.w.team
      ∧ v ∈ t.ws ∧ v.dawn = true ∧ v.uid = t.core.dawn.uid ∧ v.cur.pc = s.core.dawn.image + 16
      ∧ v.cur.active = 0xFFFFFFFF ∧ v.sGet 1 = s.w.sGet a.toNat ∧ v.blocks = s.core.dawn.xb)
    ∧ (s.core.dawn.xb ≠ 0 → s.core.xq ≠ [] ∨ blocksFit s s.core.dawn.xb = false → ∃ t, exec (.dawngo d a) s = .next t ∧ WarpOnly s t
        ∧ GoesOn s t s.ix.next ∧ t.w.sGet d.toNat = 0 ∧ ScalarsBut d.toNat s t ∧ t.w.trap = { s.w.trap with tsub := 3 }))
  ∧ (s.core.dawn.owner = s.w.team → s.core.dawn.st = .running →
    ∃ t, exec (.dawnstop d) s = .next t ∧ t.w.sGet d.toNat = (if d = 0 then 0 else 1) ∧ ScalarsBut d.toNat s t
      ∧ GoesOn s t s.ix.next ∧ MemorySame s t ∧ t.core.dawn.st = .loaded
      ∧ (∀ v ∈ t.ws, v.dawn = true → v.uid ≠ s.core.dawn.uid) ∧ ∀ v ∈ s.ws, v.dawn = false → v ∈ t.ws)

/-- 08 R185 to R189: the queues of the dawn slot and the slot itself (DawnQueues, DawnSlot). Where it rests on a
reading or a choice of the model: notes/assumptions 26.md. -/
def Obligations.DawnSlotAndQueues : Prop := DawnQueues ∧ DawnSlot

end

/-! # Memory instructions (06 R104 to R128) -/

section

open Sys2Proof Sys2Proof.Machine Sys2Proof.Claims

/-- The global address of thread n (06 R118): s[SB] + SignExtend(v[VA]). -/
def Sys2Proof.Claims.globalAddr (s : State) (sb : BitVec 6) (va : BitVec 7) (n : Nat) : W64 :=
  s.w.sGet sb.toNat + (s.w.vGet va.toNat n).signExtend 64

/-- Every active thread's access of a size is permitted: its address is not poisoned, is aligned, and translates to a leaf
lf n and a physical address pa n. -/
def Sys2Proof.Claims.Reaches (s : State) (acc : Acc) (size : Nat) (sb : BitVec 6) (va : BitVec 7) (lf : Nat → W64) (pa : Nat → Nat) :
    Prop :=
  ∀ n, n < 32 → s.w.cur.active.getLsbD n = true → s.w.pGet va.toNat n = false ∧ (globalAddr s sb va n).toNat % size = 0
    ∧ translate s acc (globalAddr s sb va n) = .ok (lf n) (pa n)

/-- The active threads in ascending order. -/
def Sys2Proof.Claims.activeThreads (s : State) : List Nat := (List.range 32).filter (fun n => s.w.cur.active.getLsbD n)
/-- The registers of a group that data of a size takes: one for at most 4 bytes, else one for each 4 (06 R120). -/
def Sys2Proof.Claims.group (size d : Nat) : List Nat := (List.range (if size ≤ 4 then 1 else size / 4)).map (· + d)

/-! ### Where the memory instructions trap (03 R35, R40 to R42; 06 R118, R119, R125, R126, R138; 16 R353) -/

/-- INFO of XLATE and PROT (03 R41). -/
def Sys2Proof.Claims.faultInfo (space why level rank : Nat) (acc : Acc) : Nat :=
  space * 2 ^ 36 + why * 2 ^ 32 + level * 2 ^ 28 + rank * 2 ^ 16
  + (match acc with | .read => 0 | .write => 1 | .atomic => 2 | .fetch => 3)

/-- The first of POISON on the address, ALIGN, XLATE and PROT that an access to global memory meets (03 R42). -/
def Sys2Proof.Claims.globalCause (s : State) (acc : Acc) (size : Nat) (a : W64) (poisoned : Bool) : Option Cause :=
  if poisoned then some { code := 0x06, tsub := 4 }
  else if a.toNat % size ≠ 0 then some { code := 0x03, taddr := a }
  else match translate s acc a with
    | .xlate why level => some { code := 0x04, taddr := a, info := faultInfo 0 why level 0 acc }
    | .prot why level => some { code := 0x05, taddr := a, info := faultInfo 0 why level 0 acc }
    | .ok _ _ => none
    | .walk => none

/-- k fails as a whole (03 R42): the cause is the lowest failing thread's, TMASK names every thread that fails with it, and
nothing is performed for any thread. -/
def Sys2Proof.Claims.FailsTogether (s : State) (k : Instr) (cause : Nat → Option Cause) : Prop :=
  ∀ n c, n ∈ activeThreads s → cause n = some c → (∀ m ∈ activeThreads s, m < n → cause m = none) →
    ∃ mask : W32, Traps k s c.code (BitVec.ofNat 64 c.tsub) c.taddr c.info mask
      ∧ ∀ m, m < 32 → (mask.getLsbD m = true ↔ m ∈ activeThreads s ∧ ∃ c', cause m = some c' ∧ c'.code = c.code)

/-- A global vector access fails so, once no active thread's translation needs a walk. -/
def Sys2Proof.Claims.GlobalFails (s : State) (k : Instr) (acc : Acc) (size : Nat) (sb : BitVec 6) (va : BitVec 7) : Prop :=
  (∀ n ∈ activeThreads s, s.w.pGet va.toNat n = false → (globalAddr s sb va n).toNat % size = 0 →
    translate s acc (globalAddr s sb va n) ≠ .walk) →
  FailsTogether s k (fun n => globalCause s acc size (globalAddr s sb va n) (s.w.pGet va.toNat n))

/-- A scalar access fails with its cause; TMASK names every active thread (06 R126). -/
def Sys2Proof.Claims.ScalarFails (s : State) (k : Instr) (acc : Acc) (size : Nat) (a : BitVec 6) (i : BitVec 9) : Prop :=
  let va := s.w.sGet a.toNat + i.signExtend 64 * BitVec.ofNat 64 size
  ∀ c, globalCause s acc size va false = some c → Traps k s c.code (BitVec.ofNat 64 c.tsub) c.taddr c.info s.w.cur.active

/-- The loads' faults. -/
def Sys2Proof.Claims.LoadsFail : Prop := ∀ (s : State) (d va : BitVec 7) (sb : BitVec 6) (y : BitVec 1) (sd sa : BitVec 6) (i : BitVec 9),
  UserNoHandler s → s.w.count .ld < 30 →
  let F := fun (k : Instr) (size : Nat) => RegsReady s [va.toNat] (group size d.toNat) → GlobalFails s k .read size sb va
  F (.ldb d sb va y) 1 ∧ F (.ldbs d sb va y) 1 ∧ F (.ldh d sb va y) 2 ∧ F (.ldhs d sb va y) 2 ∧ F (.ldw d sb va y) 4
  ∧ F (.ldwa d sb va) 4 ∧ (d.toNat % 2 = 0 → F (.ldd d sb va y) 8 ∧ F (.ldda d sb va) 8) ∧ (d.toNat % 4 = 0 → F (.ldq d sb va y) 16)
  ∧ ScalarFails s (.sldw sd sa i) .read 4 sa i ∧ ScalarFails s (.sldd sd sa i) .read 8 sa i ∧ ScalarFails s (.sldda sd sa i) .read 8 sa i

/-- Of the issuing warp nothing changed but its outstanding operations' records: no register, flag, mask, trap or special
register. -/
def Sys2Proof.Claims.OnlyOps (s t : State) : Prop :=
  { t.w with ops := s.w.ops, issued := s.w.issued, wmax := s.w.wmax, fpx := s.w.fpx, fails := s.w.fails, cur := s.w.cur } = s.w

/-- The warp has one new outstanding operation o; every other one it has it had before, apart from the registers it still
awaits. -/
def Sys2Proof.Claims.AddsOp (s t : State) (c : Cls) (o : Op) : Prop :=
  o ∈ t.w.ops ∧ o.id = s.nextId ∧ o.cls = c ∧ o.done = false ∧ o.fail = none
  ∧ ∀ q ∈ t.w.ops, q = o ∨ ∃ p ∈ s.w.ops, { q with dests := [] } = { p with dests := [] }

/-- The load k issues: an operation of class LD that awaits, for every active thread, its registers and reads its bytes at
its physical address; no register, no byte of memory and no pending write changes (06 R118, R120, R127). -/
def Sys2Proof.Claims.LoadIssues (s : State) (k : Instr) (size : Nat) (ext : Ext) (home acq : Bool) (d : Nat) (sb : BitVec 6)
    (va : BitVec 7) : Prop :=
  ∀ lf pa, Reaches s .read size sb va lf pa → RegsReady s [va.toNat] (group size d) → s.w.count .ld < 30 →
  ∃ t o parts, exec k s = .next t ∧ GoesOn s t s.ix.next ∧ OnlyOps s t ∧ MemorySame s t ∧ AddsOp s t .ld o
    ∧ o.kind = .load size ext d home acq parts ∧ o.dests = (group size d).map (fun r => (r, s.w.cur.active))
    ∧ parts = (activeThreads s).map (fun n =>
        { t := n, place := .mem (pa n) ((lf n).toNat / 2 ^ 6 % 4) ((lf n).getLsbD 8) (globalAddr s sb va n).toNat })
    ∧ { t with w := s.w, ix := s.ix, nextId := s.nextId, core := s.core } = s ∧ { t.core with l1 := s.core.l1 } = s.core

/-- What a load made in line reads (06 R106, R107): the core's L1 copy where a plain load may use it and it is valid, else
memory; not poisoned. -/
def Sys2Proof.Claims.Served (s : State) (acq : Bool) (l : W64) (pa size x : Nat) : Prop :=
  ((acq = true ∨ 2 ≤ l.toNat / 2 ^ 6 % 4 ∨ l1Hit s s.core s.w.uid s.w.ah (pa / 128) = none) ∧ x = memNat s.mem pa size
      ∧ granPoisoned s.mp pa size = false)
  ∨ ∃ c, acq = false ∧ l.toNat / 2 ^ 6 % 4 < 2 ∧ l1Hit s s.core s.w.uid s.w.ah (pa / 128) = some c ∧ x = memNat c.bytes pa size
      ∧ granPoisoned c.pois pa size = false

/-- The scalar load k completes with the bytes of memory, or of the core's L1 copy where that may serve it (06 R107, R126),
zero-extended, unless the bytes or the page are poisoned; nothing else of registers or memory changes. -/
def Sys2Proof.Claims.ScalarLoads (s : State) (k : Instr) (size : Nat) (acq : Bool) (d a : BitVec 6) (i : BitVec 9) : Prop :=
  let va := s.w.sGet a.toNat + i.signExtend 64 * BitVec.ofNat 64 size
  ∀ (l : W64) (pa : Nat) (x : Nat), s.team.spec = false → s.w.count .ld < 30 → va.toNat % size = 0 →
    translate s .read va = .ok l pa → loadMayRun s s.w.uid s.nextId [(s.dev.chipId, pa, size)] = true → l.getLsbD 8 = false →
    Served s acq l pa size x →
    ∃ t, exec k s = .next t ∧ GoesOn s t s.ix.next ∧ MemorySame s t
      ∧ t.w.sGet d.toNat = (if d = 0 then 0 else BitVec.ofNat 64 x) ∧ ScalarsBut d.toNat s t
      ∧ t.w.ah = (if acq then max s.w.ah s.time else s.w.ah)
      ∧ { t.w with s := s.w.s, ah := s.w.ah, ops := s.w.ops, issued := s.w.issued, wmax := s.w.wmax, fpx := s.w.fpx
                   fails := s.w.fails, cur := s.w.cur } = s.w
      ∧ { t with w := s.w, ix := s.ix, nextId := s.nextId, core := s.core, lexp := s.lexp } = s
      ∧ { t.core with l1 := s.core.l1 } = s.core

/-- 06 R118, R120, R121, R126; 03 R40 to R42: every global vector load issues, LDD and LDDA with an even and LDQ with a fourfold
register; the scalar loads complete; and all of them fail as LoadsFail says, in user mode without a handler. Where it rests on a reading or a choice of the model: notes/assumptions 15.md, 18.md. -/
def Obligations.GlobalLoads : Prop := LoadsFail ∧ ∀ (s : State) (d va : BitVec 7) (sb : BitVec 6) (y : BitVec 1) (sd sa : BitVec 6) (i : BitVec 9),
  let L := fun (k : Instr) (size : Nat) (ext : Ext) (home acq : Bool) => LoadIssues s k size ext home acq d.toNat sb va
  L (.ldb d sb va y) 1 .zero (y == 1) false ∧ L (.ldbs d sb va y) 1 .sign (y == 1) false
  ∧ L (.ldh d sb va y) 2 .zero (y == 1) false ∧ L (.ldhs d sb va y) 2 .sign (y == 1) false
  ∧ L (.ldw d sb va y) 4 .zero (y == 1) false ∧ L (.ldwa d sb va) 4 .zero true true
  ∧ (d.toNat % 2 = 0 → L (.ldd d sb va y) 8 .zero (y == 1) false ∧ L (.ldda d sb va) 8 .zero true true)
  ∧ (d.toNat % 4 = 0 → L (.ldq d sb va y) 16 .zero (y == 1) false)
  ∧ (UserNoHandler s → (d.toNat % 2 ≠ 0 → RaisesIllegal (.ldd d sb va y) s 3 ∧ RaisesIllegal (.ldda d sb va) s 3)
      ∧ (d.toNat % 4 ≠ 0 → RaisesIllegal (.ldq d sb va y) s 3))
  ∧ ScalarLoads s (.sldw sd sa i) 4 false sd sa i ∧ ScalarLoads s (.sldd sd sa i) 8 false sd sa i
  ∧ ScalarLoads s (.sldda sd sa i) 8 true sd sa i

/-- The bytes thread n stores from a register group, the least significant first (06 R120). -/
def Sys2Proof.Claims.storedBytes (s : State) (size d n : Nat) : List Byte :=
  (List.range size).map (fun j => BitVec.ofNat 8 ((s.w.vGet (d + j / 4) n).toNat / 2 ^ (8 * (j % 4))))
/-- Whether the data thread n stores is poisoned. -/
def Sys2Proof.Claims.storedPoison (s : State) (size d n : Nat) : Bool := (group size d).any (fun r => s.w.pGet r n)

/-- Parts of an instruction, each with its line, are on their way home: one write for each line, its parts in the threads'
order, the last of the pending writes; the operation waits for all of them. -/
def Sys2Proof.Claims.Sends (s t : State) (o : Op) (rank : Option Nat) (parts : List (Nat × WPart)) : Prop :=
  ∃ new : List Write, t.writes = s.writes ++ new ∧ o.pend = new.length
    ∧ (∀ x ∈ new, x.warp = s.w.uid ∧ x.op = o.id ∧ x.rank = rank ∧ x.applied = none)
    ∧ (new.map (·.line)).Nodup
    ∧ ∀ l, (new.filter (fun x => x.line == l)).flatMap (·.parts) = (parts.filter (fun p => p.1 == l)).map (·.2)

/-- The instruction k sends its parts home: registers and memory are as before until the writes are applied. -/
def Sys2Proof.Claims.SendsHome (s : State) (k : Instr) (c : Cls) (kind : OpKind) (dests : List (Nat × W32))
    (parts : List (Nat × WPart)) : Prop :=
  ∃ t o, exec k s = .next t ∧ GoesOn s t s.ix.next ∧ OnlyOps s t ∧ MemorySame s t ∧ AddsOp s t c o ∧ o.kind = kind
    ∧ o.dests = dests ∧ Sends s t o none parts
    ∧ { t with w := s.w, ix := s.ix, nextId := s.nextId, core := s.core, writes := s.writes } = s
    ∧ { t.core with l1 := s.core.l1 } = s.core

/-- The vector store k (rel: a release, whose fence is complete) sends each active thread's bytes to its address. -/
def Sys2Proof.Claims.Stores (s : State) (k : Instr) (size : Nat) (rel : Bool) (d : Nat) (sb : BitVec 6) (va : BitVec 7) : Prop :=
  ∀ lf pa, Reaches s .write size sb va lf pa → RegsReady s (va.toNat :: group size d) [] → (rel = true → fenceDone 4 s = true) →
  SendsHome s k .st .write []
    ((activeThreads s).map (fun n => (pa n / 128, .store (pa n) (storedBytes s size d n) (storedPoison s size d n))))

/-- The scalar store k sends s[SD]'s low bytes. -/
def Sys2Proof.Claims.ScalarStores (s : State) (k : Instr) (size : Nat) (rel : Bool) (d a : BitVec 6) (i : BitVec 9) : Prop :=
  let va := s.w.sGet a.toNat + i.signExtend 64 * BitVec.ofNat 64 size
  ∀ (l : W64) (pa : Nat), va.toNat % size = 0 → translate s .write va = .ok l pa → (rel = true → fenceDone 4 s = true) →
  SendsHome s k .st .write [] [(pa / 128, .store pa ((List.range size).map (fun j =>
    BitVec.ofNat 8 ((s.w.sGet d.toNat).toNat / 2 ^ (8 * j)))) false)]

/-- A store or atomic k that reaches memory and hits armed ranges raises WATCH (16 R353): no thread is performed, TSUB is the
lowest index that the lowest such thread hits, TADDR its first watched byte, TMASK every thread that hits. -/
def Sys2Proof.Claims.Watched (s : State) (k : Instr) (acc : Acc) (size : Nat) (sb : BitVec 6) (va : BitVec 7) : Prop :=
  ∀ lf pa, Reaches s acc size sb va lf pa → s.w.cur.skip = false →
  ∀ n idx first, n ∈ activeThreads s → watchHit s.ctx (pa n) size = some (idx, first) →
    (∀ m ∈ activeThreads s, m < n → watchHit s.ctx (pa m) size = none) →
    ∃ mask : W32, Traps k s 0x10 (BitVec.ofNat 64 idx) (BitVec.ofNat 64 first) 0 mask
      ∧ ∀ m, m < 32 → (mask.getLsbD m = true ↔ m ∈ activeThreads s ∧ watchHit s.ctx (pa m) size ≠ none)

/-- The byte that a speculative team holds for an address (06 R137). -/
def Sys2Proof.Claims.heldByte (t : Team) (a : Nat) : Option Byte :=
  (t.specLines.find? (fun x => x.line == a / 128)).bind (fun x => (x.bytes.find? (fun p => p.1 == a)).map (·.2))

/-- 06 R137, R138: a store of a speculative team is held, line by line, and applied nowhere; one that finds the die's buffer
full raises SPEC, TSUB 2. -/
def Sys2Proof.Claims.HeldStore (s : State) (k : Instr) (size d : Nat) (sb : BitVec 6) (va : BitVec 7) : Prop :=
  ∀ lf pa, Reaches s .write size sb va lf pa → RegsReady s (va.toNat :: group size d) [] → s.team.spec = true → s.ctx.watch = [] →
  let new := (((activeThreads s).map (fun n => pa n / 128)).eraseDups.filter (fun l => s.team.specLines.all (fun x => x.line != l))).length
  (65536 < specUsed s s.die + new → UserNoHandler s → Traps k s 0x12 2 0 0 s.w.cur.active)
  ∧ (specUsed s s.die + new ≤ 65536 → ∃ t, exec k s = .next t ∧ GoesOn s t s.ix.next ∧ MemorySame s t ∧ t.writes = s.writes ∧ OnlyOps s t
      ∧ (∀ n ∈ activeThreads s, (∀ m ∈ activeThreads s, n < m → pa m + size ≤ pa n ∨ pa n + size ≤ pa m) →
          ∀ j, j < size → heldByte t.team (pa n + j) = (storedBytes s size d n)[j]?)
      ∧ (∀ a, (∀ n ∈ activeThreads s, a < pa n ∨ pa n + size ≤ a) → heldByte t.team a = heldByte s.team a)
      ∧ (∀ n ∈ activeThreads s, ∃ x ∈ t.team.specLines, x.line = pa n / 128)
      ∧ { t.team with specLines := s.team.specLines } = s.team)

/-- The stores' faults, their watchpoints, and the stores of a speculative team. -/
def Sys2Proof.Claims.StoresOtherwise : Prop := ∀ (s : State) (d va : BitVec 7) (sb : BitVec 6) (sd sa : BitVec 6) (i : BitVec 9),
  s.w.dawn = false → s.w.cur.active ≠ 0 → s.w.count .st < 30 →
  let F := fun (k : Instr) (size : Nat) => RegsReady s (va.toNat :: group size d.toNat) [] →
    (UserNoHandler s → GlobalFails s k .write size sb va ∧ Watched s k .write size sb va) ∧ HeldStore s k size d.toNat sb va
  F (.stb d sb va) 1 ∧ F (.sth d sb va) 2 ∧ F (.stw d sb va) 4 ∧ (d.toNat % 2 = 0 → F (.std d sb va) 8)
  ∧ (d.toNat % 4 = 0 → F (.stq d sb va) 16)
  ∧ (fenceDone 4 s = true → F (.stwl d sb va) 4 ∧ (d.toNat % 2 = 0 → F (.stdl d sb va) 8))
  ∧ (UserNoHandler s → ScalarFails s (.sstw sd sa i) .write 4 sa i ∧ ScalarFails s (.sstd sd sa i) .write 8 sa i
      ∧ (fenceDone 4 s = true → ScalarFails s (.sstdl sd sa i) .write 8 sa i))

/-- 06 R118, R120, R121, R126, R137, R138; 03 R40 to R42; 16 R353: every global store, vector and scalar, outside the dawn warp, in
a team that is not speculative, with no watchpoint armed; and what StoresOtherwise says of those that fail, hit a watchpoint or
belong to a speculative team. Where it rests on a reading or a choice of the model: notes/assumptions 14.md. -/
def Obligations.GlobalStores : Prop := StoresOtherwise ∧
  ∀ (s : State) (d va : BitVec 7) (sb : BitVec 6) (sd sa : BitVec 6) (i : BitVec 9),
  s.w.dawn = false → s.team.spec = false → s.ctx.watch = [] → s.w.cur.active ≠ 0 → s.w.count .st < 30 →
  Stores s (.stb d sb va) 1 false d.toNat sb va ∧ Stores s (.sth d sb va) 2 false d.toNat sb va
  ∧ Stores s (.stw d sb va) 4 false d.toNat sb va ∧ Stores s (.stwl d sb va) 4 true d.toNat sb va
  ∧ (d.toNat % 2 = 0 → Stores s (.std d sb va) 8 false d.toNat sb va ∧ Stores s (.stdl d sb va) 8 true d.toNat sb va)
  ∧ (d.toNat % 4 = 0 → Stores s (.stq d sb va) 16 false d.toNat sb va)
  ∧ ScalarStores s (.sstw sd sa i) 4 false sd sa i ∧ ScalarStores s (.sstd sd sa i) 8 false sd sa i
  ∧ ScalarStores s (.sstdl sd sa i) 8 true sd sa i

/-- 06 R122: the functions of atomics and reductions on a location, in integers; ADD, INC and DEC modulo 2^32. -/
def Sys2Proof.Claims.RmwFunctions : Prop := ∀ old x y : W32,
  rmwNew .add old x y = some (BitVec.ofNat 32 (old.toNat + x.toNat))
  ∧ rmwNew .min old x y = some (lesserS old x) ∧ rmwNew .max old x y = some (greaterS old x)
  ∧ rmwNew .minn old x y = some (lesserU old x) ∧ rmwNew .maxn old x y = some (greaterU old x)
  ∧ rmwNew .and old x y = some (old &&& x) ∧ rmwNew .or old x y = some (old ||| x) ∧ rmwNew .xor old x y = some (old ^^^ x)
  ∧ rmwNew .xch old x y = some x
  ∧ (old = x → rmwNew .cas old x y = some y) ∧ (old ≠ x → rmwNew .cas old x y = none)
  ∧ (x.toNat ≤ old.toNat → rmwNew .inc old x y = some 0)
  ∧ (old.toNat < x.toNat → rmwNew .inc old x y = some (BitVec.ofNat 32 (old.toNat + 1)))
  ∧ (old = 0 ∨ x.toNat < old.toNat → rmwNew .dec old x y = some x)
  ∧ (old ≠ 0 → old.toNat ≤ x.toNat → rmwNew .dec old x y = some (BitVec.ofNat 32 (old.toNat - 1)))

/-- 06 R118, R119, R138; 03 R40 to R42; 16 R353: where the global atomics and reductions trap: a failing address, poisoned data
(POISON, TSUB 3, naming those threads), a watched location, a speculative team (SPEC, TSUB 1). Whether a failing ACAS is a watch
hit is judged at issue by the model (notes/assumptions 100.md) and not said here. -/
def Sys2Proof.Claims.AtomicsFail : Prop := ∀ (s : State) (d va : BitVec 7) (sb : BitVec 6), UserNoHandler s → s.w.cur.active ≠ 0 →
  let T := fun (k : Instr) (data : List Nat) =>
    (s.team.spec = true → Traps k s 0x12 1 0 0 s.w.cur.active)
    ∧ (s.team.spec = false → GlobalFails s k .atomic 4 sb va
      ∧ (∀ lf pa, Reaches s .atomic 4 sb va lf pa → ∀ mask : W32, mask ≠ 0 →
          (∀ m, m < 32 → (mask.getLsbD m = true ↔ m ∈ activeThreads s ∧ ∃ r ∈ data, s.w.pGet r m = true)) → Traps k s 0x06 3 0 0 mask))
  let W := fun (k : Instr) => s.team.spec = false → (∀ n ∈ activeThreads s, s.w.pGet d.toNat n = false) → Watched s k .atomic 4 sb va
  (s.w.count .ld < 30 → RegsReady s [va.toNat, d.toNat] [d.toNat] →
    (∀ k ∈ [Instr.aadd d sb va, .amin d sb va, .amax d sb va, .aminn d sb va, .amaxn d sb va, .aand d sb va, .aor d sb va, .axor d sb va,
        .axch d sb va, .afadd d sb va, .afaddp d sb va, .ainc d sb va, .adec d sb va], T k [d.toNat] ∧ W k)
    ∧ (d.toNat % 2 = 0 → RegsReady s [d.toNat + 1] [] → T (.acas d sb va) [d.toNat, d.toNat + 1]))
  ∧ (s.w.count .st < 30 → RegsReady s [va.toNat, d.toNat] [] →
    ∀ k ∈ [Instr.gadd d sb va, .gmin d sb va, .gmax d sb va, .gminn d sb va, .gmaxn d sb va, .gand d sb va, .gor d sb va, .gxor d sb va,
      .gfadd d sb va, .gfaddp d sb va], T k [d.toNat] ∧ W k)

/-- 06 R118, R119, R122, R123: the functions (RmwFunctions); every global atomic and reduction sends each active
thread's read-modify-write home, or traps as AtomicsFail says; an atomic is an operation of class LD that awaits v[VD], a
reduction one of class ST. Where it rests on a reading or a choice of the model: notes/assumptions 14.md. -/
def Obligations.AtomicsGoHome : Prop := RmwFunctions ∧ AtomicsFail ∧ ∀ (s : State) (d va : BitVec 7) (sb : BitVec 6) (lf : Nat → W64) (pa : Nat → Nat),
  s.w.dawn = false → s.team.spec = false → s.ctx.watch = [] → s.w.cur.active ≠ 0 → Reaches s .atomic 4 sb va lf pa →
  let clean := fun (r : Nat) => ∀ n, n < 32 → s.w.cur.active.getLsbD n = true → s.w.pGet r n = false
  let parts := fun (fn : Rmw) => (activeThreads s).map (fun n =>
    (pa n / 128, WPart.rmw (pa n) fn (s.w.vGet d.toNat n) (s.w.vGet (d.toNat + 1) n) n))
  let A := fun (k : Instr) (fn : Rmw) =>
    SendsHome s k .ld (.atomic d.toNat []) [(d.toNat, s.w.cur.active)] (parts fn)
  let G := fun (k : Instr) (fn : Rmw) => SendsHome s k .st .write [] (parts fn)
  clean d.toNat →
  (s.w.count .ld < 30 → RegsReady s [va.toNat, d.toNat] [d.toNat] →
    A (.aadd d sb va) .add ∧ A (.amin d sb va) .min ∧ A (.amax d sb va) .max ∧ A (.aminn d sb va) .minn
    ∧ A (.amaxn d sb va) .maxn ∧ A (.aand d sb va) .and ∧ A (.aor d sb va) .or ∧ A (.axor d sb va) .xor
    ∧ A (.axch d sb va) .xch ∧ A (.afadd d sb va) .fadd ∧ A (.afaddp d sb va) .faddp ∧ A (.ainc d sb va) .inc
    ∧ A (.adec d sb va) .dec
    ∧ (d.toNat % 2 = 0 → RegsReady s [d.toNat + 1] [] → clean (d.toNat + 1) → A (.acas d sb va) .cas))
  ∧ (s.w.count .st < 30 → RegsReady s [va.toNat, d.toNat] [] →
    G (.gadd d sb va) .add ∧ G (.gmin d sb va) .min ∧ G (.gmax d sb va) .max ∧ G (.gminn d sb va) .minn
    ∧ G (.gmaxn d sb va) .maxn ∧ G (.gand d sb va) .and ∧ G (.gor d sb va) .or ∧ G (.gxor d sb va) .xor
    ∧ G (.gfadd d sb va) .fadd ∧ G (.gfaddp d sb va) .faddp)

/-! ## The scratchpad and peer cores (06 R114, R115, R120, R122, R125) -/

/-- Byte x of a core's local memories lies in the size bytes at place p. -/
def Sys2Proof.Claims.InPlace (p : Local) (size : Nat) (x : Local) : Prop := match p, x with
  | .sram a, .sram b => a ≤ b ∧ b < a + size
  | .acc a, .acc b => a ≤ b ∧ b < a + size
  | _, _ => False
/-- The value a load of a size gives for word j of the loaded bytes (06 R120). -/
def Sys2Proof.Claims.loadedWord (size : Nat) (ext : Ext) (bs : List Byte) (j : Nat) : W32 :=
  if ext = .sign then (BitVec.ofNat (8 * size) (ofBytes bs)).signExtend 32 else BitVec.ofNat 32 (ofBytes bs / 2 ^ (32 * j))

/-- A load performed at places pl of a core's local memories: every active thread's registers hold its bytes with their
poison; nothing else changes. -/
def Sys2Proof.Claims.LoadsLocal (s : State) (k : Instr) (size : Nat) (ext : Ext) (d : Nat) (c : Core) (pl : Nat → Local) : Prop :=
  ∃ t, exec k s = .next t ∧ GoesOn s t s.ix.next ∧ MemorySame s t
    ∧ (∀ n, n < 32 → ∀ j, j < (group size d).length →
        (s.w.cur.active.getLsbD n = true → t.w.vGet (d + j) n = loadedWord size ext (readLocal c (pl n) size).1 j
            ∧ t.w.pGet (d + j) n = (readLocal c (pl n) size).2)
        ∧ (s.w.cur.active.getLsbD n = false → t.w.vGet (d + j) n = s.w.vGet (d + j) n ∧ t.w.pGet (d + j) n = s.w.pGet (d + j) n))
    ∧ (∀ r, r ∉ group size d → RegSame s t r)
    ∧ { t.w with v := s.w.v, vp := s.w.vp, bound := s.w.bound, ops := s.w.ops, issued := s.w.issued, wmax := s.w.wmax
                 fpx := s.w.fpx, fails := s.w.fails, cur := s.w.cur } = s.w
    ∧ { t with w := s.w, ix := s.ix, nextId := s.nextId } = s

/-- Two bytes of a core's local memories lie in the same 64-byte granule. -/
def Sys2Proof.Claims.SameGranule (x y : Local) : Prop := match x, y with
  | .sram a, .sram b => a / 64 = b / 64
  | .acc a, .acc b => a / 64 = b / 64
  | _, _ => False

/-- What a store leaves in a core's local memories: each active thread's bytes, unless a higher thread's overlap them; every
byte outside all of them, and the poison of every granule that none touches, as before; a poisoned thread's bytes poisoned. -/
def Sys2Proof.Claims.StoredLocal (s : State) (size d : Nat) (pl : Nat → Local) (c c' : Core) : Prop :=
  (∀ n ∈ activeThreads s, (∀ m ∈ activeThreads s, n < m → ∀ x, InPlace (pl n) size x → ¬ InPlace (pl m) size x) →
      (readLocal c' (pl n) size).1 = storedBytes s size d n)
  ∧ (∀ x, (∀ n ∈ activeThreads s, ¬ InPlace (pl n) size x) → (readLocal c' x 1).1 = (readLocal c x 1).1)
  ∧ (∀ n ∈ activeThreads s, storedPoison s size d n = true → (readLocal c' (pl n) size).2 = true)
  ∧ (∀ x, (∀ n ∈ activeThreads s, ∀ y, InPlace (pl n) size y → ¬ SameGranule x y) → (readLocal c' x 1).2 = (readLocal c x 1).2)
  ∧ { c' with sram := c.sram, sp := c.sp, acc := c.acc, ap := c.ap } = c

/-- The value at a place after the atomics of some threads, in order; a poisoned place keeps its value (06 R119, R122). -/
def Sys2Proof.Claims.cellAfter (s : State) (fn : Rmw) (d : Nat) (pl : Nat → Local) (c : Core) (p : Local) (ts : List Nat) : W32 :=
  ts.foldl (fun v n => if pl n = p ∧ (readLocal c p 4).2 = false then
      (rmwNew fn v (s.w.vGet d n) (s.w.vGet (d + 1) n)).getD v else v) (BitVec.ofNat 32 (ofBytes (readLocal c p 4).1))

/-- Atomics performed at places of a core: each thread receives the value it found, poisoned where the place is; each place
holds its last value; nothing else changes. -/
def Sys2Proof.Claims.AtomicLocal (s t : State) (fn : Rmw) (d : Nat) (pl : Nat → Local) (c c' : Core) : Prop :=
  (∀ n, n < 32 →
    (s.w.cur.active.getLsbD n = true → t.w.vGet d n = cellAfter s fn d pl c (pl n) ((activeThreads s).filter (fun m => decide (m < n)))
        ∧ t.w.pGet d n = (readLocal c (pl n) 4).2)
    ∧ (s.w.cur.active.getLsbD n = false → t.w.vGet d n = s.w.vGet d n ∧ t.w.pGet d n = s.w.pGet d n))
  ∧ (∀ r, r ≠ d → RegSame s t r)
  ∧ (∀ n ∈ activeThreads s, BitVec.ofNat 32 (ofBytes (readLocal c' (pl n) 4).1) = cellAfter s fn d pl c (pl n) (activeThreads s))
  ∧ (∀ x, (∀ n ∈ activeThreads s, ¬ InPlace (pl n) 4 x) → readLocal c' x 1 = readLocal c x 1)
  ∧ { c' with sram := c.sram, acc := c.acc } = c
  ∧ { t.w with v := s.w.v, vp := s.w.vp, bound := s.w.bound, ops := s.w.ops, issued := s.w.issued, wmax := s.w.wmax
               fpx := s.w.fpx, fails := s.w.fails, cur := s.w.cur } = s.w

/-- 06 R114, R115, R118, R120: the scratchpad's loads and stores are performed when they issue, at addresses of 33 bits
inside the team's allocation or an open stage window. -/
def Sys2Proof.Claims.ScratchpadAccesses : Prop := ∀ (s : State) (d va : BitVec 7) (sb : BitVec 6) (pl : Nat → Local),
  let addr := fun (n : Nat) => (s.w.sGet sb.toNat).toNat % 2 ^ 32 + (s.w.vGet va.toNat n).toNat
  let reach := fun (size : Nat) => ∀ n ∈ activeThreads s, s.w.pGet va.toNat n = false ∧ addr n % size = 0
    ∧ spadPlace s.core s.team (addr n) size = some (pl n)
  let L := fun (k : Instr) (size : Nat) (ext : Ext) => reach size → RegsReady s [va.toNat] (group size d.toNat) →
    s.w.count .ld < 30 → s.w.acquiring = false → LoadsLocal s k size ext d.toNat s.core pl
  let S := fun (k : Instr) (size : Nat) => reach size → RegsReady s (va.toNat :: group size d.toNat) [] → s.w.dawn = false →
    s.w.count .st < 30 → ∃ t, exec k s = .next t ∧ GoesOn s t s.ix.next ∧ MemorySame s t ∧ OnlyOps s t
      ∧ StoredLocal s size d.toNat pl s.core t.core ∧ { t with w := s.w, ix := s.ix, nextId := s.nextId, core := s.core } = s
  (L (.ldsb d sb va) 1 .zero ∧ L (.ldsbs d sb va) 1 .sign ∧ L (.ldsh d sb va) 2 .zero ∧ L (.ldshs d sb va) 2 .sign
    ∧ L (.ldsw d sb va) 4 .zero ∧ (d.toNat % 2 = 0 → L (.ldsd d sb va) 8 .zero) ∧ (d.toNat % 4 = 0 → L (.ldsq d sb va) 16 .zero))
  ∧ (S (.stsb d sb va) 1 ∧ S (.stsh d sb va) 2 ∧ S (.stsw d sb va) 4 ∧ (d.toNat % 2 = 0 → S (.stsd d sb va) 8)
    ∧ (d.toNat % 4 = 0 → S (.stsq d sb va) 16))

/-- 06 R115, R119, R122, R123: the scratchpad's atomics, performed thread by thread in ascending order. -/
def Sys2Proof.Claims.ScratchpadAtomics : Prop := ∀ (s : State) (d va : BitVec 7) (sb : BitVec 6) (pl : Nat → Local),
  let addr := fun (n : Nat) => (s.w.sGet sb.toNat).toNat % 2 ^ 32 + (s.w.vGet va.toNat n).toNat
  let A := fun (k : Instr) (fn : Rmw) => ∃ t, exec k s = .next t ∧ GoesOn s t s.ix.next ∧ MemorySame s t
    ∧ AtomicLocal s t fn d.toNat pl s.core t.core ∧ { t with w := s.w, ix := s.ix, nextId := s.nextId, core := s.core } = s
  (∀ n ∈ activeThreads s, s.w.pGet va.toNat n = false ∧ s.w.pGet d.toNat n = false ∧ addr n % 4 = 0
    ∧ spadPlace s.core s.team (addr n) 4 = some (pl n)) →
  RegsReady s [va.toNat, d.toNat] [d.toNat] → s.w.dawn = false → s.w.count .ld < 30 → s.w.acquiring = false →
  A (.aaddS d sb va) .add ∧ A (.aminS d sb va) .min ∧ A (.amaxS d sb va) .max ∧ A (.aminnS d sb va) .minn
  ∧ A (.amaxnS d sb va) .maxn ∧ A (.aandS d sb va) .and ∧ A (.aorS d sb va) .or ∧ A (.axorS d sb va) .xor
  ∧ A (.axchS d sb va) .xch ∧ A (.afaddS d sb va) .fadd ∧ A (.afaddpS d sb va) .faddp ∧ A (.aincS d sb va) .inc
  ∧ A (.adecS d sb va) .dec
  ∧ (d.toNat % 2 = 0 → RegsReady s [d.toNat + 1] [] → (∀ n ∈ activeThreads s, s.w.pGet (d.toNat + 1) n = false) →
      A (.acasS d sb va) .cas)

/-- 06 R114, R115, R118 to R120, R122, R123: scratchpad loads, stores and atomics (ScratchpadAccesses, ScratchpadAtomics). -/
def Obligations.ScratchpadInstructions : Prop := ScratchpadAccesses ∧ ScratchpadAtomics

/-- 03 R35, R41, R42; 06 R117, R125, R138: where the peer and remote accesses trap on their handle: a peer field out of range (XLATE,
SPACE 2, WHY 5), a stale generation (PEER_STALE, naming every thread), an offset outside the peer's scratchpad (PROT, SPACE 2,
WHY 4); a remote handle that names no rank of the group (XLATE, SPACE 3, WHY 4) or a chip that no route reaches (WHY 7); a
write in a speculative team (SPEC, TSUB 1). That TADDR is the thread's offset is the model's choice: notes/assumptions 54.md. -/
def Sys2Proof.Claims.HandlesFail : Prop := ∀ (s : State) (d va : BitVec 7) (sb : BitVec 6), UserNoHandler s →
  s.w.count .ld < 30 → s.w.count .st < 30 → s.w.acquiring = false →
  let h := (s.w.sGet sb.toNat).toNat
  let off := fun (n : Nat) => (s.w.vGet va.toNat n).toNat
  let act := s.w.cur.active
  let regs := d.toNat :: va.toNat :: (if d.toNat % 2 = 0 then [d.toNat + 1] else [])
  let fits := fun (size : Nat) => ∀ n ∈ activeThreads s, s.w.pGet va.toNat n = false ∧ off n % size = 0
  RegsReady s regs regs →
  (∀ x ∈ [(Instr.ldpw d sb va, Acc.read), (.stpw d sb va, .write), (.apadd d sb va, .atomic)],
    (s.team.spec = true → act ≠ 0 → x.2 ≠ .read → Traps x.1 s 0x12 1 0 0 act)
    ∧ (s.team.spec = false → fits 4 → ∀ n ∈ activeThreads s, (∀ m ∈ activeThreads s, n ≤ m) →
      (h / 2 ^ 24 ≠ 0 ∨ s.team.csize ≤ h % 2 ^ 8 → Traps x.1 s 0x04 0 (BitVec.ofNat 64 (off n)) (faultInfo 2 5 0 (h % 2 ^ 8) x.2) act)
      ∧ (h / 2 ^ 24 = 0 → h % 2 ^ 8 < s.team.csize → h / 2 ^ 8 % 2 ^ 16 ≠ s.team.pgen →
          Traps x.1 s 0x08 0 (s.w.sGet sb.toNat) 0 act))
    ∧ (s.team.spec = false → fits 4 → h / 2 ^ 24 = 0 → h % 2 ^ 8 < s.team.csize → h / 2 ^ 8 % 2 ^ 16 = s.team.pgen →
      ∀ p : Team, peerTeam s (s.w.sGet sb.toNat) = some p → FailsTogether s x.1 (fun n =>
        if p.ssize < off n + 4 then some { code := 0x05, taddr := BitVec.ofNat 64 (off n), info := faultInfo 2 4 0 (h % 2 ^ 8) x.2 }
        else none)))
  ∧ (∀ x ∈ [(Instr.ldxw d sb va, Acc.read, 4), (.stxw d sb va, .write, 4), (.nxadd d sb va, .atomic, 4), (.nxfadd d sb va, .atomic, 4),
        (.ldxd d sb va, .read, 8), (.stxd d sb va, .write, 8)], (x.2.2 = 8 → d.toNat % 2 = 0) →
    (s.team.spec = true → act ≠ 0 → x.2.1 ≠ .read → Traps x.1 s 0x12 1 0 0 act)
    ∧ (s.team.spec = false → fits x.2.2 → ∀ n ∈ activeThreads s, (∀ m ∈ activeThreads s, n ≤ m) →
      (s.team.chips[h % 2 ^ 12]? = none ∨ h / 2 ^ 57 ≠ 0 →
        Traps x.1 s 0x04 0 (BitVec.ofNat 64 (off n)) (faultInfo 3 4 0 (h % 2 ^ 12) x.2.1) act)
      ∧ (∀ chip, s.team.chips[h % 2 ^ 12]? = some chip → h / 2 ^ 57 = 0 → chipReached s chip = false →
        Traps x.1 s 0x04 0 (BitVec.ofNat 64 (off n)) (faultInfo 3 7 0 (h % 2 ^ 12) x.2.1) act)))

/-- 03 R35; 06 R117, R125: the peer accesses are performed at the peer core's SRAM; the remote ones wait for their
translation on the remote chip and then issue as a load or as writes bound for that chip; bad handles trap as HandlesFail says.
Where it rests on a reading or a choice of the model: notes/assumptions 43.md, 54.md. -/
def Obligations.PeerAndRemoteAccesses : Prop := HandlesFail ∧ ∀ (s : State) (d va : BitVec 7) (sb : BitVec 6), s.w.dawn = false →
  s.team.spec = false → s.w.cur.active ≠ 0 → s.w.count .ld < 30 → s.w.count .st < 30 →
  let h := (s.w.sGet sb.toNat).toNat
  let off := fun (n : Nat) => (s.w.vGet va.toNat n).toNat
  let clean := ∀ n ∈ activeThreads s, s.w.pGet d.toNat n = false
  (∀ p : Team, peerTeam s (s.w.sGet sb.toNat) = some p →
      (∀ n ∈ activeThreads s, s.w.pGet va.toNat n = false ∧ off n % 4 = 0 ∧ off n + 4 ≤ p.ssize) →
      h / 2 ^ 24 = 0 → h % 2 ^ 8 < s.team.csize → h / 2 ^ 8 % 2 ^ 16 = s.team.pgen →
      let pl := fun (n : Nat) => Local.sram (p.sbase + off n)
      let c := s.getCore p.core
      (RegsReady s [va.toNat] [d.toNat] → s.w.acquiring = false → LoadsLocal s (.ldpw d sb va) 4 .zero d.toNat c pl)
      ∧ (RegsReady s [va.toNat, d.toNat] [] → ∃ t, exec (.stpw d sb va) s = .next t ∧ GoesOn s t s.ix.next ∧ MemorySame s t
          ∧ OnlyOps s t ∧ StoredLocal s 4 d.toNat pl c (t.getCore p.core)
          ∧ { t with w := s.w, ix := s.ix, nextId := s.nextId, core := s.core, cores := s.cores } = s
          ∧ ∀ m, m ≠ p.core → t.getCore m = s.getCore m)
      ∧ (RegsReady s [va.toNat, d.toNat] [d.toNat] → s.w.acquiring = false → clean → ∃ t, exec (.apadd d sb va) s = .next t ∧ GoesOn s t s.ix.next
          ∧ MemorySame s t ∧ AtomicLocal s t .add d.toNat pl c (t.getCore p.core)
          ∧ { t with w := s.w, ix := s.ix, nextId := s.nextId, core := s.core, cores := s.cores } = s
          ∧ ∀ m, m ≠ p.core → t.getCore m = s.getCore m))
  ∧ (∀ chip : Nat, s.team.chips[h % 2 ^ 12]? = some chip → h / 2 ^ 57 = 0 → chipReached s chip = true →
      let I := [Instr.ldxw d sb va, .stxw d sb va, .nxadd d sb va, .nxfadd d sb va, .ldxd d sb va, .stxd d sb va]
      let regs := d.toNat :: va.toNat :: (if d.toNat % 2 = 0 then [d.toNat + 1] else [])
      RegsReady s regs regs →
      (s.w.cur.xlat < 2 → d.toNat % 2 = 0 → ∀ k ∈ I, ∃ t, exec k s = .next t ∧ WarpOnly s t ∧ t.w.cur.xlat = 1 ∧ t.w.cur.since ≠ none
        ∧ { t.w.cur with xlat := s.w.cur.xlat, since := s.w.cur.since } = s.w.cur ∧ { t.w with cur := s.w.cur } = s.w)
      ∧ (s.w.cur.xlat = 2 → ∀ (lf : Nat → W64) (pa : Nat → Nat),
        let ok := fun (acc : Acc) (size : Nat) => ∀ n ∈ activeThreads s,
          chkRemote s acc size (s.w.sGet sb.toNat) (off n) (s.w.pGet va.toNat n) = .ok (lf n) (pa n)
        let L := fun (k : Instr) (size : Nat) => ok .read size →
          ∃ t o parts, exec k s = .next t ∧ GoesOn s t s.ix.next ∧ OnlyOps s t ∧ MemorySame s t ∧ AddsOp s t .ld o
            ∧ o.kind = .load size .zero d.toNat true false parts
            ∧ o.dests = (group size d.toNat).map (fun r => (r, s.w.cur.active))
            ∧ parts = (activeThreads s).map (fun n => { t := n, place := .remote chip (pa n) ((lf n).getLsbD 8) })
            ∧ { t with w := s.w, ix := s.ix, nextId := s.nextId } = s
        let W := fun (k : Instr) (acc : Acc) (size : Nat) (part : Nat → WPart) => ok acc size →
          (∀ n ∈ activeThreads s, leafM (lf n) = false) → (chip = s.dev.chipId → s.ctx.watch = []) →
          ∃ t o, exec k s = .next t ∧ GoesOn s t s.ix.next ∧ OnlyOps s t ∧ MemorySame s t ∧ AddsOp s t .st o ∧ o.kind = .write
            ∧ Sends s t o (some chip) ((activeThreads s).map (fun n => (pa n / 128, part n)))
            ∧ { t with w := s.w, ix := s.ix, nextId := s.nextId, writes := s.writes } = s
        let st := fun (size n : Nat) => WPart.store (pa n) (storedBytes s size d.toNat n) (storedPoison s size d.toNat n)
        L (.ldxw d sb va) 4 ∧ W (.stxw d sb va) .write 4 (st 4)
        ∧ (d.toNat % 2 = 0 → L (.ldxd d sb va) 8 ∧ W (.stxd d sb va) .write 8 (st 8))
        ∧ (clean → W (.nxadd d sb va) .atomic 4 (fun n => .rmw (pa n) .add (s.w.vGet d.toNat n) 0 n)
            ∧ W (.nxfadd d sb va) .atomic 4 (fun n => .rmw (pa n) .fadd (s.w.vGet d.toNat n) 0 n))))

end

/-! # The memory system's own steps (03 R34 to R46; 06 R104 to R113, R117, R128, R135; 13 R296) -/

section

open Sys2Proof Sys2Proof.Machine Sys2Proof.Claims

/-- w is the warp that holds the outstanding operation o, the one of number id. -/
def Sys2Proof.Claims.Holder (s : State) (id : Nat) (w : Warp) (o : Op) : Prop :=
  s.allWarps.find? (fun w => w.ops.any (fun o => o.id == id)) = some w ∧ s.findWarp w.uid = some w
  ∧ w.ops.filter (fun q => q.id == id) = [o] ∧ o.done = false

/-- What a load reads of one line (06 R106, R107, R119): the core's copy where the load may use it and it is valid, else
memory. -/
def Sys2Proof.Claims.LineData (s : State) (w : Warp) (home acq : Bool) (lc pa size : Nat) (bs : List Byte) (poi : Bool) : Prop :=
  ((home = true ∨ acq = true ∨ 2 ≤ lc ∨ l1Hit s (s.getCore w.core) w.uid w.ah (pa / 128) = none)
      ∧ bs = memBytes s.mem pa size ∧ poi = granPoisoned s.mp pa size)
  ∨ ∃ c, home = false ∧ acq = false ∧ lc < 2 ∧ l1Hit s (s.getCore w.core) w.uid w.ah (pa / 128) = some c
      ∧ bs = memBytes c.bytes pa size ∧ poi = granPoisoned c.pois pa size

/-- The parts of a load of size bytes none of which has been read: each within one line, the parts of a line of one lease
class. -/
def Sys2Proof.Claims.PlainParts (size : Nat) (ps : List LoadPart) : Prop :=
  ps ≠ [] ∧ (∀ p ∈ ps, p.t < 32 ∧ ∃ pa lc pr va, p.place = .mem pa lc pr va ∧ (pa + size - 1) / 128 = pa / 128)
  ∧ (∀ p ∈ ps, ∀ q ∈ ps, ∀ pa lc pr va pa' lc' pr' va', p.place = .mem pa lc pr va → q.place = .mem pa' lc' pr' va' →
      pa / 128 = pa' / 128 → lc = lc')

/-- Byte a of memory is one that a part of a write may change. -/
def Sys2Proof.Claims.PartAt (p : WPart) (a : Nat) : Prop := match p with
  | .store pa bs _ => pa ≤ a ∧ a < pa + bs.length
  | .rmw pa _ _ _ _ => pa ≤ a ∧ a < pa + 4

/-- m' is m after a write's parts: a byte of no part is as before; where all parts are stores, a byte holds what the last part
that covers it stores (06 R112). -/
def Sys2Proof.Claims.PartsApplied (parts : List WPart) (m m' : List Host.Cell) : Prop :=
  (∀ a, (∀ p ∈ parts, ¬ PartAt p a) → memRead m' a = memRead m a)
  ∧ ((∀ p ∈ parts, ∃ pa bs poi, p = .store pa bs poi) →
      ∀ pre post pa bs poi a, parts = pre ++ .store pa bs poi :: post → pa ≤ a → a < pa + bs.length →
        (∀ q ∈ post, ¬ PartAt q a) → bs[a - pa]? = some (memRead m' a))

/-- Memory after the read-modify-writes of some parts, applied in their order, each seeing what those before it left (06 R112). -/
def Sys2Proof.Claims.afterRmws : List WPart → List Host.Cell → List Host.Cell
  | [], m => m
  | .store _ _ _ :: ps, m => afterRmws ps m
  | .rmw pa fn u v _ :: ps, m =>
    afterRmws ps (match rmwNew fn (BitVec.ofNat 32 (memNat m pa 4)) u v with
      | some n => memPut m pa (toBytes 4 n.toNat)
      | none => m)

/-- 06 R104, R106, R107, R110, R111, R119, R120, R128: a load's data reach the threads that still await them; a
write's parts are applied at home in one step, with its WCT, after a snapshot has copied its granule (12 R267), and every
other byte of memory stays; the read-modify-writes of one instruction on a line are applied in ascending thread order, each seeing
the result of the one before (R112, R122); its acknowledgement carries the WCT into the warp. Where it rests on a reading or a choice of
the model: notes/assumptions 14.md, 15.md, 40.md, 99.md. -/
def Obligations.LoadsReturnAndWritesLand : Prop :=
  (∀ (s : State) (id : Nat) (m : W32) (w : Warp) (o : Op) (size d : Nat) (ext : Ext) (home acq : Bool) (ps : List LoadPart),
    Holder s id w o → w.ended = false → o.kind = .load size ext d home acq ps → PlainParts size ps →
    size ∈ [1, 2, 4, 8, 16] → (ext = .sign → size ≤ 2) → (∀ tm, s.findTeam w.team = some tm → tm.spec = false) →
    loadMayRun s w.uid id (loadSpans s.dev.chipId size ps) = true → (∀ p ∈ ps, m.getLsbD p.t = true) →
    ∃ t w', exec (.loadDataReturn id m) s = .next t ∧ t.findWarp w.uid = some w' ∧ MemorySame s t ∧ t.writes = s.writes
      ∧ (∀ j n p pa lc pr va, j < (group size d).length → n < 32 → (tabGet 0 (d + j) o.dests).getLsbD n = true →
          ps.find? (fun p => p.t == n) = some p → p.place = .mem pa lc pr va →
          ∃ bs poi, LineData s w home acq lc pa size bs poi ∧ w'.vGet (d + j) n = loadedWord size ext bs j
            ∧ w'.pGet (d + j) n = (poi || pr))
      ∧ (∀ r n, n < 32 → r ∉ group size d ∨ (tabGet 0 r o.dests).getLsbD n = false →
          w'.vGet r n = w.vGet r n ∧ w'.pGet r n = w.pGet r n)
      ∧ w'.ah = (if acq then max w.ah s.time else w.ah)
      ∧ (∀ q ∈ w'.ops, q.id = id → q.done = true ∧ q.dests = [])
      ∧ { w' with v := w.v, vp := w.vp, bound := w.bound, ah := w.ah, ops := w.ops, wmax := w.wmax, fpx := w.fpx
                  fails := w.fails, slotHeld := w.slotHeld } = w)
  ∧ (∀ (s : State) (id : Nat) (m : W32) (w : Warp) (o : Op) (size d : Nat) (ext : Ext) (home acq : Bool) (ps : List LoadPart),
      Holder s id w o → o.kind = .load size ext d home acq ps → PlainParts size ps →
      (∀ tm, s.findTeam w.team = some tm → tm.spec = false) →
      loadMayRun s w.uid id (loadSpans s.dev.chipId size (ps.filter (fun p => m.getLsbD p.t))) = true →
      (∃ p ∈ ps, m.getLsbD p.t = true) → (∃ p ∈ ps, m.getLsbD p.t = false) →
      ∃ t w' ps', exec (.loadDataReturn id m) s = .next t ∧ t.findWarp w.uid = some w' ∧ MemorySame s t ∧ t.writes = s.writes
        ∧ { o with kind := .load size ext d home acq ps' } ∈ w'.ops ∧ ps'.length = ps.length
        ∧ (∀ (j : Nat) (p : LoadPart) (pa lc : Nat) (pr : Bool) (va : Nat), ps[j]? = some p → p.place = .mem pa lc pr va →
            (m.getLsbD p.t = false → ps'[j]? = some p)
            ∧ (m.getLsbD p.t = true → ∃ bs poi, LineData s w home acq lc pa size bs poi
                ∧ ps'[j]? = some { p with place := .got bs (poi || pr) }))
        ∧ w'.ah = (if acq then max w.ah s.time else w.ah) ∧ { w' with ops := w.ops, ah := w.ah } = w)
  ∧ (∀ (s : State) (id : Nat) (w : Warp) (o : Op) (d : Nat) (m : W32) (res : List AtomRes), Holder s id w o → w.ended = false →
      o.kind = .atomic d res → o.pend = 0 →
      ∃ t w', exec (.loadDataReturn id m) s = .next t ∧ t.findWarp w.uid = some w' ∧ MemorySame s t ∧ t.writes = s.writes
        ∧ (∀ n r, n < 32 → (tabGet 0 d o.dests).getLsbD n = true → res.find? (fun r => r.t == n) = some r →
            w'.vGet d n = r.old ∧ w'.pGet d n = r.poi)
        ∧ (∀ r n, n < 32 → r ≠ d ∨ (tabGet 0 d o.dests).getLsbD n = false → w'.vGet r n = w.vGet r n ∧ w'.pGet r n = w.pGet r n)
        ∧ (∀ q ∈ w'.ops, q.id = id → q.done = true ∧ q.dests = []))
  ∧ (∀ (s : State) (x : Write), s.writes.filter (fun y => y.id == x.id) = [x] → x.applied = none → x.rank = none →
      writeMayRun x s = true →
      let c := if (applyParts x.parts s.mem s.mp).did then saveOld (· == x.line / 32) s else (s, false)
      (memExists (x.line * 128) = false → exec (.writeAppliedAtHome x.id) s = .fault (.noMemory (x.line * 128)))
      ∧ (s.snaps = [] → c = (s, false))
      ∧ (memExists (x.line * 128) = true → ∃ t wct, exec (.writeAppliedAtHome x.id) s = .next t
          ∧ PartsApplied x.parts c.1.mem t.mem ∧ t.snaps = c.1.snaps
          ∧ { x with applied := some wct } ∈ t.writes
          ∧ ((∃ pa bs poi, .store pa bs poi ∈ x.parts) → wct = max s.time (tabGet 0 x.line s.lexp) + copyTime s c.2)
          ∧ (∀ pa fn u v th, x.parts = [.rmw pa fn u v th] →
              let old : W32 := BitVec.ofNat 32 (memNat c.1.mem pa 4)
              (granPoisoned c.1.mp pa 4 = false → memNat t.mem pa 4 = ((rmwNew fn old u v).getD old).toNat)
              ∧ (granPoisoned c.1.mp pa 4 = true → MemorySame c.1 t)
              ∧ ∀ w o d res, s.findWarp x.warp = some w → w.ops.filter (fun q => q.id == x.op) = [o] → o.kind = .atomic d res →
                ∃ w', t.findWarp x.warp = some w'
                  ∧ { o with kind := .atomic d (res ++ [⟨th, old, granPoisoned c.1.mp pa 4⟩]) } ∈ w'.ops)
          ∧ ((∀ p ∈ x.parts, ∃ pa fn u v th, p = .rmw pa fn u v th ∧ granPoisoned c.1.mp pa 4 = false) →
              (∀ a, memRead t.mem a = memRead (afterRmws x.parts c.1.mem) a)
              ∧ ∀ w o d res, s.findWarp x.warp = some w → w.ops.filter (fun q => q.id == x.op) = [o] → o.kind = .atomic d res →
                ∃ w' got, t.findWarp x.warp = some w' ∧ { o with kind := .atomic d (res ++ got) } ∈ w'.ops
                  ∧ got.length = x.parts.length
                  ∧ ∀ pre post pa fn u v th, x.parts = pre ++ .rmw pa fn u v th :: post →
                      got[pre.length]? = some ⟨th, BitVec.ofNat 32 (memNat (afterRmws pre c.1.mem) pa 4), false⟩)
          ∧ { t with mem := s.mem, mp := s.mp, writes := s.writes, w := s.w, ws := s.ws, core := s.core, cores := s.cores
                     shoots := s.shoots, snaps := s.snaps } = s
          ∧ t.shoots = s.shoots.map (Shoot.seen x.id wct)
          ∧ (∀ n, { t.getCore n with l1 := (s.getCore n).l1 } = s.getCore n)
          ∧ { t.w with mon := s.w.mon, ops := s.w.ops } = s.w))
  ∧ (∀ (s : State) (x : Write) (wct : Nat), s.writes.find? (fun y => y.id == x.id) = some x → x.applied = some wct →
      ∃ t, exec (.writeAck x.id) s = .next t ∧ MemorySame s t ∧ t.writes = s.writes.filter (fun y => y.id != x.id)
        ∧ ∀ w, s.findWarp x.warp = some w → ∃ w', t.findWarp x.warp = some w' ∧ max w.wmax wct ≤ w'.wmax
          ∧ (∀ o, w.ops.filter (fun q => q.id == x.op) = [o] → o.kind = .write → o.pend ≤ 1 →
              ∀ q ∈ w'.ops, q.id = x.op → q.done = true)
          ∧ { w' with ops := w.ops, wmax := w.wmax, fpx := w.fpx, fails := w.fails, slotHeld := w.slotHeld } = w)

/-- The result r of a walk of a context's tables for a virtual address (03 R36, R37, R40): the first condition that fails, with
its level, or the leaf. -/
def Sys2Proof.Claims.Walks (s : State) (c : Ctx) (va : Nat) (r : WalkRes) : Prop :=
  let here := fun (pa : Nat) => inQuarters (rangeOf s.parts c).quarter (rangeOf s.parts c).count pa = true
  let reserved := fun (e : Nat) => e / 2 ^ 52 ≠ 0 ∨ e / 2 % 2 ^ 15 ≠ 0
  let next := fun (e : Nat) => e / 2 ^ 16 % 2 ^ 36 * 2 ^ 16
  let good := fun (e : Nat) => e % 2 = 1 ∧ ¬ reserved e ∧ here (next e)
  let e1 := memNat s.mem (c.root + va / 2 ^ 44 % 2 ^ 13 * 8) 8
  let e2 := memNat s.mem (next e1 + va / 2 ^ 31 % 2 ^ 13 * 8) 8
  let e3 := memNat s.mem (next e2 + va / 2 ^ 18 % 2 ^ 13 * 8) 8
  let l : W64 := BitVec.ofNat 64 e3
  let level := fun (e n : Nat) => (e % 2 = 0 → r = .fail 1 n) ∧ (e % 2 = 1 → reserved e → r = .fail 2 n)
    ∧ (e % 2 = 1 → ¬ reserved e → ¬ here (next e) → r = .fail 3 n)
  level e1 1
  ∧ (good e1 → level e2 2)
  ∧ (good e1 → good e2 →
      (e3 % 2 = 0 → r = .fail 1 3)
      ∧ (e3 % 2 = 1 → leafMalformed l = true → r = .fail 2 3)
      ∧ (e3 % 2 = 1 → leafMalformed l = false → ¬ here (e3 / 2 ^ 20 % 2 ^ 34 * 2 ^ 18) → r = .fail 3 3)
      ∧ (e3 % 2 = 1 → leafMalformed l = false → here (e3 / 2 ^ 20 % 2 ^ 34 * 2 ^ 18) → r = .leaf l))

/-- 03 R34, R36, R37, R40, R43 to R46; 06 R135: a walker takes its die's oldest miss and reads the tables; the result
goes to the splits that wait, and only a leaf into the caches; a shoot-down completes; memory errors poison their
granule or are counted; the timeout of a parked MWAIT disarms its monitor and raises 0x09. Where it rests on a reading
or a choice of the model: notes/assumptions 23.md, 25.md. -/
def Obligations.WalksShootDownsAndErrors : Prop :=
  (∀ (s : State) (die : Nat) (pre post : List Walk) (k : Walk) (c : Ctx), s.walkQ = pre ++ k :: post →
    (∀ q ∈ pre, q.die = die → q.started = true) → k.die = die → k.started = false → k.va < 2 ^ 39 →
    (s.walkQ.filter (fun q => q.die == die && q.started)).length < 64 → s.findCtx k.asid = some c →
    ∃ r, exec (.pageWalk die) s = .next { s with walkQ := pre ++ { k with started := true, res := some r } :: post }
      ∧ Walks s c (k.va * 2 ^ 18) r)
  ∧ (∀ (s : State) (die : Nat) (k : Walk) (r : WalkRes), s.walkQ.find? (fun q => q.id == k.id && q.die == die) = some k →
      k.res = some r →
      ∃ t, exec (.pageWalkDone die k.id) s = .next t ∧ MemorySame s t ∧ t.walkQ = s.walkQ.filter (fun q => q.id != k.id)
        ∧ (∀ why level, r = .fail why level → t.dtlb0 = s.dtlb0 ∧ t.dtlb1 = s.dtlb1 ∧ t.core = s.core ∧ t.cores = s.cores)
        ∧ (∀ l, r = .leaf l → ∃ e, tlbFind (t.dtlb die) k.asid (k.va * 2 ^ 18) = some e ∧ e.leaf = l)
        ∧ ((s.w.uid, s.w.cur.num) ∈ k.waiters → s.w.cur.active ≠ 0 → (k.va, r) ∈ t.w.cur.fresh)
        ∧ { t.w with cur := s.w.cur, others := s.w.others } = s.w)
  ∧ (∀ (s : State) (k : Shoot), s.shoots.find? (fun q => q.id == k.id && !q.done) = some k → shootDone k s = true →
      ∃ t, exec (.shootDownComplete k.id) s = .next t ∧ (k.frees = [] → MemorySame s t ∧ t.mp = s.mp ∧ t.dev = s.dev)
        ∧ (∀ f ∈ k.frees, (∀ q ∈ s.shoots, q.id ≠ k.id → q.done = false → f ∉ q.frees) → f ∉ t.dev.used
            ∧ ∀ a, a / 2 ^ 18 = f → memRead t.mem a = 0 ∧ granPoisoned t.mp a 1 = false)
        ∧ (∀ a, a / 2 ^ 18 ∉ k.frees → memRead t.mem a = memRead s.mem a)
        ∧ (k.who = none → t.shoots = s.shoots.filter (fun q => q.id != k.id))
        ∧ (k.who ≠ none → ∃ q ∈ t.shoots, q.id = k.id ∧ q.done = true)
        ∧ (k.frees = [] → t.w = s.w ∧ t.ws = s.ws) ∧ { t.w with mon := s.w.mon } = s.w
        ∧ { t with shoots := s.shoots, ctx := s.ctx, ctxs := s.ctxs, mem := s.mem, mp := s.mp, dev := s.dev, w := s.w, ws := s.ws } = s
        ∧ { t.dev with used := s.dev.used } = s.dev)
  ∧ (∀ (s : State) (pa : Nat), memExists pa = true →
      (∃ t, exec (.uncorrectableError pa) s = .next t ∧ granPoisoned t.mp pa 1 = true ∧ t.uncorrected = s.uncorrected + 1
        ∧ (∀ a, a / 64 ≠ pa / 64 → granPoisoned t.mp a 1 = granPoisoned s.mp a 1)
        ∧ { t with mp := s.mp, uncorrected := s.uncorrected } = s)
      ∧ exec (.correctedError pa) s = .next { s with corrected := s.corrected + 1, errLog := (0, BitVec.ofNat 64 pa, 0) :: s.errLog })
  ∧ (∀ (s s1 : State) (core slot split : Nat) (va : W64) (line due : Nat), focus core slot split s = some s1 →
      s1.w.cur.deadline = some due → s1.w.mon = some (va, line, false) → due ≤ s1.time → UserNoHandler s1 →
      tvecReady s1.w.tvec = false →
      ∃ t, exec (.mwaitTimeout core slot split) s = .next t ∧ MemorySame s t ∧ t.w.mon = none
        ∧ t.w.trap = { tcause := kernelTcause s1 0x09, tpc := s1.w.cur.pc, taddr := va
                       tmask := s1.w.cur.active.setWidth 64, tsub := 0, tinfo := tinfoWord { dict := s1.w.cur.dict } 0 }
        ∧ t.w.cur.pc = s1.ctx.ktvec &&& 0x01FFFFFFFFFFFFFE#64 ∧ t.w.cur.priv = true
        ∧ { t.w with mon := s1.w.mon, trap := s1.w.trap, cur := s1.w.cur } = s1.w)

/-- 06 R104, R117, R125; 13 R296: a remote access is performed at its chip, a remote translation answers the split
that asked, and a link failure cuts chips off and rewrites POS and SIG of the groups it names. Where it rests on a reading or a choice of the model: notes/assumptions
43.md, 52.md. -/
def Obligations.RemoteTraffic : Prop :=
  (∀ (s : State) (x : Write) (chip : Nat), s.writes.filter (fun y => y.id == x.id) = [x] → x.applied = none →
    x.rank = some chip → (chip = s.dev.chipId ∨ ∃ c ∈ s.chips, c.id = chip) →
    writeMayRun x s = true →
    let c := if chip = s.dev.chipId ∧ (applyParts x.parts s.mem s.mp).did then (saveOld (· == x.line / 32) s).1 else s
    ∃ t wct, exec (.remoteAccess x.id) s = .next t ∧ (chip ≠ s.dev.chipId → MemorySame s t)
      ∧ PartsApplied x.parts (chipMem c chip).1 (chipMem t chip).1 ∧ { x with applied := some wct } ∈ t.writes
      ∧ (∀ m, m ≠ chip → chipMem t m = chipMem s m))
  ∧ (∀ (s : State) (id : Nat) (w : Warp) (o : Op) (size d : Nat) (ext : Ext) (home acq : Bool) (ps : List LoadPart),
      Holder s id w o → o.kind = .load size ext d home acq ps → (∀ y ∈ s.writes, y.id ≠ id) →
      (∀ tm, s.findTeam w.team = some tm → tm.spec = false) →
      loadMayRun s w.uid id (loadSpans s.dev.chipId size ps) = true →
      ∃ t w' ps', exec (.remoteAccess id) s = .next t ∧ MemorySame s t ∧ t.findWarp w.uid = some w'
        ∧ { o with kind := .load size ext d home acq ps' } ∈ w'.ops ∧ ps'.length = ps.length
        ∧ (∀ (j : Nat) (p : LoadPart) (chip pa : Nat) (pr : Bool), ps[j]? = some p → p.place = .remote chip pa pr → ps'[j]? = some { p with
            place := .got (memBytes (chipMem s chip).1 pa size) (pr || granPoisoned (chipMem s chip).2.1 pa size) })
        ∧ { w' with ops := w.ops } = w)
  ∧ (∀ (s : State) (core slot split : Nat) (w : Warp),
      s.allWarps.find? (fun w => w.resident && w.core == core && w.slot == slot) = some w → s.findWarp w.uid = some w →
      w.cur.num = split → w.cur.active ≠ 0 → w.cur.xlat = 1 →
      ∃ t w', exec (.remoteTranslationDone core slot split) s = .next t ∧ MemorySame s t ∧ t.findWarp w.uid = some w'
        ∧ w'.cur = { w.cur with xlat := 2 } ∧ { w' with cur := w.cur, others := w.others } = w)
  ∧ (∀ (s : State) (groups : List (Nat × Nat × List Nat)) (cut : List Nat),
      ∃ t, exec (.linkFailure groups cut) s = .next t ∧ (∀ c, c ∈ t.dev.cut ↔ c ∈ cut ∨ c ∈ s.dev.cut)
        ∧ (groups = [] → MemorySame s t)
        ∧ { t with mem := s.mem, dev := s.dev, w := s.w, ws := s.ws } = s ∧ t.dev.reroutes = s.dev.reroutes + 1
        ∧ { t.dev with cut := s.dev.cut, reroutes := s.dev.reroutes, trees := s.dev.trees } = s.dev)
  ∧ (∀ (s : State) (asid g tb pb : Nat) (pos cut : List Nat) (c : Ctx), s.findCtx asid = some c → reroutedTable s c g = some tb →
      pos.length ≤ 4096 → (List.range pos.length).all pos.contains = true → memNat s.mem pb 8 % 8192 = pos.length →
      let n := pos.length
      (∀ m, (∀ a, a < pb ∨ pb + 64 + 8 * n ≤ a → memRead m a = memRead s.mem a) →
        ∀ x, x < 64 + 8 * n → ctxPA { s with mem := m } c (tb + x) = some (pb + x)) →
      ∃ t, exec (.linkFailure [(asid, g, pos)] cut) s = .next t
        ∧ (∀ r p : Nat, pos[r]? = some p → let old := memNat s.mem (pb + 64 + 8 * r) 8
            memNat t.mem (pb + 64 + 8 * r) 8 = old - old / 2 ^ 12 % 2 ^ 12 * 2 ^ 12 + p * 2 ^ 12)
        ∧ (∃ ranks : List Nat, ranks.length = n ∧ (∀ p r : Nat, ranks[p]? = some r → pos[r]? = some p)
            ∧ memNat t.mem (pb + 8) 8 = (treeSig ranks).toNat)
        ∧ ∀ a, (a < pb + 8 ∨ pb + 16 ≤ a) → (a < pb + 64 ∨ pb + 64 + 8 * n ≤ a) → memRead t.mem a = memRead s.mem a)

end

/-! # Waits, fences, monitors, speculation, blocks and barriers (05 R86; 06 R129 to R139; 07 R141, R142; 14 R325 to R329;
16 R356, R357) -/

section

open Sys2Proof Sys2Proof.Machine Sys2Proof.Claims

/-- The split waits at i: nothing changes but that it is parked, with the operands it read. -/
def Sys2Proof.Claims.Parks (i : Instr) (s : State) : Prop :=
  ∃ t, exec i s = .next t ∧ WarpOnly s t ∧ t.ix = s.ix ∧ t.w.cur.since ≠ none
    ∧ { t.w.cur with since := s.w.cur.since, arg := s.w.cur.arg } = s.w.cur ∧ { t.w with cur := s.w.cur } = s.w

/-- s[a] as the split read it when the instruction issued (06 R130): the value it keeps while it is parked, else the
register's. -/
def Sys2Proof.Claims.issueOperand (s : State) (a : BitVec 6) : W64 := (s.w.cur.arg.head?).getD (s.w.sGet a.toNat)

/-- A FENCE of a scope has nothing to wait for (06 R131): scopes 0 to 2 never; else every store, reduction and peer store has
completed and the time lies past WMAX, for scopes 5 and 6 by the fabric's skew of 20 ns. -/
def Sys2Proof.Claims.Fenced (s : State) (scope : Nat) : Prop :=
  scope ≤ 2 ∨ ((∀ o ∈ s.w.ops, o.cls = .st → o.done = true) ∧ s.w.wmax + (if 5 ≤ scope then 20 else 0) < s.time)

/-- The limits of a WAITC (06 R129), 31 for none, are met. -/
def Sys2Proof.Claims.LimitsMet (s : State) (l p q t c : BitVec 5) : Prop :=
  ∀ x ∈ [(Cls.ld, l.toNat), (.st, p.toNat), (.cp, q.toNat), (.tl, t.toNat), (.cl, c.toNat)], x.2 = 31 ∨ s.w.count x.1 ≤ x.2

/-- An access of one address by the split: aligned and translated to leaf l and address pa. -/
def Sys2Proof.Claims.Reach1 (s : State) (acc : Acc) (size : Nat) (va l : W64) (pa : Nat) : Prop :=
  va.toNat % size = 0 ∧ translate s acc va = .ok l pa

/-- An acquire load of a dword by the split gives x: it may be performed, and neither the page nor the bytes are poisoned. -/
def Sys2Proof.Claims.Acquires (s : State) (va : W64) (x : Nat) : Prop :=
  s.team.spec = false ∧ ∃ l pa, Reach1 s .read 8 va l pa ∧ loadMayRun s s.w.uid s.nextId [(s.dev.chipId, pa, 8)] = true
    ∧ l.getLsbD 8 = false ∧ granPoisoned s.mp pa 8 = false ∧ x = memNat s.mem pa 8

/-- k completes with s[d] ← x as an acquire (06 R121): AH at least now, WMAX not lowered; nothing else of the warp but
reported failures, no memory. -/
def Sys2Proof.Claims.AcquiredResult (k : Instr) (s : State) (d : Nat) (x : Nat) : Prop :=
  ∃ t, exec k s = .next t ∧ GoesOn s t s.ix.next ∧ MemorySame s t
    ∧ t.w.sGet d = (if d = 0 then 0 else BitVec.ofNat 64 x) ∧ ScalarsBut d s t ∧ t.w.ah = max s.w.ah s.time ∧ s.w.wmax ≤ t.w.wmax
    ∧ { t.w with s := s.w.s, ah := s.w.ah, wmax := s.w.wmax, cur := s.w.cur } = s.w
    ∧ { t with w := s.w, ix := s.ix, core := s.core } = s ∧ { t.core with l1 := s.core.l1 } = s.core

/-- 06 R129 to R131; 05 R86, R101: FENCE and WAITC go on exactly when what they wait for has happened, and change
nothing; CSEQ reads the completion word as an acquire, WAITR waits until it has reached s[SA]; WAITC reports a failure of an
operation of any class that it required, once. FENCE of scope 7 is ILLEGAL WHY 3 by the model's reading (notes/assumptions 21.md).
Where it rests on another reading or choice of the model: notes/assumptions 7.md, 18.md, 62.md. -/
def Obligations.FencesAndWaits : Prop := ∀ (s : State), s.w.dawn = false →
  (∀ c : BitVec 3, (c.toNat ≤ 6 → (Fenced s c.toNat → OnlyAdvances (.fence c) s) ∧ (¬ Fenced s c.toNat → Parks (.fence c) s))
    ∧ (c = 7 → UserNoHandler s → RaisesIllegal (.fence c) s 3))
  ∧ (∀ l p q t c : BitVec 5, s.w.upcall = none →
      (LimitsMet s l p q t c → s.w.fails = [] → OnlyAdvances (.waitc l p q t c) s)
      ∧ (¬ LimitsMet s l p q t c → Parks (.waitc l p q t c) s)
      ∧ (∀ f n, LimitsMet s l p q t c → s.w.fails = [f] →
          (f.cls, n) ∈ [(Cls.ld, l.toNat), (.st, p.toNat), (.cp, q.toNat), (.tl, t.toNat), (.cl, c.toNat)] → n ≠ 31 →
          f.ord + n ≤ s.w.issuedOf f.cls →
          UserNoHandler s → tvecReady s.w.tvec = false →
          ∃ u, exec (.waitc l p q t c) s = .next u ∧ MemorySame s u ∧ u.w.fails = []
            ∧ u.w.trap.tcause = kernelTcause s f.cause.code ∧ u.w.trap.tsub = BitVec.ofNat 64 f.cause.tsub
            ∧ u.w.trap.taddr = f.cause.taddr ∧ u.w.trap.tpc = s.ix.addr))
  ∧ (∀ (d a c : BitVec 6) (ch : Chain) (x : Nat), s.ctx.chain c.toNat = some ch → Acquires s ch.cwAddr x →
      let q := (issueOperand s a).toNat
      AcquiredResult (.cseq d c) s d.toNat x
      ∧ (x % 2 ^ 59 < q → Parks (.waitr d a c) s ∧ ∀ t, exec (.waitr d a c) s = .next t → t.w.cur.arg = [issueOperand s a])
      ∧ (q ≤ x % 2 ^ 59 → s.w.fails = [] → (∀ o ∈ s.w.ops, o.fail = none) →
          AcquiredResult (.waitr d a c) s d.toNat x))
  ∧ (∀ (d a c : BitVec 6), s.ctx.chain c.toNat = none → UserNoHandler s →
      ∀ k ∈ [Instr.cseq d c, .waitr d a c], Traps k s 0x05 0 0 (6 * 2 ^ 32) s.w.cur.active)

/-- 06 R132 to R139: PREF brings a permitted line into the L1 and never faults; INVL1 drops copies; MON arms the monitor and
MWAIT waits for it; TCOMMIT applies the held bytes (its memory is stated where no snapshot has granules to copy, 12 R267) and
TDISCARD drops them. -/
def Sys2Proof.Claims.CachesMonitorsAndSpeculation : Prop := ∀ (s : State) (a : BitVec 6) (i : BitVec 9), s.w.dawn = false →
  let x := s.w.sGet a.toNat
  let L1Only := fun (t : State) => { t with w := s.w, ix := s.ix, core := s.core, lexp := s.lexp } = s
    ∧ { t.core with l1 := s.core.l1 } = s.core ∧ { t.w with cur := s.w.cur } = s.w
  (∃ t, exec (.pref a i) s = .next t ∧ GoesOn s t s.ix.next ∧ MemorySame s t ∧ L1Only t
    ∧ ∀ l, ctxWalk s s.ctx (x + i.setWidth 64 * 128).toNat = .leaf l → permWhy l .read s.w.cur.priv = none →
        l.toNat / 2 ^ 6 % 4 < 2 → ∃ c ∈ t.core.l1, c.line = leafPA l (x + i.setWidth 64 * 128).toNat / 128)
  ∧ (a = 0 → ∃ t, exec (.invl1 a) s = .next t ∧ GoesOn s t s.ix.next ∧ MemorySame s t ∧ L1Only t ∧ t.lexp = s.lexp ∧ t.core.l1 = [])
  ∧ (∀ l pa, Reach1 s .read 1 x l pa →
      (a ≠ 0 → ∃ t, exec (.invl1 a) s = .next t ∧ GoesOn s t s.ix.next ∧ MemorySame s t ∧ L1Only t ∧ t.lexp = s.lexp
        ∧ ∀ c, c ∈ t.core.l1 ↔ c ∈ s.core.l1 ∧ c.line ≠ pa / 128)
      ∧ ∃ t, exec (.mon a) s = .next t ∧ WarpOnly s t ∧ GoesOn s t s.ix.next ∧ t.w.mon = some (x &&& ~~~127#64, pa / 128, false)
          ∧ { t.w with mon := s.w.mon, cur := s.w.cur } = s.w)
  ∧ (s.w.mon = none → OnlyAdvances (.mwait a) s)
  ∧ (∀ va line, s.w.mon = some (va, line, true) → ∃ t, exec (.mwait a) s = .next t ∧ WarpOnly s t ∧ GoesOn s t s.ix.next
      ∧ t.w.mon = none ∧ { t.w with mon := s.w.mon, cur := s.w.cur } = s.w)
  ∧ (∀ va line, s.w.mon = some (va, line, false) →
      let y := issueOperand s a
      let limit := s.w.cur.deadline.getD (s.time + y.toNat)
      (y = 0 ∨ s.time < limit) →
      ∃ t, exec (.mwait a) s = .next t ∧ WarpOnly s t ∧ t.w.cur.pc = s.w.cur.pc ∧ t.w.cur.since = some (s.w.cur.since.getD s.time)
        ∧ t.w.cur.deadline = (if y = 0 then none else some limit) ∧ t.w.cur.arg = [y]
        ∧ { t.w with cur := s.w.cur } = s.w)
  ∧ (s.team.spec = false → UserNoHandler s → Traps .tcommit s 0x12 3 0 0 s.w.cur.active ∧ Traps .tdiscard s 0x12 3 0 0 s.w.cur.active)
  ∧ (s.team.spec = true → s.w.count .st = 0 → Fenced s 4 →
      (((s.team.specLines.flatMap (·.bytes)).map (·.1)).Nodup →
        ∃ t, exec .tcommit s = .next t ∧ t.ix.retired = true ∧ t.w.cur.pc = s.ix.next ∧ t.team.spec = false ∧ t.team.specLines = []
          ∧ (s.snaps = [] → (∀ p ∈ s.team.specLines.flatMap (·.bytes), memRead t.mem p.1 = p.2)
              ∧ ∀ b, (∀ p ∈ s.team.specLines.flatMap (·.bytes), p.1 ≠ b) → memRead t.mem b = memRead s.mem b)
          ∧ s.w.wmax ≤ t.w.wmax ∧ { t.w with wmax := s.w.wmax, mon := s.w.mon, cur := s.w.cur } = s.w)
      ∧ ∃ t, exec .tdiscard s = .next t ∧ GoesOn s t s.ix.next ∧ MemorySame s t ∧ t.team.spec = false ∧ t.team.specLines = []
          ∧ { t with w := s.w, ix := s.ix, team := s.team } = s ∧ { t.w with cur := s.w.cur } = s.w)

/-- k writes s[d] ← x and goes on; of the machine only the core's request queue, the team's and the Meridian barriers may
change otherwise. -/
def Sys2Proof.Claims.Writes1 (k : Instr) (s : State) (d : Nat) (x : W64) (more : State → Prop) : Prop :=
  ∃ t, exec k s = .next t ∧ GoesOn s t s.ix.next ∧ MemorySame s t ∧ t.w.sGet d = (if d = 0 then 0 else x) ∧ ScalarsBut d s t
    ∧ { t.w with s := s.w.s, ah := s.w.ah, blocks := s.w.blocks, cur := s.w.cur } = s.w ∧ more t

/-- The barrier b of t is x, and every other barrier is as in s. -/
def Sys2Proof.Claims.BarrierNow (s t : State) (b : BitVec 9) (x : Barrier) : Prop :=
  getBarrier t b = x ∧ (∀ c : BitVec 9, c ≠ b → getBarrier t c = getBarrier s c)
  ∧ { t with w := s.w, ix := s.ix, team := s.team, meridian := s.meridian } = s
  ∧ { t.team with barriers := s.team.barriers } = s.team

/-- 07 R142: extended blocks are taken when they fit and no request stands before, refused or waited for otherwise, in the order
of the requests, and released with their registers. 14 R325: JCDEAL deals records of the launch's job, and none when none is left.
TMASK of a cause of the whole instruction is the model's reading: notes/assumptions 18.md. -/
def Obligations.BlocksAndDeals : Prop := ∀ (s : State) (d : BitVec 6) (n : BitVec 9), s.w.dawn = false →
  (1 ≤ n.toNat → n.toNat + s.w.blocks ≤ 6 →
    (s.core.xq = [] → blocksHeld s s.core.num + n.toNat ≤ 256 →
      (∃ t, exec (.xacq n) s = .next t ∧ WarpOnly s t ∧ GoesOn s t s.ix.next ∧ t.w.blocks = s.w.blocks + n.toNat
        ∧ { t.w with blocks := s.w.blocks, cur := s.w.cur } = s.w)
      ∧ Writes1 (.xtry d n) s d.toNat 1 (fun t => WarpOnly s t ∧ t.w.blocks = s.w.blocks + n.toNat ∧ t.w.ah = s.w.ah))
    ∧ (256 < blocksHeld s s.core.num + n.toNat →
      ScalarResult (.xtry d n) s d.toNat 0
      ∧ (s.core.xq = [] → ∃ t, exec (.xacq n) s = .next t ∧ t.core.xq = [{ warp := s.w.uid, split := s.w.cur.num, n := n.toNat }]
          ∧ t.w.cur.since ≠ none ∧ t.w.cur.pc = s.w.cur.pc ∧ { t.w with cur := s.w.cur } = s.w
          ∧ { t with w := s.w, core := s.core } = s ∧ { t.core with xq := s.core.xq } = s.core))
    ∧ (∀ r rest, s.core.xq = r :: rest →
        let mine := fun (r : XReq) => r.warp = s.w.uid ∧ r.split = s.w.cur.num
        ScalarResult (.xtry d n) s d.toNat 0
        ∧ (mine r → blocksHeld s s.core.num + n.toNat ≤ 256 →
            ∃ t, exec (.xacq n) s = .next t ∧ GoesOn s t s.ix.next ∧ MemorySame s t ∧ t.core.xq = rest
              ∧ t.w.blocks = s.w.blocks + n.toNat ∧ { t.w with blocks := s.w.blocks, cur := s.w.cur } = s.w
              ∧ { t with w := s.w, ix := s.ix, core := s.core } = s ∧ { t.core with xq := s.core.xq } = s.core)
        ∧ (¬ (mine r ∧ blocksHeld s s.core.num + n.toNat ≤ 256) →
            ∃ t, exec (.xacq n) s = .next t ∧ t.w.cur.since ≠ none ∧ t.w.cur.pc = s.w.cur.pc ∧ { t.w with cur := s.w.cur } = s.w
              ∧ ((∃ x ∈ s.core.xq, mine x) → t.core.xq = s.core.xq)
              ∧ ((∀ x ∈ s.core.xq, ¬ mine x) → t.core.xq = s.core.xq ++ [{ warp := s.w.uid, split := s.w.cur.num, n := n.toNat }])
              ∧ { t with w := s.w, core := s.core } = s ∧ { t.core with xq := s.core.xq } = s.core)))
  ∧ (1 ≤ n.toNat → n.toNat ≤ s.w.blocks →
      let first := 32 + 16 * (s.w.blocks - n.toNat)
      (∀ r, first ≤ r → r < first + 16 * n.toNat → s.w.awaits r = false) →
      ∃ t, exec (.xrel n) s = .next t ∧ WarpOnly s t ∧ GoesOn s t s.ix.next ∧ t.w.blocks + n.toNat = s.w.blocks
        ∧ (∀ r, first ≤ r → r < first + 16 * n.toNat → r ∉ t.w.bound)
        ∧ (∀ r, r < first ∨ first + 16 * n.toNat ≤ r → RegSame s t r) ∧ OpsSame s t
        ∧ { t.w with v := s.w.v, vp := s.w.vp, bound := s.w.bound, ops := s.w.ops, spilled := s.w.spilled, blocks := s.w.blocks
                     cur := s.w.cur } = s.w)
  ∧ (UserNoHandler s → (n.toNat = 0 ∨ 6 < n.toNat + s.w.blocks → RaisesIllegal (.xacq n) s 3 ∧ RaisesIllegal (.xtry d n) s 3)
      ∧ (n.toNat = 0 ∨ s.w.blocks < n.toNat → RaisesIllegal (.xrel n) s 3))
  ∧ (d.toNat = 63 → UserNoHandler s → RaisesIllegal (.jcdeal d) s 3)
  ∧ (∀ (l : Launch) (j : Job), d.toNat ≤ 62 → s.findLaunch s.team.launch = some l → l.job = some j →
      (j.left = 0 → ∃ t, exec (.jcdeal d) s = .next t ∧ WarpOnly s t ∧ GoesOn s t s.ix.next ∧ t.w.sGet d.toNat = 0
        ∧ t.w.sGet (d.toNat + 1) = 0)
      ∧ (j.left ≠ 0 → ((j.reserve s.core.num).isEmpty = false ∨ j.central.2 ≠ 0) → dealBefore s l.id = false →
          (j.reserves.map (·.1)).Nodup →
          ∃ (t : State) (l' : Launch) (j' : Job) (r : Range), exec (.jcdeal d) s = .next t ∧ GoesOn s t s.ix.next ∧ MemorySame s t
            ∧ t.w.sGet d.toNat = (if d = 0 then 0 else BitVec.ofNat 64 r.1) ∧ t.w.sGet (d.toNat + 1) = BitVec.ofNat 64 r.2
            ∧ (∀ m, m ≠ d.toNat → m ≠ d.toNat + 1 → t.w.sGet m = s.w.sGet m)
            ∧ l' ∈ t.launches ∧ l'.id = l.id ∧ l'.job = some j' ∧ j'.left + r.2 = j.left
            ∧ { t.w with s := s.w.s, cur := s.w.cur } = s.w ∧ { t with w := s.w, ix := s.ix, launches := s.launches } = s))

/-- 14 R327 to R329: the barrier instructions, for a team barrier or a granted Meridian group; a number past 271 is ILLEGAL
WHY 3, a group not granted PROT WHY 7. TMASK of a cause of the whole instruction is the
model's reading: notes/assumptions 18.md. -/
def Obligations.BarrierInstructions : Prop := ∀ (s : State) (d a : BitVec 6) (b : BitVec 9), s.w.dawn = false →
  let x := getBarrier s b
  let y := s.w.sGet a.toNat
  let old := issueOperand s a
  let gen : W64 := x.gen.setWidth 64
  let I := [Instr.bara d b, .barw d a b, .bart d b, .bjoin d b, .bleave d b, .binit d a b]
  let now := fun (z : Barrier) (t : State) => BarrierNow s t b z ∧ t.w.ah = s.w.ah ∧ t.w.blocks = s.w.blocks
  (b.toNat ≤ 271 → (b.toNat < 16 ∨ b.toNat - 16 ∈ s.ctx.groups) →
    (x.emptied = false → Fenced s (if b.toNat < 16 then 2 else 4) →
      (x.a + 1 ≠ x.m → Writes1 (.bara d b) s d.toNat gen (now { x with a := x.a + 1 }))
      ∧ (x.a + 1 = x.m → ∃ z, z.gen = x.gen + 1 ∧ z.a = 0 ∧ z.dj = 0 ∧ (z.m : Int) = max 0 (x.m + x.dj)
          ∧ (z.emptied = true ↔ x.m + x.dj ≤ 0) ∧ Writes1 (.bara d b) s d.toNat gen (now z)))
    ∧ Writes1 (.bart d b) s d.toNat gen (fun t => WarpOnly s t ∧ t.w.ah = max s.w.ah s.time ∧ t.w.blocks = s.w.blocks)
    ∧ (1 ≤ (x.gen - old.setWidth 32).toNat ∧ (x.gen - old.setWidth 32).toNat < 2 ^ 31 →
        Writes1 (.barw d a b) s d.toNat gen (fun t => WarpOnly s t ∧ t.w.ah = max s.w.ah s.time ∧ t.w.blocks = s.w.blocks))
    ∧ (¬ (1 ≤ (x.gen - old.setWidth 32).toNat ∧ (x.gen - old.setWidth 32).toNat < 2 ^ 31) → Parks (.barw d a b) s)
    ∧ Writes1 (.bjoin d b) s d.toNat (BitVec.ofInt 64 (x.m + x.dj + 1)) (now { x with dj := x.dj + 1 })
    ∧ Writes1 (.bleave d b) s d.toNat (BitVec.ofInt 64 (x.m + x.dj - 1)) (now { x with dj := x.dj - 1 })
    ∧ (1 ≤ y.toNat % 2 ^ 16 → (b.toNat < 16 → y.toNat % 2 ^ 16 ≤ 32) →
        Writes1 (.binit d a b) s d.toNat 1 (now { gen := 0, m := y.toNat % 2 ^ 16, a := 0, dj := 0 })))
  ∧ (UserNoHandler s → (271 < b.toNat → ∀ k ∈ I, RaisesIllegal k s 3)
      ∧ (16 ≤ b.toNat → b.toNat ≤ 271 → b.toNat - 16 ∉ s.ctx.groups → ∀ k ∈ I, Traps k s 0x05 0 0 (7 * 2 ^ 32) s.w.cur.active))

/-- The physical address of the values, and of the poison word, of register r in the warp's save record (16 R357, R360). -/
def Sys2Proof.Claims.spillAt (s : State) (r : Nat) (pa ppa : Nat) : Prop :=
  let base := s.core.spill.toNat + 0x328000 + 0x10000 * s.w.slot
  ctxPA s s.ctx (base + 128 * r) = some pa ∧ ctxPA s s.ctx (base + 0x4000 + 4 * r) = some ppa

/-- 16 R345, R356, R357: TLBI and MSPILL raise PRIV in user mode; TLBI drops the entries it names, waits, and goes on once
its shoot-down is complete; MSPILL unbinds every register after writing its values and poison into the save record. -/
def Sys2Proof.Claims.TlbiAndMspill : Prop := ∀ (s : State) (a : BitVec 6), s.w.dawn = false →
  (UserNoHandler s → ∀ k ∈ [Instr.tlbiPage a, .tlbiAsid, .mspill], RaisesPriv k s)
  ∧ (s.w.cur.priv = true → ∀ k ∈ [(Instr.tlbiPage a, some ((s.w.sGet a.toNat).toNat % 2 ^ 57)), (.tlbiAsid, none)],
      let me := some (s.w.uid, s.w.cur.num)
      ((∀ q ∈ s.shoots, q.who ≠ me) → ∃ t q, exec k.1 s = .next t ∧ MemorySame s t ∧ t.shoots = s.shoots ++ [q] ∧ q.who = me
          ∧ q.asid = some s.ctx.asid ∧ q.va = k.2 ∧ q.done = false ∧ t.w.cur.since ≠ none ∧ t.w.cur.pc = s.w.cur.pc
          ∧ (∀ e ∈ t.core.tlb ++ t.dtlb0 ++ t.dtlb1, e.asid = s.ctx.asid →
              ∀ v, k.2 = some v → v / 2 ^ e.size ≠ e.va / 2 ^ e.size)
          ∧ (k.2 = none → ∀ e ∈ t.core.tlb ++ t.dtlb0 ++ t.dtlb1, e.asid ≠ s.ctx.asid))
      ∧ (∀ q, s.shoots.find? (fun q => q.who == me) = some q → q.done = false → Parks k.1 s)
      ∧ (∀ q, s.shoots.find? (fun q => q.who == me) = some q → q.done = true →
          ∃ t, exec k.1 s = .next t ∧ GoesOn s t s.ix.next ∧ MemorySame s t ∧ t.shoots = s.shoots.filter (fun x => x.id != q.id)
            ∧ { t with w := s.w, ix := s.ix, shoots := s.shoots } = s ∧ { t.w with cur := s.w.cur } = s.w))
  ∧ (s.w.cur.priv = true → (∀ r, r < 128 → s.w.awaits r = false) →
      ∃ t, exec .mspill s = .next t ∧ t.ix.retired = true ∧ t.w.cur.pc = s.ix.next ∧ t.w.bound = []
        ∧ (∀ r, r ∈ t.w.spilled ↔ r ∈ s.w.bound ∨ r ∈ s.w.spilled)
        ∧ (∀ b, (∀ r ∈ s.w.bound, ∀ p ∈ spillPieces s r, ¬ (p.1 ≤ b ∧ b < p.1 + p.2.1.length)) → memRead t.mem b = memRead s.mem b)
        ∧ (∀ pa ppa : Nat → Nat, s.w.bound.Nodup → (∀ r ∈ s.w.bound, spillAt s r (pa r) (ppa r)) →
            (∀ r ∈ s.w.bound, ∀ q ∈ s.w.bound, (ppa r + 4 ≤ pa q ∨ pa q + 128 ≤ ppa r)
              ∧ (r ≠ q → (pa r + 128 ≤ pa q ∨ pa q + 128 ≤ pa r) ∧ (ppa r + 4 ≤ ppa q ∨ ppa q + 4 ≤ ppa r))) →
            ∀ r ∈ s.w.bound, (∀ n, n < 32 → memNat t.mem (pa r + 4 * n) 4 = (s.w.vGet r n).toNat)
              ∧ memNat t.mem (ppa r) 4 = (s.w.vPois r).toNat)
        ∧ t.w.v = s.w.v ∧ t.w.vp = s.w.vp ∧ t.w.s = s.w.s ∧ t.w.k = s.w.k ∧ t.w.td = s.w.td)

/-- 06 R132 to R139; 16 R345, R356, R357: PREF, INVL1, monitors, speculation, TLBI and MSPILL
(CachesMonitorsAndSpeculation, TlbiAndMspill). Where it rests on a reading or a choice of the model: notes/assumptions 18.md, 23.md, 24.md, 25.md. -/
def Obligations.CachesAndTranslations : Prop := CachesMonitorsAndSpeculation ∧ TlbiAndMspill

end

/-! # Chains, descriptors and copy engines (05 R77 to R102) -/

section

open Sys2Proof Sys2Proof.Machine Sys2Proof.Claims

/-- One more record would make TAIL equal HEAD modulo 63 × NSEG (05 R78). -/
def Sys2Proof.Claims.Full (ch : Chain) : Prop := (ch.tail + 1) % (63 * ch.nseg) = ch.head % (63 * ch.nseg)

/-- Memory is m but in the 64 bytes of chain n's slot entry (05 R78), as m translates them. -/
def Sys2Proof.Claims.EntryOver (s : State) (c : Ctx) (n : Nat) (m m' : List Host.Cell) : Prop :=
  ∀ b, (∀ j, j < 64 → ctxPA { s with mem := m } c (c.ctBase + 64 * n + j) ≠ some b) → memRead m' b = memRead m b

/-- k appends a record to chain n of the issuing context (05 R78, R85): the chain's TAIL, an index of 32 bits, and next sequence
number rise by one, the record stands last among those not complete, and the warp has one more outstanding operation, of
class c. -/
def Sys2Proof.Claims.Appends (s t : State) (n : Nat) (ch : Chain) (c : Cls) (dws : List W64) : Prop :=
  (∃ ch' r, t.ctx.chain n = some ch' ∧ ch'.tail = (ch.tail + 1) % 2 ^ 32 ∧ ch'.nextSeq = ch.nextSeq + 1 ∧ ch'.head = ch.head
    ∧ ch'.recs = ch.recs ++ [r] ∧ r.seq = ch.nextSeq ∧ r.idx = ch.tail ∧ r.dws = dws ∧ r.phase = .queued
    ∧ r.warp = some s.w.uid ∧ r.op = s.nextId ∧ r.priv = s.w.cur.priv)
  ∧ (∃ o ∈ t.w.ops, o.id = s.nextId ∧ o.cls = c ∧ o.kind = .record n ch.nextSeq ∧ o.done = false)
  ∧ { t.w with s := s.w.s, ops := s.w.ops, issued := s.w.issued, wmax := s.w.wmax, fpx := s.w.fpx, fails := s.w.fails
               mon := s.w.mon, cur := s.w.cur } = s.w

/-- The dwords of a record in s[SA] to s[SA+7], its EC raised to e. -/
def Sys2Proof.Claims.pushed (s : State) (a : Nat) (e : BitVec 2) : List W64 :=
  (List.range 8).map (fun i =>
    let x := (s.w.sGet (a + i)).toNat
    if i = 0 then BitVec.ofNat 64 (x - x / 2 ^ 8 % 4 * 2 ^ 8 + max (x / 2 ^ 8 % 4) e.toNat * 2 ^ 8) else BitVec.ofNat 64 x)

/-- The fields of a descriptor that TDSET names: first and last bit (05 R87). -/
def Sys2Proof.Claims.descField (f : Nat) : Nat × Nat :=
  ([(0, 63), (64, 87), (88, 111), (112, 143), (144, 147), (148, 151), (152, 191), (192, 223), (255, 255)][f]?).getD (0, 0)

/-- k completes with descriptor register d ← x, and changes nothing else. -/
def Sys2Proof.Claims.DescResult (k : Instr) (s : State) (d : Nat) (ok : Desc → Prop) : Prop :=
  ∃ t, exec k s = .next t ∧ WarpOnly s t ∧ GoesOn s t s.ix.next ∧ ok (t.w.tdGet d) ∧ (∀ n, n ≠ d → t.w.tdGet n = s.w.tdGet n)
    ∧ { t.w with td := s.w.td, cur := s.w.cur } = s.w

/-- 05 R77, R78, R85, R87, R89, R90: CPUSH and the tile copies append their record, CPUSH answering its sequence
number, or 1 when the chain is full; TDLD, TDST, TDSET and TDOFF move and form descriptors. Where it rests on a
reading or a choice of the model: notes/assumptions 18.md, 33.md, 35.md. -/
def Obligations.ChainsAndDescriptors : Prop := ∀ (s : State), s.w.dawn = false → s.team.spec = false → s.w.cur.active ≠ 0 →
  (∀ (d a c : BitVec 6) (e : BitVec 2) (w : BitVec 1) (ch : Chain),
    let cls := if (s.w.sGet a.toNat).toNat % 256 = 0x10 then Cls.tl else .cp
    a.toNat % 8 = 0 → s.ctx.live = true → s.ctx.chain c.toNat = some ch → ch.host = none → s.w.count cls < 30 →
    (¬ Full ch → Fenced s 4 →
      ∃ t, exec (.cpush d a c e w) s = .next t ∧ t.ix.retired = true ∧ t.w.cur.pc = s.ix.next
        ∧ t.w.sGet d.toNat = (if d = 0 then 0 else BitVec.ofNat 64 ch.nextSeq) ∧ ScalarsBut d.toNat s t
        ∧ Appends s t c.toNat ch cls (pushed s a.toNat e)
        ∧ (∀ va pa, posVA s s.ctx ch ch.tail = some va → ctxPA s s.ctx va = some pa → va % 64 = 0 → s.snaps = [] →
            ∃ m, (∀ i, i < 8 → BitVec.ofNat 64 (memNat m (pa + 8 * i) 8) = ((pushed s a.toNat e)[i]?).getD 0)
              ∧ (∀ b, b < pa ∨ pa + 64 ≤ b → memRead m b = memRead s.mem b) ∧ EntryOver s s.ctx c.toNat m t.mem))
    ∧ (Full ch →
        (w = 0 → ScalarResult (.cpush d a c e w) s d.toNat 1) ∧ (w ≠ 0 → Parks (.cpush d a c e w) s)))
  ∧ (∀ (d a c : BitVec 6) (e : BitVec 2) (w : BitVec 1), UserNoHandler s → s.w.count .tl < 30 → s.w.count .cp < 30 →
      (a.toNat % 8 ≠ 0 → RaisesIllegal (.cpush d a c e w) s 3)
      ∧ (a.toNat % 8 = 0 → s.ctx.chain c.toNat = none → Traps (.cpush d a c e w) s 0x05 0 0 (6 * 2 ^ 32) s.w.cur.active))
  ∧ (∀ (d a b : BitVec 4) (e : BitVec 2) (ch : Chain), s.ctx.live = true → s.ctx.chain 0 = some ch → ch.host = none →
      s.w.count .cp < 30 → ¬ Full ch → Fenced s 4 →
      let x := s.w.tdGet a.toNat
      let y := s.w.tdGet d.toNat
      let at_ := ch.annex.toNat + ch.tail % (63 * max ch.nseg 1) * 128
      let dws := fun (opc k : Nat) => BitVec.ofNat 64 (opc + 256 * e.toNat) :: (List.range 7).map (fun i =>
        if i < k then BitVec.ofNat 64 (at_ + 32 * i) else 0)
      ∀ k ∈ [(Instr.tcpy d a e, if dLayout y = 2 ∧ dLayout x ≠ 2 then 0x02 else 0x01, 2), (.tcpyq d a b e, 0x03, 3),
          (.tcpyx d a e, if dLayout x = 4 then 0x04 else 0x02, 2)],
        ∃ t, exec k.1 s = .next t ∧ t.ix.retired = true ∧ t.w.cur.pc = s.ix.next ∧ (∀ n, t.w.sGet n = s.w.sGet n)
          ∧ Appends s t 0 ch .cp (dws k.2.1 k.2.2))
  ∧ (∀ (d : BitVec 4) (h : BitVec 6) (l : W64) (pa x : Nat), Reach1 s .read 32 (s.w.sGet h.toNat) l pa → s.w.count .ld < 30 →
      loadMayRun s s.w.uid s.nextId [(s.dev.chipId, pa, 32)] = true → l.getLsbD 8 = false → Served s false l pa 32 x →
      ∃ t, exec (.tdld d h) s = .next t ∧ GoesOn s t s.ix.next ∧ MemorySame s t ∧ t.w.tdGet d.toNat = BitVec.ofNat 256 x
        ∧ (∀ n, n ≠ d.toNat → t.w.tdGet n = s.w.tdGet n)
        ∧ { t.w with td := s.w.td, ops := s.w.ops, issued := s.w.issued, wmax := s.w.wmax, fpx := s.w.fpx, fails := s.w.fails
                     cur := s.w.cur } = s.w)
  ∧ (∀ (a : BitVec 4) (h : BitVec 6) (l : W64) (pa : Nat), Reach1 s .write 32 (s.w.sGet h.toNat) l pa → s.w.count .st < 30 →
      s.ctx.watch = [] →
      SendsHome s (.tdst a h) .st .write [] [(pa / 128, .store pa ((List.range 32).map (fun j =>
        BitVec.ofNat 8 ((s.w.tdGet a.toNat).toNat / 2 ^ (8 * j)))) false)])
  ∧ (∀ (d a f : BitVec 4) (h : BitVec 6),
      (f.toNat ≤ 8 → DescResult (.tdset d a f h) s d.toNat (fun z => ∀ j, j < 256 →
        z.getLsbD j = (if (descField f.toNat).1 ≤ j ∧ j ≤ (descField f.toNat).2 then
          (s.w.sGet h.toNat).getLsbD (j - (descField f.toNat).1) else (s.w.tdGet a.toNat).getLsbD j)))
      ∧ (8 < f.toNat → UserNoHandler s → RaisesIllegal (.tdset d a f h) s 3))
  ∧ (∀ (d a : BitVec 4) (h : BitVec 6),
      let x := s.w.tdGet a.toNat
      let i := (s.w.sGet h.toNat).toNat % 2 ^ 32
      let j := (s.w.sGet h.toNat).toNat / 2 ^ 32
      let wb := typeWidth (dType x)
      let fits := dType x < 14 ∧ i < dRows x ∧ j < dCols x
      let sub := fun (base : Nat) => DescResult (.tdoff d a h) s d.toNat (fun z => dField z 63 0 = base % 2 ^ 64
        ∧ dRows z = dRows x - i ∧ dCols z = dCols x - j ∧ dField z 255 112 = dField x 255 112)
      let base := dField x 63 0
      (fits → dLayout x = 0 → (wb = 4 → j % 2 = 0) → sub (base + i * dStride x + j * wb / 8))
      ∧ (fits → dLayout x = 1 → (wb = 4 → i % 2 = 0) → sub (base + j * dStride x + i * wb / 8))
      ∧ (fits → dLayout x = 2 → i % 32 = 0 → j % (1024 / wb) = 0 →
          sub (base + (i / 32 * ((dCols x + 1024 / wb - 1) / (1024 / wb)) + j / (1024 / wb)) * 4096))
      ∧ (¬ fits ∨ 3 ≤ dLayout x → DescResult (.tdoff d a h) s d.toNat (fun z => dField z 63 0 = base ∧ dRows z = 0 ∧ dCols z = 0
          ∧ dField z 255 112 = dField x 255 112)))

/-- r is a record of chain n of the context of an ASID. -/
def Sys2Proof.Claims.RecordAt (s : State) (asid n : Nat) (c : Ctx) (ch : Chain) (r : Rec) : Prop :=
  s.findCtx asid = some c ∧ c.chain n = some ch ∧ ch.recs.filter (fun q => q.seq == r.seq) = [r]
/-- The record of chain n with r's number is r. -/
def Sys2Proof.Claims.RecordNow (s : State) (asid n : Nat) (r : Rec) : Prop := ∃ c ch, RecordAt s asid n c ch r

/-- The record is the next that its engine starts: the oldest of its chain, in the chain's turn (05 R81, R82). -/
def Sys2Proof.Claims.NextRecord (s : State) (asid n : Nat) (c : Ctx) (ch : Chain) (r : Rec) : Prop :=
  RecordAt s asid n c ch r ∧ r.phase = .queued ∧ ch.recs.find? (fun q => q.phase == .queued) = some r ∧ inFlight s ch.engine < 4
  ∧ engineTurn s ch.engine = some (64 * asid + n)
  ∧ (((readRec s c ch r).headD 0).getLsbD 10 = true → ch.head = r.idx ∧ ch.failed = false)

/-- A failure of a record with sub-code, DETAIL and address (05 R101, R102). -/
def Sys2Proof.Claims.FailedWith (ch : Chain) (n opc seq : Nat) (f : Nat × Nat × Nat) (e : Option EFail) : Prop :=
  ∃ y, e = some y ∧ y.sub = f.1 ∧ y.detail = f.2.1
    ∧ y.cause = { code := 0x0D, tsub := f.1 + 16 * f.2.1, taddr := BitVec.ofNat 64 f.2.2
                  info := ch.engine * 2 ^ 45 + n * 2 ^ 39 + opc * 2 ^ 31 + seq % 2 ^ 31 }

/-- k moves no data, and leaves of the record r, and of its context, what post says. -/
def Sys2Proof.Claims.RecordGoes (s : State) (k : Instr) (asid n : Nat) (r : Rec) (post : Rec → Ctx → Prop) : Prop :=
  ∃ t r' c', exec k s = .next t ∧ MemorySame s t ∧ RecordNow t asid n r' ∧ r'.seq = r.seq ∧ t.findCtx asid = some c' ∧ post r' c'

/-- An opcode's work is checking the record's source (05 R94, R96): it has such a pass, and it has not been made. -/
def Sys2Proof.Claims.Checking (s : State) (g : Agent) (e : RecEnv) (w : OpWork) (r : Rec) : Prop :=
  r.els = none ∧ w.check s g e r.ds ≠ none

/-- The address of byte k of element (i, j), of w bytes, in a tile of layout 0, 1 or 2 (05 R87). -/
def Sys2Proof.Claims.elemAt (d : Desc) (w i j k : Nat) : Nat :=
  dBase d + k + (if dLayout d = 0 then i * dStride d + j * w
    else if dLayout d = 1 then j * dStride d + i * w
    else (i / 32 * ((dCols d + 128 / w - 1) / (128 / w)) + j / (128 / w)) * 4096 + i % 32 * 128 + j % (128 / w) * w)

/-- What the engines put where (05 R91, R97, R98): a copy puts each element's bytes of the source at the element's place in the
destination, whatever the two layouts; a fill puts the value there; a gather puts the element that index k names at place k, a
scatter the k-th at the place that index k names. Elements of whole bytes. -/
def Sys2Proof.Claims.EngineData : Prop :=
  (∀ (s : State) (g : Agent) (e : RecEnv) (x y : Desc) (w i j k : Nat), typeWidth (dType y) = 8 * w → dType x = dType y →
    dLayout x ≤ 2 → dLayout y ≤ 2 → i < dRows y → j < dCols y → dCols x = dCols y → k < w →
    (∃ poi, some (elemAt y w i j k, agentByte s g (dSpace x) (elemAt x w i j k), poi) ∈ copyWork.out s g e [x, y])
    ∧ some (elemAt y w i j k, BitVec.ofNat 8 ((e.dw 2).toNat / 2 ^ (8 * k)), false) ∈ fillWork.out s g e [y])
  ∧ (∀ (s : State) (g : Agent) (e : RecEnv) (k b : Nat), k < shapeN e → b < shapeS e →
      (∃ poi, some ((e.dw 4).toNat + k * shapeS e + b,
          agentByte s g false ((e.dw 1).toNat + listIndex s g e k * shapeS e + b), poi) ∈ gatherWork.out s g e [])
      ∧ ∃ poi, some ((e.dw 4).toNat + listIndex s g e k * shapeS e + b,
          agentByte s g ((e.dw 5).getLsbD 0) ((e.dw 1).toNat + k * shapeS e + b), poi) ∈ scatterWork.out s g e [])

/-- 05 R76, R81 to R84, R88, R91 to R98, R100 to R102: the engines' records. The next record of a chain starts: what its
opcode's judgement refuses is over with that failure and no data; the others owe their debit and hold their descriptors.
A record in flight goes on, whatever others of its chain do: it pays, piece by piece, what LEVEL covers, the pieces that a
checking pass reads first; the checking pass is over when they are paid; then data is written as far as it is paid for (EngineData says which), a
byte that must not be released ends the record there, and with the last piece the record is over. Where it rests on a reading or a choice of the model: notes/assumptions 8.md, 29.md,
30.md, 31.md, 32.md, 34.md. -/
def Obligations.EngineRecords : Prop :=
  (∀ (s : State) (asid n : Nat) (c : Ctx) (ch : Chain) (r : Rec), NextRecord s asid n c ch r →
    let dws := readRec s c ch r
    let d0 := (dws.headD 0).toNat
    let e : RecEnv := { addr := (posVA s c ch r.idx).getD 0, ch := ch, dws := dws }
    let g := recAgent asid ch r
    (∀ x ∈ [(Instr.copy asid n r.seq, 0x01, judgeCopy), (.expand asid n r.seq, 0x02, judgeExpand),
        (.quantise asid n r.seq, 0x03, judgeQuant), (.decompress asid n r.seq, 0x04, judgeUnpack),
        (.fill asid n r.seq, 0x06, judgeFill), (.gather asid n r.seq, 0x07, judgeGather false),
        (.scatter asid n r.seq, 0x08, judgeGather true)], d0 % 256 = x.2.1 →
      (∀ f, x.2.2 s g e = .error f → RecordGoes s x.1 asid n r (fun r' _ => r'.phase = .done
        ∧ FailedWith ch n (d0 % 256) r.seq f r'.fail))
      ∧ (∀ ds rd wr, x.2.2 s g e = .ok (ds, rd, wr) → RecordGoes s x.1 asid n r (fun r' _ => r'.phase = .paying ∧ r'.dws = dws
          ∧ r'.ds = ds ∧ r'.els = none ∧ r'.moved = 0 ∧ r'.plan.2 = ((rd + 65535) / 65536, (wr + 65535) / 65536)
          ∧ r'.cost = 4 * 2 ^ (d0 / 2 ^ 8 % 4) * ((rd + 65535) / 65536 + (wr + 65535) / 65536))))
    ∧ (d0 % 256 ∉ [0x01, 0x02, 0x03, 0x04, 0x05, 0x06, 0x07, 0x08, 0x10, 0x20] →
        RecordGoes s (.copy asid n r.seq) asid n r (fun r' _ => r'.phase = .done
          ∧ FailedWith ch n (d0 % 256) r.seq (3, 0, e.addr) r'.fail)))
  ∧ (∀ (s : State) (asid n : Nat) (c : Ctx) (ch : Chain) (r : Rec), RecordAt s asid n c ch r → r.phase = .paying →
    let d0 := (r.dws.headD 0).toNat
    let e := heldEnv s c ch r
    let g := recAgent asid ch r
    let piece := 4 * 2 ^ (d0 / 2 ^ 8 % 4)
    ∀ x ∈ [(Instr.copy asid n r.seq, 0x01, copyWork), (.expand asid n r.seq, 0x02, expandWork),
        (.quantise asid n r.seq, 0x03, quantWork), (.decompress asid n r.seq, 0x04, unpackWork),
        (.fill asid n r.seq, 0x06, fillWork), (.gather asid n r.seq, 0x07, gatherWork), (.scatter asid n r.seq, 0x08, scatterWork)],
      d0 % 256 = x.2.1 →
      let w := x.2.2
      let paid := c.ebudLevel / piece * piece
      (Checking s g e w r → let due := firstCost piece r; due % piece = 0 →
        (c.ebudLevel < due → RecordGoes s x.1 asid n r (fun r' _ => r'.phase = .paying ∧ r'.cost + paid = r.cost
          ∧ r'.dws = r.dws ∧ r'.ds = r.ds ∧ r'.els = none ∧ r'.moved = r.moved))
        ∧ (due ≤ c.ebudLevel →
          (∀ f, w.judge s g e = .error f → RecordGoes s x.1 asid n r (fun r' c' => r'.phase = .done
            ∧ FailedWith ch n (d0 % 256) r.seq f r'.fail ∧ c'.ebudLevel + due = c.ebudLevel))
          ∧ (∀ j, w.judge s g e = .ok j →
            (∀ f, w.check s g e r.ds = some (.error f) → ∃ t r' c', exec x.1 s = .next t ∧ RecordNow t asid n r' ∧ r'.seq = r.seq
              ∧ r'.phase = .done ∧ FailedWith ch n (d0 % 256) r.seq f r'.fail ∧ t.findCtx asid = some c'
              ∧ c'.ebudLevel + due = c.ebudLevel ∧ t.mem = (w.spoil g r.ds f s).1.mem
              ∧ (x.2.1 ≠ 0x03 ∨ f.1 ≠ 5 → MemorySame s t))
            ∧ (∀ us, w.check s g e r.ds = some (.ok us) → RecordGoes s x.1 asid n r (fun r' c' => r'.phase = .paying
              ∧ r'.cost + due = r.cost ∧ r'.els = some us ∧ r'.dws = r.dws ∧ r'.ds = r.ds ∧ r'.moved = r.moved
              ∧ c'.ebudLevel + due = c.ebudLevel)))))
      ∧ (¬ Checking s g e w r → r.cost % piece = 0 →
        (c.ebudLevel < r.cost →
          let m := mayRelease r.plan (r.plan.2.1 + r.plan.2.2 - (r.cost - paid) / piece)
          (m ≤ r.moved → RecordGoes s x.1 asid n r (fun r' _ => r'.phase = .paying ∧ r'.cost + paid = r.cost
            ∧ r'.dws = r.dws ∧ r'.ds = r.ds ∧ r'.els = r.els ∧ r'.moved = r.moved))
          ∧ (r.moved < m → (r.moved = 0 → ∃ j, w.judge s g e = .ok j) → writesTo s g e r.ds = false →
            let d := w.put g e r.ds m s
            (none ∉ ((w.out s g e r.ds).take m).drop r.moved →
              ∃ t r', exec x.1 s = .next t ∧ RecordNow t asid n r' ∧ r'.seq = r.seq ∧ r'.phase = .paying ∧ r'.cost + paid = r.cost
                ∧ r'.moved = m ∧ r'.leaves = (if r.moved = 0 then recLeaves s g e r.ds else r.leaves)
                ∧ t.mem = d.1.mem ∧ t.mp = d.1.mp)
            ∧ (none ∈ ((w.out s g e r.ds).take m).drop r.moved →
              let z := w.done g e r.ds s d.1
              ∃ t r', exec x.1 s = .next t ∧ RecordNow t asid n r' ∧ r'.seq = r.seq ∧ r'.phase = .done
                ∧ (∀ f, z.2.2 = some f → FailedWith ch n (d0 % 256) r.seq f r'.fail) ∧ t.mem = z.1.mem ∧ t.mp = z.1.mp)))
        ∧ (r.cost ≤ c.ebudLevel →
          (∀ f, r.moved = 0 → w.judge s g e = .error f → RecordGoes s x.1 asid n r (fun r' c' => r'.phase = .done
            ∧ FailedWith ch n (d0 % 256) r.seq f r'.fail ∧ c'.ebudLevel + r.cost = c.ebudLevel))
          ∧ ((r.moved = 0 → ∃ j, w.judge s g e = .ok j) → writesTo s g e r.ds = false →
            let d := w.run g e r.ds s
            ∃ t r' c', exec x.1 s = .next t ∧ RecordNow t asid n r' ∧ r'.seq = r.seq ∧ r'.phase = .done
              ∧ (d.2.2 = none → r'.fail = none) ∧ (∀ f, d.2.2 = some f → FailedWith ch n (d0 % 256) r.seq f r'.fail)
              ∧ t.mem = d.1.mem ∧ t.mp = d.1.mp ∧ (∀ m, t.getCore m = d.1.getCore m) ∧ t.saves = d.1.saves
              ∧ t.findCtx asid = some c' ∧ c'.ebudLevel + r.cost = c.ebudLevel))))
  ∧ (∀ (s : State) (g : Agent) (out : List Out8), (∀ c ∈ s.ctx :: s.ctxs, c.watch = []) → s.snaps = [] →
      let t := (agentPut g false out s).1
      (∀ b, (∀ x ∈ out, ctxPA s (g.ctx s) x.1 ≠ some b) → memRead t.mem b = memRead s.mem b)
      ∧ ∀ pre x post b, out = pre ++ x :: post → ctxPA s (g.ctx s) x.1 = some b →
          (∀ y ∈ post, ctxPA s (g.ctx s) y.1 ≠ some b) → memRead t.mem b = x.2.1)
  ∧ EngineData

/-- 03 R48; 05 R80 to R83, R99, R101; 12 R275; 15 R336; 17 R366: LAUNCH hands its packet to the queue and waits;
TIER_MIGRATION starts, waits for its shoot-downs and ends, a record's as well as one of Ablas's own chain; RECORD_COMPLETION
writes the completion word of the oldest record and retires it; ENGINE_RESET fails what is in flight. Where it rests on a
reading or a choice of the model: notes/assumptions 34.md, 74.md, 105.md. -/
def Obligations.EngineSteps : Prop :=
  (∀ (s : State) (asid n : Nat) (c : Ctx) (ch : Chain) (r : Rec), NextRecord s asid n c ch r →
    let dws := readRec s c ch r
    let dw := fun (i : Nat) => ((dws[i]?).getD 0).toNat
    dw 0 % 256 = 0x20 → dw 0 < 4096 → (∀ i, 3 ≤ i → i < 8 → dw i = 0) → dw 2 < 32 → dw 1 % 128 = 0 →
    ∃ t r' p, exec (.launch asid n r.seq) s = .next t ∧ MemorySame s t ∧ RecordNow t asid n r' ∧ r'.seq = r.seq ∧ r'.phase = .waiting
      ∧ (t.queue c.part (dw 2)).packets = (s.queue c.part (dw 2)).packets ++ [p] ∧ p.asid = asid ∧ p.addr.toNat = dw 1
      ∧ p.chain = some (n, r.seq) ∧ p.priv = r.priv ∧ p.wct = r.wct)
  ∧ (∀ (s : State) (asid n : Nat) (c : Ctx) (ch : Chain) (r : Rec), RecordAt s asid n c ch r → n < 64 →
      (r.dws.headD 0).toNat % 256 = 0x05 →
      ∀ l, ctxWalk s c ((r.dws[1]?).getD 0).toNat = .leaf l →
      let tier := ((r.dws[2]?).getD 0).toNat
      (r.phase = .waiting → r.part = 2 → (∀ k ∈ s.shoots, k.id ≠ r.shoot) → ∃ t r', exec (.tierMigration asid n r.seq) s = .next t
        ∧ MemorySame s t ∧ RecordNow t asid n r' ∧ r'.seq = r.seq ∧ r'.phase = .done ∧ r'.fail = none)
      ∧ (r.phase = .waiting → r.part = 1 → (∃ k ∈ s.shoots, k.id = r.shoot) → exec (.tierMigration asid n r.seq) s = .next s)
      ∧ (r.phase = .waiting → r.part = 1 → (∀ k ∈ s.shoots, k.id ≠ r.shoot) →
          ∀ f, freeFrame s (rangeOf s.parts c) tier = some f → f ≠ leafFrame l →
          ∃ t r', exec (.tierMigration asid n r.seq) s = .next t ∧ RecordNow t asid n r' ∧ r'.seq = r.seq ∧ r'.phase = .waiting
            ∧ r'.part = 2 ∧ f ∈ t.dev.used ∧ t.mem = (moveFrame (leafFrame l) f tier s).2.mem
            ∧ (∃ k ∈ t.shoots, k.id = r'.shoot ∧ k.done = false ∧ leafFrame l ∈ k.frees))
      ∧ (r.phase = .paying → r.part = 0 → r.cost = 0 → bitOf (leafTier l) = tier → ∃ t r',
          exec (.tierMigration asid n r.seq) s = .next t ∧ MemorySame s t ∧ RecordNow t asid n r' ∧ r'.seq = r.seq ∧ r'.phase = .done
            ∧ r'.fail = none)
      ∧ (r.phase = .paying → r.part = 0 → r.cost = 0 → bitOf (leafTier l) ≠ tier → leafM l = false → ∃ t r',
          exec (.tierMigration asid n r.seq) s = .next t ∧ RecordNow t asid n r' ∧ r'.seq = r.seq ∧ r'.phase = .waiting ∧ r'.part = 1
            ∧ ∃ k ∈ t.shoots, k.id = r'.shoot ∧ k.done = false))
  ∧ (∀ (s : State) (f g o b : Nat), Memory.wf s.mem = true → f ≠ g → o < 2 ^ 18 → b / 2 ^ 18 ≠ g →
      memRead (copyFrame f g s).mem (g * 2 ^ 18 + o) = memRead s.mem (f * 2 ^ 18 + o)
      ∧ memRead (copyFrame f g s).mem b = memRead s.mem b)
  ∧ (∀ (s : State) (r : AblasRec) (c : Ctx) (l : W64), s.ablas.filter (fun q => q.seq == r.seq) = [r] →
      s.findCtx r.asid = some c → ctxWalk s c r.va = .leaf l →
      let k := Instr.tierMigration r.asid (64 + r.die) r.seq
      (r.part = 2 → (∀ x ∈ s.shoots, x.id ≠ r.shoot) → exec k s = .next { s with ablas := s.ablas.filter (fun q => q.seq != r.seq) })
      ∧ (r.part ≠ 0 → (∃ x ∈ s.shoots, x.id = r.shoot) → exec k s = .next s)
      ∧ (r.part = 0 → leafTier l = true → leafSZ l = 0 → leafM l = false → ∀ f, freeFrame s (rangeOf s.parts c) 0 = some f →
          ∃ t x, exec k s = .next t ∧ x ∈ t.shoots ∧ x.done = false ∧ { r with part := 1, shoot := x.id } ∈ t.ablas
            ∧ t.mem = (mapLeaves (leafFrame l) (fun l => leafSetM l true) s).mem))
  ∧ (∀ (s : State) (asid n : Nat) (c : Ctx) (ch : Chain) (r : Rec) (rest : List Rec), RecordAt s asid n c ch r →
      ch.recs = r :: rest → r.phase = .done → r.wct + (if ch.host.isSome then 20 else 0) < s.time →
      (∀ x ∈ s.ctx :: s.ctxs, x.watch = []) → s.snaps = [] →
      let word := (if r.fail.isSome then 2 ^ 63 else 0) + ((r.fail.map (·.sub)).getD 0) * 2 ^ 59 + r.seq % 2 ^ 59
      ∃ t c' ch', exec (.recordCompletion asid n) s = .next t ∧ t.findCtx asid = some c' ∧ c'.chain n = some ch'
        ∧ ch'.head = (ch.head + 1) % 2 ^ 32 ∧ ch'.recs = rest ∧ ch'.failed = (ch.failed || r.fail.isSome)
        ∧ (∃ m, EntryOver s c n s.mem m ∧ (ctxPA { s with mem := m } c ch.cwAddr.toNat = none → t.mem = m)
            ∧ ∀ pa, ctxPA { s with mem := m } c ch.cwAddr.toNat = some pa → ch.cwAddr.toNat % 8 = 0 →
              BitVec.ofNat 64 (memNat t.mem pa 8) = BitVec.ofNat 64 word
              ∧ ∀ b, b < pa ∨ pa + 8 ≤ b → memRead t.mem b = memRead m b)
        ∧ (∀ u w o, r.warp = some u → s.findWarp u = some w → w.ops.filter (fun q => q.id == r.op) = [o] →
            ∃ w', t.findWarp u = some w' ∧ ∀ q ∈ w'.ops, q.id = r.op → q.done = true)
        ∧ (∀ q h, ch.host = some q → s.dev.hostqs.find? (fun h => h.num == q) = some h →
            t.dev.msix = h.vec :: s.dev.msix ∧ memNat t.dev.hostMem h.hcw 8 = word % 2 ^ 64))
  ∧ (∀ (s : State) (eng : Nat), (s.liveCtxs.map (·.asid)).Nodup →
      (∀ c ∈ s.liveCtxs, (c.chains.map (·.1)).Nodup ∧ ∀ p ∈ c.chains, (p.2.recs.map (·.seq)).Nodup) →
      ∃ t, exec (.engineReset eng) s = .next t ∧ t.w = { s.w with mon := t.w.mon, watchEvents := t.w.watchEvents }
        ∧ ∀ c ∈ s.liveCtxs, ∀ p ∈ c.chains, p.2.engine = eng → ∀ r ∈ p.2.recs, r.phase = .paying ∨ r.phase = .waiting →
          ∃ r', RecordNow t c.asid p.1 r' ∧ r'.seq = r.seq ∧ r'.phase = .done ∧ (r'.fail.map (·.sub)) = some 6)

end

/-! # The Orrery (09 R192 to R218; 10 R219 to R234) -/

section

open Sys2Proof Sys2Proof.Machine Sys2Proof.Claims

/-- k fails softly (01 R10): s[d] ← 0 and TSUB ← why; nothing else changes but AH and the copies in the L1. -/
def Sys2Proof.Claims.SoftFails (k : Instr) (s : State) (d : Nat) (why : Nat) : Prop :=
  ∃ t, exec k s = .next t ∧ GoesOn s t s.ix.next ∧ MemorySame s t ∧ t.w.sGet d = 0 ∧ ScalarsBut d s t
    ∧ t.w.trap = { s.w.trap with tsub := BitVec.ofNat 64 why }
    ∧ { t.w with s := s.w.s, trap := s.w.trap, ah := s.w.ah, cur := s.w.cur } = s.w
    ∧ { t with w := s.w, ix := s.ix, core := s.core } = s ∧ { t.core with l1 := s.core.l1 } = s.core

/-- k completes with s[d] ← x; memory is as before, the split goes on at the next instruction. -/
def Sys2Proof.Claims.Answers (k : Instr) (s : State) (d : Nat) (x : W64) (more : State → Prop) : Prop :=
  ∃ t, exec k s = .next t ∧ t.ix.retired = true ∧ t.w.cur.pc = s.ix.next ∧ MemorySame s t
    ∧ t.w.sGet d = (if d = 0 then 0 else x) ∧ ScalarsBut d s t ∧ (∀ n, t.w.kGet n = s.w.kGet n)
    ∧ (∀ r n, t.w.vGet r n = s.w.vGet r n ∧ t.w.pGet r n = s.w.pGet r n) ∧ more t

/-- The record of OPOST in s[SA] to s[SA+7], its EC raised to e. -/
def Sys2Proof.Claims.posted (s : State) (a : Nat) (e : BitVec 2) : PRec :=
  raiseEC ((List.range 8).map (fun i => s.w.sGet (a + i))) e.toNat

/-- k posts the walk of an OPOST judged before, whose record, direct descriptors and CH are x: the walk is bound to a slot
that channel c and the waiting OPOSTs of lower resident slots leave free (09 R195); with none it fails softly, or
waits and keeps x. -/
def Sys2Proof.Claims.Accepted (k : Instr) (s : State) (d c : Nat) (w : BitVec 1) (x : List W64) : Prop :=
  (∀ q, walkSlot (slotsTaken s) s.core c = some q → ∃ serial v,
    Answers k s d (BitVec.ofNat 64 (q * 2 ^ 32 + serial)) (fun t =>
      t.core.walks = s.core.walks ++ [v] ∧ t.core.serial = serial ∧ v.slot = q ∧ v.serial = serial ∧ v.rec_ = x.take 8
      ∧ v.a = postedDirect x 0 ∧ v.b = postedDirect x 1 ∧ v.c = postedDirect x 2
      ∧ v.team = s.w.team ∧ v.warp = s.w.uid ∧ v.posted = s.time ∧ v.started = false ∧ v.ended = none
      ∧ (∃ o ∈ t.w.ops, o.id = s.nextId ∧ o.cls = .tl ∧ o.done = false)
      ∧ { t with w := s.w, ix := s.ix, core := s.core, nextId := s.nextId } = s)
    ∧ serial ≠ 0)
  ∧ (walkSlot (slotsTaken s) s.core c = none → (w = 0 → SoftFails k s d 1)
      ∧ (w ≠ 0 → Parks k s ∧ ∀ t, exec k s = .next t → t.w.cur.arg = x))

/-- The entries of a handler table that HREG reads: i names the three that stand at consecutive 16 bytes (10 R219). -/
def Sys2Proof.Claims.HandlerTable (s : State) (va : W64) (es : Option (List HEntry)) : Prop :=
  ∃ (l : Nat → W64) (pa : Nat → Nat), (∀ i, i < 3 → Reach1 s .read 16 (va + BitVec.ofNat 64 (16 * i)) (l i) (pa i)
      ∧ loadMayRun s s.w.uid s.nextId [(s.dev.chipId, pa i, 16)] = true ∧ (l i).getLsbD 8 = false ∧ granPoisoned s.mp (pa i) 16 = false)
    ∧ es = [memNat s.mem (pa 0) 16, memNat s.mem (pa 1) 16, memNat s.mem (pa 2) 16].mapM
        (fun x => tableEntry (x % 2 ^ 64) (x / 2 ^ 64))

/-- 09 R192, R193, R195: the first reason against a problem record: 2 a reserved field or code, a depth of 0, a malformed CWADDR; 3 types
that form no pair, a delivery type that is none, or SPARSE with a type that does not allow it; 4 M, N or K zero or no multiple; 5 no
live handler table, or an entry missing that an operand without a descriptor needs; 6 a descriptor address that is not aligned to
64. -/
def Sys2Proof.Claims.OpostJudged : Prop := ∀ (s : State) (r : PRec),
  let f := fun (d lo w : Nat) => ((r[d]?).getD 0).toNat / 2 ^ lo % 2 ^ w
  let T := 32 * 2 ^ f 0 48 2
  let S := 32 * 2 ^ f 0 50 2
  let a := f 1 24 4
  let b := f 1 28 4
  let two := f 0 61 3 = 0 ∨ 2 ≤ f 0 59 2 ∨ f 0 55 2 = 3 ∨ 4 ≤ f 0 52 3 ∨ f 0 48 2 = 3 ∨ f 1 52 1 = 1 ∨ f 2 16 48 ≠ 0 ∨ f 7 32 32 ≠ 0
    ∨ 14 ≤ a ∨ 14 ≤ b ∨ 14 ≤ f 1 32 4 ∨ f 6 0 64 = 0 ∨ f 6 0 3 ≠ 0 ∨ f 6 57 7 ≠ 0
  let three := ¬ ((a = b ∧ a ∈ [0, 1, 2, 5, 6]) ∨ (a ∈ [3, 4] ∧ b ∈ [3, 4])) ∨ 7 ≤ f 1 32 4 ∨ (f 0 55 2 ≠ 0 ∧ a ∉ [1, 2, 3, 4])
  let four := f 0 0 24 = 0 ∨ f 0 0 24 % T ≠ 0 ∨ f 0 24 24 = 0 ∨ f 0 24 24 % T ≠ 0 ∨ f 1 0 24 = 0 ∨ f 1 0 24 % S ≠ 0
  let tab := s.ctx.htabs.find? (fun p => p.1 == f 2 0 16)
  let five := (f 2 0 16 ≠ 0 ∧ tab = none)
    ∨ ∃ o, o < 3 ∧ f (3 + o) 0 64 = 0 ∧ ∀ p, tab = some p → ((p.2[o]?).getD {}).present = false
  (two → opostReason s r = some 2) ∧ (¬ two → three → opostReason s r = some 3) ∧ (¬ two → ¬ three → four → opostReason s r = some 4)
  ∧ (¬ two → ¬ three → ¬ four → five → opostReason s r = some 5)
  ∧ (¬ two → ¬ three → ¬ four → ¬ five → (∃ o, o < 3 ∧ f (3 + o) 0 64 ≠ 0 ∧ f (3 + o) 0 6 ≠ 0) → opostReason s r = some 6)
  ∧ (¬ two → ¬ three → ¬ four → ¬ five → (∀ o, o < 3 → f (3 + o) 0 64 = 0) → r.footprint ≤ 320 * 2 ^ 10 →
      opostReason s r = (if 4 ≤ (s.orr s.core.num).fenced.length then some 8 else none))

/-- 09 R195 to R197; 10 R219, R220, R233, R234: OPOST binds an accepted record to a free slot and answers the walk's
number, or fails softly with its reason, or waits for a slot with the record it has read; HREG registers and frees tables; OSTAT and OCANCEL answer for live walks.
Where it rests on a reading or a choice of the model: notes/assumptions 18.md, 42.md, 51.md, 57.md, 58.md, 92.md. -/
def Obligations.WalksAndTables : Prop := OpostJudged ∧ ∀ (s : State), s.w.dawn = false → s.team.spec = false →
  (∀ (d a c : BitVec 6) (e : BitVec 2) (w : BitVec 1), a.toNat % 8 = 0 → c.toNat ≤ 4 → s.w.count .tl < 30 →
    (s.w.cur.arg = [] → Fenced s 4 →
      let r := posted s a.toNat e
      (∀ why, opostReason s r = some why → SoftFails (.opost d a c e w) s d.toNat why)
      ∧ (opostReason s r = none → effRate s s.ctx = 0 → s.ctx.ebudLevel < r.debit → UserNoHandler s →
          Traps (.opost d a c e w) s 0x13 0 0 0 s.w.cur.active)
      ∧ (opostReason s r = none → (effRate s s.ctx ≠ 0 ∨ r.debit ≤ s.ctx.ebudLevel) →
          Accepted (.opost d a c e w) s d.toNat c.toNat w (postArgs s r c.toNat)))
    ∧ (s.w.cur.arg.length = 33 → Accepted (.opost d a c e w) s d.toNat c.toNat w s.w.cur.arg))
  ∧ (∀ (d a : BitVec 6), let va := s.w.sGet a.toNat
      (va.toNat % 16 ≠ 0 → UserNoHandler s → Traps (.hreg d a) s 0x03 0 va 0 s.w.cur.active)
      ∧ (HandlerTable s va none → SoftFails (.hreg d a) s d.toNat 2)
      ∧ (∀ es, HandlerTable s va (some es) → 4095 ≤ s.ctx.htabs.length → SoftFails (.hreg d a) s d.toNat 1)
      ∧ (∀ es, HandlerTable s va (some es) → s.ctx.htabs.length < 4095 →
          ∃ i, 1 ≤ i ∧ i ≤ 4095 ∧ (∀ p ∈ s.ctx.htabs, p.1 ≠ i) ∧ (∀ j, 1 ≤ j → j < i → ∃ p ∈ s.ctx.htabs, p.1 = j)
            ∧ Answers (.hreg d a) s d.toNat (BitVec.ofNat 64 i) (fun t => (i, es) ∈ t.ctx.htabs
              ∧ (∀ p ∈ s.ctx.htabs, p ∈ t.ctx.htabs) ∧ { t.ctx with htabs := s.ctx.htabs } = s.ctx)))
  ∧ (∀ (d a : BitVec 6), let id := (s.w.sGet a.toNat).toNat
      ((∀ p ∈ s.ctx.htabs, p.1 ≠ id) → SoftFails (.hregFree d a) s d.toNat 3)
      ∧ ((∃ p ∈ s.ctx.htabs, p.1 = id) → tableUsed s id = true → SoftFails (.hregFree d a) s d.toNat 4)
      ∧ ((∃ p ∈ s.ctx.htabs, p.1 = id) → tableUsed s id = false → Answers (.hregFree d a) s d.toNat 1 (fun t =>
          (∀ p, p ∈ t.ctx.htabs ↔ p ∈ s.ctx.htabs ∧ p.1 ≠ id) ∧ { t.ctx with htabs := s.ctx.htabs } = s.ctx)))
  ∧ (∀ (d a : BitVec 6), let x := s.w.sGet a.toNat
      ((∀ w ∈ s.core.walks, w.ended = none → w.id ≠ x) → ScalarResult (.ostat d a) s d.toNat 0 ∧ ScalarResult (.ocancel d a) s d.toNat 0)
      ∧ (∀ w, s.core.walks.find? (fun w => w.live && w.id == x) = some w → ∃ y : W64, ScalarResult (.ostat d a) s d.toNat y
          ∧ y.getLsbD 63 = true ∧ y.toNat / 2 ^ 40 % 2 ^ 22 = min w.tiles (2 ^ 22 - 1)
          ∧ y.toNat % 2 ^ 40 = w.stall % 2 ^ 40
          ∧ (y.getLsbD 62 = true ↔ ∃ u, u < w.units.length ∧ unitStalled s s.core.num w u = true))
      ∧ (∀ w, s.core.walks.find? (fun w => w.live && w.id == x && w.asid == s.ctx.asid) = some w →
          s.core.walks.filter (fun v => v.slot == w.slot) = [w] →
          Answers (.ocancel d a) s d.toNat 1 (fun t => ∃ v f, t.findWalk s.core.num w.slot = some v ∧ v.ended = some (true, f)
            ∧ f.sub = 6 ∧ f.detail = 0)))

/-- The warp's upcall, with its walk in the slot that it names. -/
def Sys2Proof.Claims.Serving (s : State) (u : Upcall) (w : WalkS) : Prop :=
  s.w.upcall = some u ∧ s.core.walks.find? (fun v => v.id == u.walk) = some w ∧ s.core.walks.filter (fun v => v.slot == u.slot) = [w]

/-- STAGE with a TSUB (10 R223); INFO is the id of the walk that the warp serves, 0 of a warp that serves none. -/
def Sys2Proof.Claims.RaisesStage (k : Instr) (s : State) (sub walk : Nat) : Prop :=
  Traps k s 0x0F (BitVec.ofNat 64 sub) 0 (walk % 2 ^ 35) s.w.cur.active

/-- 10 R221, R223, R226 to R230: the traps of the handler instructions, of user code without a handler. -/
def Sys2Proof.Claims.HandlerTraps (s : State) : Prop := UserNoHandler s →
  (∀ (d a : BitVec 6) (c : BitVec 9), c.toNat ≤ 255 →
    (∀ u, s.w.upcall = some u → u.revoked = false → RaisesStage (.hwait d a c) s 0x01 u.walk.toNat)
    ∧ (s.w.upcall = none → s.w.splits.length ≠ 1 → RaisesStage (.hwait d a c) s 0x08 0))
  ∧ (∀ a : BitVec 7, a.toNat ≤ 96 → RegsReady s (group 128 a.toNat) [] →
    (s.w.upcall = none → RaisesStage (.hstage a) s 0x05 0)
    ∧ ∀ u, s.w.upcall = some u →
      (u.revoked = true → RaisesStage (.hstage a) s 0x0B 0)
      ∧ (u.revoked = false → 2 ≤ u.kind ∨ u.sealed = true → RaisesStage (.hstage a) s 0x05 u.walk.toNat)
      ∧ ∀ w, Serving s u w → u.revoked = false → u.kind ≤ 1 → u.sealed = false →
          pieces w.prob (w.prob.opType u.kind) (w.prob.stageCols u.kind) ≤ u.cursor → RaisesStage (.hstage a) s 0x06 u.walk.toNat)
  ∧ (∀ d : BitVec 7, d.toNat ≤ 96 → RegsReady s [] (group 128 d.toNat) →
    (s.w.upcall = none → RaisesStage (.hdrain d) s 0x03 0)
    ∧ ∀ u, s.w.upcall = some u →
      (u.revoked = true → RaisesStage (.hdrain d) s 0x0B 0)
      ∧ (u.revoked = false → u.kind ≠ 2 → RaisesStage (.hdrain d) s 0x03 u.walk.toNat)
      ∧ ∀ w, Serving s u w → u.revoked = false → u.kind = 2 → pieces w.prob w.prob.dType w.prob.t ≤ u.cursor →
          RaisesStage (.hdrain d) s 0x06 u.walk.toNat)
  ∧ (∀ a : BitVec 6, (s.w.upcall = none → RaisesStage (.hseal a) s 0x04 0)
    ∧ ∀ u, s.w.upcall = some u →
      (u.revoked = true → RaisesStage (.hseal a) s 0x0B 0)
      ∧ (u.revoked = false → 2 ≤ u.kind ∨ u.sealed = true → RaisesStage (.hseal a) s 0x04 u.walk.toNat)
      ∧ ∀ w, Serving s u w → u.revoked = false → u.kind ≤ 1 → u.sealed = false →
          ((s.w.sGet a.toNat).toNat ≠ u.addr → RaisesStage (.hseal a) s 0x04 u.walk.toNat)
          ∧ ((s.w.sGet a.toNat).toNat = u.addr →
            (∀ g, firstPoison s.core (stageReads w.prob u.kind u.addr) = some g →
              Traps (.hseal a) s 0x06 5 (BitVec.ofNat 64 g) 0 s.w.cur.active)
            ∧ (firstPoison s.core (stageReads w.prob u.kind u.addr) = none →
                ∀ x, scaleFault w.prob s.core u.kind u.addr = some x →
                Traps (.hseal a) s 0x0F 0x09 (BitVec.ofNat 64 x) (u.walk.toNat % 2 ^ 35) s.w.cur.active)))
  ∧ (∀ n : BitVec 9, n.toNat ≤ 3 →
    (s.w.upcall = none → RaisesStage (.hret n) s 0x07 0)
    ∧ ∀ u l, s.w.upcall = some u → s.w.latch = some l →
      let walk := if u.revoked then 0 else u.walk.toNat
      (s.w.splits.length ≠ 1 ∨ s.w.stack.length ≠ l.depth → RaisesStage (.hret n) s 0x08 walk)
      ∧ (s.w.splits.length = 1 → s.w.stack.length = l.depth → n.toNat % 2 = 0 → u.revoked = false → u.kind ≤ 1 → u.sealed = false →
          RaisesStage (.hret n) s 0x0A walk))

/-- 10 R221, R223 to R230: HWAIT parks in its cohort or returns a walk's word; HSTAGE fills and HDRAIN drains a piece
of the window, HSEAL hands a stage over, HRET ends the upcall at the HWAIT or after it; and their traps. Where it rests on a
reading or a choice of the model: notes/assumptions 18.md, 61.md, 62.md, 112.md, 130.md. -/
def Obligations.HandlerInstructions : Prop := ∀ (s : State), s.w.dawn = false → HandlerTraps s ∧
  (∀ (d a : BitVec 6) (c : BitVec 9), c.toNat ≤ 255 → s.w.upcall = none → s.w.splits.length = 1 → s.w.latch = none →
    let x := s.w.sGet a.toNat
    let word := (s.w.walks.find? (fun p => p.2.id == x)).map (fun p => p.2.word)
    (x ≠ 0 → word = none → Answers (.hwait d a c) s d.toNat 0 (fun t => t.w.latch = none ∧ t.w.ah = s.w.ah))
    ∧ (∀ y at_, x ≠ 0 → word = some (some (y, at_)) → owed s.w x c.toNat = false →
        Answers (.hwait d a c) s d.toNat y (fun t => t.w.latch = none ∧ t.w.ah = max s.w.ah at_
          ∧ s.w.uid ∉ tabGet [] c.toNat t.team.cohorts))
    ∧ (x = 0 ∨ word = some none → ∃ t l, exec (.hwait d a c) s = .next t ∧ MemorySame s t ∧ t.w.latch = some l ∧ l.addr = s.ix.addr
        ∧ l.next = s.ix.next ∧ l.sd = d.toNat ∧ l.cohort = c.toNat ∧ l.depth = s.w.stack.length
        ∧ s.w.uid ∈ tabGet [] c.toNat t.team.cohorts ∧ t.w.cur.since ≠ none ∧ t.w.cur.pc = s.w.cur.pc
        ∧ { t.w with latch := s.w.latch, cur := s.w.cur } = s.w))
  ∧ (∀ (d a : BitVec 6) (c : BitVec 9) (u : Upcall) (l0 : Latch), c.toNat ≤ 255 → s.w.upcall = some u → u.revoked = true →
    s.w.latch = some l0 → s.w.splits.length = 1 → s.w.sGet a.toNat = 0 →
    ∃ t l, exec (.hwait d a c) s = .next t ∧ MemorySame s t ∧ t.w.latch = some l ∧ l.addr = s.ix.addr ∧ l.next = s.ix.next
      ∧ l.sd = d.toNat ∧ l.sa = 0 ∧ l.cohort = c.toNat ∧ l.depth = s.w.stack.length ∧ t.w.upcall = none
      ∧ s.w.uid ∈ tabGet [] c.toNat t.team.cohorts
      ∧ (l0.cohort ≠ c.toNat → s.w.uid ∉ tabGet [] l0.cohort t.team.cohorts) ∧ t.w.cur.since ≠ none ∧ t.w.cur.pc = s.w.cur.pc
      ∧ { t.w with latch := s.w.latch, upcall := s.w.upcall, cur := s.w.cur } = s.w)
  ∧ (∀ (a : BitVec 7) (u : Upcall) (w : WalkS), a.toNat ≤ 96 → RegsReady s (group 128 a.toNat) [] → Serving s u w →
      u.revoked = false → u.kind ≤ 1 → u.sealed = false → u.cursor < pieces w.prob (w.prob.opType u.kind) (w.prob.stageCols u.kind) →
      let at_ := u.addr + 4096 * u.cursor - 0x1000000
      ∃ t, exec (.hstage a) s = .next t ∧ GoesOn s t s.ix.next ∧ MemorySame s t
        ∧ t.w.upcall = some { u with cursor := u.cursor + 1 }
        ∧ (∀ row n, row < 32 → n < 32 → (readLocal t.core (.acc (at_ + 128 * row + 4 * n)) 4).1 =
            toBytes 4 (s.w.vGet (a.toNat + row) n).toNat)
        ∧ (∀ x, ¬ InPlace (.acc at_) 4096 x → (readLocal t.core x 1).1 = (readLocal s.core x 1).1)
        ∧ { t.w with upcall := s.w.upcall, cur := s.w.cur } = s.w ∧ { t.core with acc := s.core.acc, ap := s.core.ap, sram := s.core.sram, sp := s.core.sp } = s.core)
  ∧ (∀ (d : BitVec 7) (u : Upcall) (w : WalkS), d.toNat ≤ 96 → RegsReady s [] (group 128 d.toNat) → Serving s u w →
      u.revoked = false → u.kind = 2 → u.cursor < pieces w.prob w.prob.dType w.prob.t →
      ∃ t, exec (.hdrain d) s = .next t ∧ WarpOnly s t ∧ GoesOn s t s.ix.next ∧ t.w.upcall = some { u with cursor := u.cursor + 1 }
        ∧ (∀ row n, row < 32 → n < 32 → t.w.pGet (d.toNat + row) n = false
            ∧ t.w.vGet (d.toNat + row) n = BitVec.ofNat 32 (ofBytes ((List.range 4).map (fun i =>
                accByte s.core (u.addr + 4096 * u.cursor + 128 * row + 4 * n + i - 0x1000000)))))
        ∧ (∀ r, r < d.toNat ∨ d.toNat + 32 ≤ r → RegSame s t r))
  ∧ (∀ (a : BitVec 6) (u : Upcall) (w : WalkS), Serving s u w → u.revoked = false → u.kind ≤ 1 → u.sealed = false →
      (s.w.sGet a.toNat).toNat = u.addr → u.unit < w.units.length →
      firstPoison s.core (stageReads w.prob u.kind u.addr) = none → scaleFault w.prob s.core u.kind u.addr = none →
      (u.kind = 0 → w.prob.sparse ≠ 0 → sparseFault w.prob (u.addr + w.prob.metaOff 0) (fun row k =>
        rdNat (winByte s.core) (u.addr + w.prob.metaOff 0 + 4 * (row * w.prob.metaWords + k)) 4) = none) →
      ∃ t v, exec (.hseal a) s = .next t ∧ GoesOn s t s.ix.next ∧ MemorySame s t ∧ t.w.upcall = some { u with sealed := true }
        ∧ t.findWalk s.core.num u.slot = some v ∧ ((v.unit u.unit).stage u.kind u.pos).st = .sealed
        ∧ (∀ x ∈ t.core.windows, x.2.1 ≠ u.addr) ∧ { t.w with upcall := s.w.upcall, cur := s.w.cur } = s.w)
  ∧ (∀ (n : BitVec 9) (u : Upcall) (l : Latch), n.toNat ≤ 3 → s.w.upcall = some u → s.w.latch = some l → s.w.splits.length = 1 →
      s.w.stack.length = l.depth → (n.toNat % 2 = 0 → u.kind ≤ 1 → u.revoked = true ∨ u.sealed = true) →
      ∃ t, exec (.hret n) s = .next t ∧ MemorySame s t ∧ t.ix.retired = true ∧ t.w.upcall = none
        ∧ (n.toNat ≤ 1 → t.w.cur.pc = l.addr ∧ t.w.latch = some l ∧ s.w.uid ∈ tabGet [] l.cohort t.team.cohorts
            ∧ ∀ m, t.w.sGet m = s.w.sGet m)
        ∧ (2 ≤ n.toNat → t.w.cur.pc = l.next ∧ t.w.latch = none ∧ t.w.sGet l.sd = 0 ∧ ScalarsBut l.sd s t)
        ∧ (∀ w, n.toNat % 2 = 0 → u.revoked = false → u.kind = 2 → s.core.walks.filter (fun v => v.slot == u.slot) = [w] →
            ∃ v, t.findWalk s.core.num u.slot = some v ∧ (v.unit u.unit).slot = .free)
        ∧ (∀ w, n.toNat % 2 = 1 → u.revoked = false → u.kind = 2 → s.core.walks.filter (fun v => v.slot == u.slot) = [w] →
            w.ended = none → w.prob.policy = 0 → ∃ v f, t.findWalk s.core.num u.slot = some v ∧ v.ended = some (false, f)
              ∧ f.sub = 9 ∧ f.detail = 1))

/-- Element (i, j) of a unit's accumulator, which stands in the slot's part of the accumulator store (09 R206). -/
def Sys2Proof.Claims.accAt (r : PRec) (c : Core) (q u i j : Nat) : Nat := rdNat (accByte c) (accOff r q u + 4 * (i * r.t + j)) 4

/-- A place of the store in a unit's accumulator or its shadow. -/
def Sys2Proof.Claims.InUnit (r : PRec) (q u b : Nat) : Prop :=
  (accOff r q u ≤ b ∧ b < accOff r q u + 4 * (r.t * r.t)) ∨ (shadowOff r q u ≤ b ∧ b < shadowOff r q u + 4 * (r.t * r.t))

/-- The unit's finished tile in the delivery type (09 R204, R210), as the bytes of a descriptor's tile. -/
def Sys2Proof.Claims.converted (s : State) (core : Nat) (w : WalkS) (u : Nat) (d : Desc) : List Out8 :=
  tileBytes d (fun i j => (deliverBits w.prob.dType (accAt w.prob (s.getCore core) w.slot u i j), false))

/-- w is the walk in its slot of a core, the only one. -/
def Sys2Proof.Claims.WalkIn (s : State) (core : Nat) (w : WalkS) : Prop :=
  (s.getCore core).walks.filter (fun v => v.slot == w.slot) = [w]

/-- 09 R198, R202 to R204, R209 to R217; 10 R222, R231, R232: the Orrery's own steps. Where it rests on a reading or a
choice of the model: notes/assumptions 10.md, 59.md, 60.md, 63.md, 64.md, 106.md, 109.md, 110.md. -/
def Obligations.OrrerySteps : Prop := ∀ (s : State) (core : Nat) (w : WalkS), WalkIn s core w → w.ended = none →
  let now := fun (t : State) (p : WalkS → Prop) => ∃ v, t.findWalk core w.slot = some v ∧ p v
  (w.started = false → w.units.length = w.prob.units → ∃ t, exec (.walkStart core w.slot) s = .next t ∧ MemorySame s t
    ∧ now t (fun v => v.started = true ∧ v.ended = none ∧ ∀ u o p, u < w.prob.units → o < 2 → p < w.prob.positions →
        p < w.prob.unitSteps u → ((v.unit u).stage o p).st = .requested ∧ ((v.unit u).stage o p).step = p
          ∧ ((v.unit u).stage o p).raised = s.time))
  ∧ (∀ tm c p, s.findTeam w.team = some tm → tm.saved = none → tm.core = core → tm.pending.find? (fun q => q.1 == c) = some (c, p) →
      p.slot = w.slot → (tabGet [] c tm.cohorts).filter (canServe s) ≠ [] →
      (∀ uid ∈ tabGet [] c tm.cohorts, ∀ v, s.findWarp uid = some v → v.cancels = []) →
      ∃ t uid v v' x, exec (.upcallDelivery core w.team c) s = .next t ∧ MemorySame s t ∧ uid ∈ tabGet [] c tm.cohorts
        ∧ (∀ y l, (tabGet [] c tm.cohorts).filter (canServe s) = y :: l →
            let avoid := (upStage w p.unit p.kind p.pos).avoid
            (avoid ≠ some y → uid = y) ∧ ((∀ z ∈ y :: l, avoid = some z) → uid = y) ∧ (∀ z ∈ y :: l, avoid ≠ some z → avoid ≠ some uid))
        ∧ s.findWarp uid = some v ∧ t.findWarp uid = some v' ∧ v'.upcall = some x ∧ x.walk = w.id ∧ x.slot = w.slot
        ∧ x.unit = p.unit ∧ x.kind = p.kind ∧ x.pos = p.pos ∧ x.seq = w.seq + 1 ∧ x.cursor = 0 ∧ x.sealed = false ∧ x.revoked = false
        ∧ v'.cur.pc = (w.entry p.kind).entry ∧ v'.sGet 2 = w.id ∧ v'.sGet 7 = BitVec.ofNat 64 x.addr
        ∧ v'.sGet 8 = BitVec.ofNat 64 (w.seq + 1) ∧ (v'.sGet 1).toNat % 2 ^ 8 = p.kind % 2 ^ 8 ∧ v'.ah = max v.ah w.posted
        ∧ (∀ n, n = 0 ∨ 9 ≤ n → v'.sGet n = v.sGet n))
  ∧ (∀ seq u kind pos, seq ≠ 0 → deliveredUp w seq = some (u, kind, pos) → w.prob.tmo ≠ 0 →
      (upStage w u kind pos).raised + w.prob.tmo * 1000 ≤ s.time → (w.prob.policy = 0 ∨ (upStage w u kind pos).retry = true) →
      ∃ t, exec (.upcallTimeout core w.slot seq) s = .next t ∧ MemorySame s t
        ∧ now t (fun v => ∃ f, v.ended = some (false, f) ∧ f.sub = 9 ∧ f.detail = 0))
  ∧ (∀ seq u kind pos tm, seq ≠ 0 → deliveredUp w seq = some (u, kind, pos) → u < w.units.length → w.prob.tmo ≠ 0 →
      let x := upStage w u kind pos
      x.raised + w.prob.tmo * 1000 ≤ s.time → w.prob.policy ≠ 0 → x.retry = false → s.findTeam w.team = some tm →
      ∃ t tm', exec (.upcallTimeout core w.slot seq) s = .next t ∧ MemorySame s t
        ∧ now t (fun v => v.ended = none ∧ let y := upStage v u kind pos
            y.retry = true ∧ y.raised = s.time ∧ y.avoid = some x.warp
            ∧ (kind = 2 → (v.unit u).slot = .pending) ∧ (kind ≠ 2 → y.st = .requested ∧ y.step = x.step))
        ∧ t.findTeam w.team = some tm'
        ∧ tm'.pending = tm.pending ++ [((w.entry kind).cohort, { slot := w.slot, unit := u, kind := kind, pos := pos })]
        ∧ ∀ v ∈ t.w :: t.ws, v.team = w.team → ∀ y, v.upcall = some y → y.walk = w.id → y.seq = x.num → y.revoked = true)
  ∧ (∀ u o p st x eng c, u < w.units.length → o < 2 → w.direct o = some x → oldestRequest (w.unit u) o = some (p, st) →
      eng < 96 → eng / 48 = core / 80 → (∀ sv ∈ s.saves, sv.core.num ≠ core) → s.findCtx w.asid = some c →
      let piece := 4 * 2 ^ w.prob.ec
      st.cost % piece = 0 →
      let k := Instr.directFillComplete core w.slot u o eng
      let goes := fun (ok : Stage → Prop) (paid : Nat) => ∃ t c', exec k s = .next t ∧ MemorySame s t
        ∧ now t (fun v => v.ended = none ∧ ok ((v.unit u).stage o p)) ∧ t.findCtx w.asid = some c' ∧ c'.ebudLevel + paid = c.ebudLevel
      let ends := fun (f : EFail) => ∃ t c', exec k s = .next t ∧ MemorySame s t ∧ now t (fun v => v.ended = some (false, f))
        ∧ t.findCtx w.asid = some c' ∧ c'.ebudLevel + st.cost = c.ebudLevel
      (c.ebudLevel < st.cost → let paid := c.ebudLevel / piece * piece
        goes (fun y => y.st = .requested ∧ y.step = st.step ∧ y.seen = st.seen ∧ y.cost + paid = st.cost) paid)
      ∧ (st.cost ≤ c.ebudLevel →
        (dLayout x.desc = 3 ∧ st.seen = none →
          (∀ f, fillCheck w x u o st.step s = .error f → ends f)
          ∧ (∀ l, fillCheck w x u o st.step s = .ok l → goes (fun y => y.st = .requested ∧ y.step = st.step ∧ y.seen = some l
              ∧ y.cost = fillCost w x u o st.step) st.cost))
        ∧ (¬ (dLayout x.desc = 3 ∧ st.seen = none) →
          (∀ f, fillFault w x u o st.step st.seen s = some f → ends f)
          ∧ (fillFault w x u o st.step st.seen s = none → goes (fun y => y.st = .sealed) st.cost))))
  ∧ (∀ u, stepReady s core w u = true → stepBefore s core w = false →
      ∃ t, exec (.stepStart core w.slot u) s = .next t ∧ MemorySame s t
        ∧ now t (fun v => (v.unit u).running = true ∧ (v.unit u).next = (w.unit u).next)
        ∧ (t.orr core).steps = (s.orr core).steps + 1
        ∧ ∀ c, s.findCtx w.asid = some c → ∃ c', t.findCtx w.asid = some c'
            ∧ c'.ebudLevel + (if (w.unit u).paid then 0 else w.prob.debit) = c.ebudLevel)
  ∧ (∀ u bad, ((w.unit u).next + 1) % w.prob.steps = 0 → (w.unit u).slot ≠ .free → exec (.stepComplete core w.slot u bad) s = .next s)
  ∧ (∀ u bad, u < w.units.length → (w.unit u).running = true →
      (((w.unit u).next + 1) % w.prob.steps = 0 → (w.unit u).slot = .free) →
      let p := (w.unit u).next % w.prob.positions
      ∃ t, exec (.stepComplete core w.slot u bad) s = .next t ∧ MemorySame s t
        ∧ now t (fun v => (v.unit u).running = false ∧ (v.unit u).next = (w.unit u).next + 1
            ∧ ((v.unit u).ready = true ↔ ((w.unit u).next + 1) % w.prob.steps = 0)
            ∧ ((v.unit u).marked = true ↔ (w.unit u).marked = true ∨ 2 ≤ bad))
        ∧ (bad < 2 → ∀ i j, i < w.prob.t → j < w.prob.t →
            BitVec.ofNat 32 (accAt w.prob (t.getCore core) w.slot u i j) = BitVec.ofNat 32 (stepSum w.prob (s.getCore core) w.slot u p
              (if (w.unit u).next % w.prob.steps = 0 then 0 else accAt w.prob (s.getCore core) w.slot u i j) i j))
        ∧ (∀ b, ¬ InUnit w.prob w.slot u b → accByte (t.getCore core) b = accByte (s.getCore core) b)
        ∧ t.dev.orrc = s.dev.orrc + (if bad = 1 then 1 else 0) ∧ t.dev.orru = s.dev.orru + (if 2 ≤ bad then 1 else 0))
  ∧ (∀ u, u < w.units.length → (w.unit u).ready = true → (w.unit u).slot = .free →
      let inSlot := fun (s : State) => s.modCore core (winPut (converted s core w u (slotDesc w.prob w.slot u)))
      (w.c = none → ∃ t, exec (.deliveryConversionDone core w.slot u) s = .next t ∧ MemorySame s t
        ∧ now t (fun v => (v.unit u).slot = .pending ∧ (v.unit u).ready = false
            ∧ (v.unit u).tile = ((w.unit u).next - 1) / w.prob.steps ∧ (v.unit u).up.raised = s.time
            ∧ (v.unit u).ig = (w.unit u).marked)
        ∧ (t.getCore core).acc = ((inSlot s).getCore core).acc
        ∧ ∀ tm, s.findTeam w.team = some tm → ∃ tm' q, t.findTeam w.team = some tm' ∧ tm'.pending = tm.pending ++ [q]
            ∧ q.1 = (w.entry 2).cohort ∧ q.2.kind = 2 ∧ q.2.unit = u ∧ q.2.slot = w.slot)
      ∧ (∀ d, w.c = some d →
          let pl := w.prob.place (w.prob.unitTile u (((w.unit u).next - 1) / w.prob.steps))
          let b := subTile (batchDesc d pl.1) (pl.2.1 * w.prob.t) (pl.2.2 * w.prob.t) w.prob.t w.prob.t
          rangeHeld s (walkAgent w) false (tileRanges b) = false →
          (∀ f, rangesFault s (walkAgent w) false .write (tileRanges b) = some f →
            ∃ t, exec (.deliveryConversionDone core w.slot u) s = .next t ∧ MemorySame s t
              ∧ now t (fun v => v.ended = some (false, walkFail w 4 f.1 f.2)))
          ∧ (rangesFault s (walkAgent w) false .write (tileRanges b) = none →
            ∃ t, exec (.deliveryConversionDone core w.slot u) s = .next t
              ∧ now t (fun v => v.ended = none ∧ v.tiles = w.tiles + 1 ∧ (v.unit u).ready = false
                  ∧ v.nint = w.nint + (if (w.unit u).marked then 1 else 0) ∧ (v.ig = true ↔ w.ig = true ∨ (w.unit u).marked = true))
              ∧ (t.getCore core).acc = ((inSlot s).getCore core).acc
              ∧ t.mem = (agentPut (walkAgent w) false (converted s core w u b) (inSlot s)).1.mem)))
  ∧ (walkDone w = true → (w.wct = 0 ∨ w.wct < s.time) → s.snaps = [] → (∀ x ∈ s.ctx :: s.ctxs, x.watch = []) → ∀ c l,
      s.findCtx w.asid = some c → ctxWalk s c w.prob.cw = .leaf l → leafM l = false → w.prob.cw % 8 = 0 →
      rangeFault s (walkAgent w) false .write w.prob.cw 8 = none →
      ∃ t, exec (.walkCompletion core w.slot) s = .next t ∧ t.findWalk core w.slot = none
        ∧ BitVec.ofNat 64 (memNat t.mem (leafPA l w.prob.cw) 8) = doneWord none false w.ig w.nint w.prob.cookie
        ∧ (∀ b, b < leafPA l w.prob.cw ∨ leafPA l w.prob.cw + 8 ≤ b → memRead t.mem b = memRead s.mem b)
        ∧ ∀ v o, s.findWarp w.warp = some v → v.ops.filter (fun q => q.id == w.op) = [o] →
            ∃ v', t.findWarp w.warp = some v' ∧ ∀ q ∈ v'.ops, q.id = w.op → q.done = true)
  ∧ ((s.orr core).testing = false → s.dev.interval ≤ (s.orr core).steps →
      (∀ v ∈ (s.getCore core).walks, v.ended = none → ∀ u ∈ v.units, u.running = false) →
      ∃ t, exec (.selfTest core) s = .next t ∧ (t.orr core).testing = true ∧ (t.orr core).steps = 0 ∧ { t with orrs := s.orrs } = s)
  ∧ (∀ f : BitVec 4, (s.orr core).testing = true → ∃ t, exec (.selfTestResult core f) s = .next t ∧ MemorySame s t
      ∧ (t.orr core).testing = false
      ∧ ∀ i, i ∈ (t.orr core).fenced ↔ i ∈ (s.orr core).fenced ∨ (i < 4 ∧ f.getLsbD i = true))

end

/-! # Routines and the tile operators (11 R238 to R255) -/

section

open Sys2Proof Sys2Proof.Machine Sys2Proof.Claims

/-- A read of n bytes by the split itself gives x: the address is aligned and translated, the read may be performed, and
neither the page nor the bytes are poisoned. -/
def Sys2Proof.Claims.Reads (s : State) (n : Nat) (va : W64) (x : Nat) : Prop :=
  ∃ l pa, Reach1 s .read n va l pa ∧ loadMayRun s s.w.uid s.nextId [(s.dev.chipId, pa, n)] = true ∧ l.getLsbD 8 = false
    ∧ granPoisoned s.mp pa n = false ∧ x = memNat s.mem pa n

/-- 11 R239, R241: a routine body has no fault when no word has one; the words are judged in order, each on its major and function (TSUB
3), then its registers (4), then, of a PFX, its successor and its fields (5). -/
def Sys2Proof.Claims.BodyJudged : Prop :=
  (∀ ws : List Nat, bodyReason ws = none ↔ ∀ i w, ws[i]? = some w → bodyBad w ws[i + 1]? = none)
  ∧ (∀ (w : Nat) (ws : List Nat), bodyBad w ws.head? = none → bodyReason (w :: ws) = bodyReason ws)
  ∧ (∀ (w : Nat) (ws : List Nat) (why : Nat), bodyBad w ws.head? = some why → bodyReason (w :: ws) = some why)
  ∧ (∀ (w : Nat) (next : Option Nat),
      let run := [0x10, 0x11, 0x12, 0x13, 0x14, 0x15, 0x16, 0x17, 0x1C, 0x1D]
      (w % 2 = 0 ∨ ¬ (wordMajor w ∈ run ∨ (wordMajor w = 0x1F ∧ wordFn w = 4) ∨ wordMajor w = 0x3E) → bodyBad w next = some 3)
      ∧ ∀ i, w % 2 = 1 → wordMajor w ∈ run ∨ (wordMajor w = 0x1F ∧ wordFn w = 4) → decodeWord w = .ok i →
        (wordMajor w ≠ 0x12 → 15 < w / 2 ^ 11 % 2 ^ 7 → bodyBad w next = some 4)
        ∧ (wordMajor w ≠ 0x1D → 15 < w / 2 ^ 18 % 2 ^ 7 → bodyBad w next = some 4))
  ∧ ∀ (k r : BitVec 3) (z : BitVec 1) (c : BitVec 7) (e : BitVec 2) (x : BitVec 1) (next : Option Nat),
      let w := prefixWord k r z c e x
      (15 < c.toNat → bodyBad w next = some 4)
      ∧ (c.toNat ≤ 15 → (next = none ∨ 5 < r.toNat ∨ ∃ y, next = some y ∧ (¬ permitted y ∨ ¬ fieldsPermitted r z c e x y)) →
          bodyBad w next = some 5)
      ∧ (c.toNat ≤ 15 → r.toNat ≤ 5 → ∀ y, next = some y → permitted y → fieldsPermitted r z c e x y → bodyBad w next ≠ some 5)

/-- 11 R238, R239, R241, R242: RTREG registers an image with the lowest free IDX and the next generation of it, or
says why not; RTFREE frees a handle that no operation names; how a body is judged (BodyJudged). Where it rests on a reading or a choice of the model:
notes/assumptions 50.md. -/
def Obligations.RoutineRegistration : Prop := BodyJudged ∧ ∀ (s : State) (d a : BitVec 6), s.w.dawn = false → s.team.spec = false →
  let va := s.w.sGet a.toNat
  (∀ d0 d1 d2, Reads s 8 va d0 → Reads s 8 (va + 8) d1 → Reads s 8 (va + 16) d2 →
    (headerBad d0 d1 d2 = true → SoftFails (.rtreg d a) s d.toNat 2)
    ∧ (headerBad d0 d1 d2 = false → ∀ ws : List Nat, ws.length = d0 % 64 →
        (∀ i, i < ws.length → Reads s 4 (va + 24 + BitVec.ofNat 64 (4 * i)) (ws.getD i 0)) →
        (∀ why, bodyReason ws = some why → SoftFails (.rtreg d a) s d.toNat why)
        ∧ (bodyReason ws = none → 4080 ≤ s.ctx.routines.length → SoftFails (.rtreg d a) s d.toNat 1)
        ∧ (bodyReason ws = none → s.ctx.routines.length < 4080 → ∃ idx gen r, 16 ≤ idx ∧ idx ≤ 4095
            ∧ (∀ p ∈ s.ctx.routines, p.1 ≠ idx) ∧ (∀ j, 16 ≤ j → j < idx → ∃ p ∈ s.ctx.routines, p.1 = j)
            ∧ gen = (if tabGet 0 idx s.ctx.rgens = 0xFFFF then 1 else tabGet 0 idx s.ctx.rgens + 1)
            ∧ r.words = ws.map (BitVec.ofNat 32) ∧ r.width = d0 / 2 ^ 8 % 8 ∧ (r.assoc = true ↔ d0 / 2 ^ 16 % 2 = 1)
            ∧ (r.comm = true ↔ d0 / 2 ^ 17 % 2 = 1) ∧ r.gen = gen
            ∧ r.ident = ([d1 % 2 ^ 32, d1 / 2 ^ 32 % 2 ^ 32, d2 % 2 ^ 32, d2 / 2 ^ 32 % 2 ^ 32].take r.width).map (BitVec.ofNat 32)
            ∧ Answers (.rtreg d a) s d.toNat (BitVec.ofNat 64 (gen * 2 ^ 12 + idx)) (fun t =>
                (idx, r) ∈ t.ctx.routines ∧ (∀ p ∈ s.ctx.routines, p ∈ t.ctx.routines) ∧ tabGet 0 idx t.ctx.rgens = gen))))
  ∧ (liveRoutine s.ctx va = none → SoftFails (.rtfree d a) s d.toNat 1)
  ∧ (liveRoutine s.ctx va ≠ none → handleUsed s va = true → SoftFails (.rtfree d a) s d.toNat 2)
  ∧ (liveRoutine s.ctx va ≠ none → handleUsed s va = false → Answers (.rtfree d a) s d.toNat 1 (fun t =>
      (∀ p, p ∈ t.ctx.routines ↔ p ∈ s.ctx.routines ∧ p.1 ≠ va.toNat % 2 ^ 12)
      ∧ { t.ctx with routines := s.ctx.routines } = s.ctx))

/-- The warp v, whose one outstanding operation has retired: its WCT, flags and failure reach WMAX, FPX and the failures that
the waits report (11 R251, R252). -/
def Sys2Proof.Claims.Retired (v v' : Warp) (wct : Nat) (exc : BitVec 5) (fail : Option EFail) : Prop :=
  v'.ops = [] ∧ v'.fpx = v.fpx ||| exc.setWidth 64 ∧ v'.wmax = max v.wmax wct
  ∧ v'.fails.map (·.cause) = v.fails.map (·.cause) ++ (fail.map (·.cause)).toList

/-- node(c, 2^k) over the q chunk totals T (11 R248). -/
def Sys2Proof.Claims.chunkNode (op : RVal → RVal → RVal) (T : Nat → RVal) (q c : Nat) : Nat → RVal
  | 0 => T c
  | k + 1 => if c + 2 ^ k < q then op (chunkNode op T q c k) (chunkNode op T q (c + 2 ^ k) k) else chunkNode op T q c k

/-- The nodes of the aligned blocks that make up chunks 0 to c − 1, largest first (11 R248). -/
def Sys2Proof.Claims.blockNodes (op : RVal → RVal → RVal) (T : Nat → RVal) (q c : Nat) : List RVal :=
  (((List.range c).filter c.testBit).reverse).map (fun a => chunkNode op T q (c / 2 ^ (a + 1) * 2 ^ (a + 1)) a)

/-- The order of combination (11 R247, R248), for a routine that gives op of any two elements: the left fold of a routine that is
not associative; the totals of chunks of 16 and their tree, and the prefixes from it, for one that is. ZIP and OUTER combine their
two elements, and a seed stands on the left. -/
def Sys2Proof.Claims.OperatorOrder : Prop := ∀ (f : RFun) (op : RVal → RVal → RVal), (∀ a b, ∃ m, f.comb a b = .ok (op a b, m)) →
  (∀ xs : List RVal, xs ≠ [] →
    let read := xs.map (fun x => (Except.ok x : Except RFault RVal))
    let T := fun (c : Nat) => ((xs.drop (16 * c)).take 16).foldl op f.ident
    let q := (xs.length + 15) / 16
    (f.assoc = false → (foldSeq f read).map (·.1) = .ok (xs.foldl op f.ident)
      ∧ ∀ j, j < xs.length → (prefixSeq f read j).map (·.1) = .ok ((xs.take (j + 1)).foldl op f.ident))
    ∧ (f.assoc = true → (∀ k, q ≤ 2 ^ k → (foldSeq f read).map (·.1) = .ok (chunkNode op T q 0 k))
      ∧ ∀ j, j < xs.length →
          let own := ((xs.drop (16 * (j / 16))).take (j + 1 - 16 * (j / 16))).foldl op f.ident
          (j < 16 → (prefixSeq f read j).map (·.1) = .ok own)
          ∧ ∀ b bs, 16 ≤ j → blockNodes op T q (j / 16) = b :: bs → (prefixSeq f read j).map (·.1) = .ok (op (bs.foldl op b) own)))
  ∧ ∀ (s : State) (g : Agent) (c : W64) (da db : Desc) (i e : Nat) (x y : RVal),
      let w := f.width
      (opElem s g w da i e = .ok x → opElem s g w db i e = .ok y → (destElem f s g 2 c da db i e).map (·.1) = .ok (op x y))
      ∧ (vecElem s g w da i = .ok x → vecElem s g w db e = .ok y → (destElem f s g 3 c da db i e).map (·.1) = .ok (op x y))
      ∧ (∀ m, ctlAxis c = true → foldSeq f ((List.range (dCols da / w)).map (opElem s g w da i)) = .ok (y, m) →
          opElem s g w db i 0 = .ok x →
          (destElem f s g 0 c da db i e).map (·.1) = .ok (if ctlInit c then op x y else y))
      ∧ (∀ m, ctlAxis c = false → foldSeq f ((List.range (dRows da)).map (fun r => opElem s g w da r e)) = .ok (y, m) →
          opElem s g w db 0 e = .ok x →
          (destElem f s g 0 c da db i e).map (·.1) = .ok (if ctlInit c then op x y else y))
      ∧ (∀ m, prefixSeq f ((List.range (dCols da / w)).map (opElem s g w da i)) e = .ok (y, m) → opElem s g w db i 0 = .ok x →
          (destElem f s g 1 c da db i e).map (·.1) = .ok (if ctlInit c then op x y else y))

/-- 11 R244, R245, R247 to R254: FOLD, SCAN, ZIP and OUTER go to the core's output routine unit (FOLD and OUTER of
tiles that all lie in scratchpad) or to chain 0 as a record of opcode 0x10; a record of that opcode and an operation
of the unit are judged, paid, performed and retired; one that waits for room keeps the scalars it has read. What
they compute, and in which order, OperatorOrder says. Where it rests on a reading or a choice of the model:
notes/assumptions 8.md, 18.md, 38.md. -/
def Obligations.TileOperators : Prop :=
  (∀ (s : State) (d a b : BitVec 4) (h : BitVec 6) (e : BitVec 2), s.w.dawn = false → s.team.spec = false → s.w.count .tl < 30 →
    h.toNat ≤ 61 → ∀ k ∈ [(Instr.fold d a b h e, 0), (.scan d a b h e, 1), (.zip d a b h e, 2), (.outer d a b h e, 3)],
      let dw := fun (i : Nat) => (s.w.cur.arg[i]?).getD (s.w.sGet (h.toNat + i))
      let hnd := dw 0
      let raw := dw 1
      let ctl := if raw.toNat / 4 % 4 ≠ 0 then raw else BitVec.ofNat 64 (raw.toNat + 4 * k.2)
      let used := [s.w.tdGet d.toNat, s.w.tdGet a.toNat] ++ (if 2 ≤ k.2 ∨ raw.getLsbD 1 = true then [s.w.tdGet b.toNat] else [])
      let near := (k.2 = 0 ∨ k.2 = 3) ∧ ∀ x ∈ used, dSpace x = true
      let goes := s.w.cur.arg.length = 3 ∨ (s.w.cur.arg = [] ∧ handleLive s.ctx hnd = true)
      (s.w.cur.arg = [] → handleLive s.ctx hnd = false → UserNoHandler s → Traps k.1 s 0x07 0x10 hnd 0 s.w.cur.active)
      ∧ (goes → near → 64 ≤ s.core.outq.length → Parks k.1 s ∧ ∀ t, exec k.1 s = .next t → t.w.cur.arg = [dw 0, dw 1, dw 2])
      ∧ (goes → near → s.core.outq.length < 64 → Fenced s 4 → (∀ q ∈ s.w.ops, q.id ≠ s.nextId) →
          ∃ t o, exec k.1 s = .next t ∧ GoesOn s t s.ix.next ∧ OnlyOps s t ∧ MemorySame s t ∧ t.core.outq = s.core.outq ++ [o]
            ∧ { t.core with outq := s.core.outq } = s.core ∧ o.op = s.nextId ∧ o.warp = s.w.uid ∧ o.team = s.w.team ∧ o.fn = k.2
            ∧ o.hnd = hnd ∧ o.ctl = raw ∧ o.eh = dw 2 ∧ o.dd = s.w.tdGet d.toNat ∧ o.da = s.w.tdGet a.toNat ∧ o.db = s.w.tdGet b.toNat
            ∧ o.ec = e.toNat ∧ o.started = false ∧ o.done = false
            ∧ ∃ q ∈ t.w.ops, q.id = s.nextId ∧ q.cls = .tl ∧ q.done = false ∧ q.hnd = hnd)
      ∧ (∀ ch, goes → ¬ near → s.ctx.live = true → s.ctx.chain 0 = some ch → ch.host = none →
          (Full ch → Parks k.1 s ∧ ∀ t, exec k.1 s = .next t → t.w.cur.arg = [dw 0, dw 1, dw 2])
          ∧ (¬ Full ch → Fenced s 4 →
            let at_ := ch.annex.toNat + ch.tail % (63 * max ch.nseg 1) * 128
            let ptr := fun (i : Nat) => if i < used.length then BitVec.ofNat 64 (at_ + 32 * i) else 0
            ∃ t, exec k.1 s = .next t ∧ t.ix.retired = true ∧ t.w.cur.pc = s.ix.next ∧ (∀ n, t.w.sGet n = s.w.sGet n)
              ∧ Appends s t 0 ch .tl [BitVec.ofNat 64 (0x10 + 256 * e.toNat), hnd, ctl, dw 2, ptr 0, ptr 1, ptr 2, 0])))
  ∧ (∀ (s : State) (asid n : Nat) (c : Ctx) (ch : Chain) (r : Rec), NextRecord s asid n c ch r →
      let dws := readRec s c ch r
      let d0 := (dws.headD 0).toNat
      let e : RecEnv := { addr := (posVA s c ch r.idx).getD 0, ch := ch, dws := dws }
      let g := recAgent asid ch r
      d0 % 256 = 0x10 →
      (∀ f, judgeOperRec r s g e = .error f → RecordGoes s (.operatorRun asid n r.seq) asid n r (fun r' _ => r'.phase = .done
        ∧ FailedWith ch n 0x10 r.seq f r'.fail))
      ∧ (∀ ds rd wr, judgeOperRec r s g e = .ok (ds, rd, wr) → RecordGoes s (.operatorRun asid n r.seq) asid n r (fun r' _ =>
          r'.phase = .paying ∧ r'.dws = dws ∧ r'.ds = ds
          ∧ r'.cost = 4 * 2 ^ (d0 / 2 ^ 8 % 4) * ((rd + 65535) / 65536 + (wr + 65535) / 65536))))
  ∧ (∀ (s : State) (asid n : Nat) (c : Ctx) (ch : Chain) (r : Rec), RecordAt s asid n c ch r → r.phase = .paying →
      let d0 := (r.dws.headD 0).toNat
      let e := heldEnv s c ch r
      let g := unitAgent asid ch r
      let x := (recArgs s g e).1
      d0 % 256 = 0x10 → r.cost % (4 * 2 ^ (d0 / 2 ^ 8 % 4)) = 0 →
      (c.ebudLevel < r.cost → RecordGoes s (.operatorRun asid n r.seq) asid n r (fun r' _ => r'.phase = .paying ∧ 0 < r'.cost
        ∧ r'.cost ≤ r.cost ∧ r'.dws = r.dws ∧ r'.ds = r.ds))
      ∧ (r.cost ≤ c.ebudLevel →
          (∀ f, judgeOperRec r s g e = .error f → RecordGoes s (.operatorRun asid n r.seq) asid n r (fun r' c' =>
            r'.phase = .done ∧ FailedWith ch n 0x10 r.seq f r'.fail ∧ c'.ebudLevel + r.cost = c.ebudLevel))
          ∧ (∀ y f, judgeOperRec r s g e = .ok y → routineOf c s.tick r.rnd r.fpe (e.dw 1) = some f →
              rangeHeld s g (dSpace x.dd) (tileRanges x.dd) = false →
              ∃ t r' c', exec (.operatorRun asid n r.seq) s = .next t ∧ RecordNow t asid n r' ∧ r'.seq = r.seq ∧ r'.phase = .done
                ∧ r'.exc = (performOper f g x s).exc
                ∧ r'.fail = operFail r.instr ch.engine n r.seq e.addr (e.dw 1) (performOper f g x s)
                ∧ t.mem = (performOper f g x s).st.mem ∧ t.mp = (performOper f g x s).st.mp
                ∧ t.findCtx asid = some c' ∧ c'.ebudLevel + r.cost = c.ebudLevel)))
  ∧ (∀ (s : State) (core : Nat) (o : OutOp) (rest : List OutOp), (s.getCore core).outq = o :: rest → o.started = false →
      o.done = false →
      let judged := judgeOper o.rnd o.fpe o.hnd (o.ctl.toNat / 4 % 4 != 0) s (outAgent o) 0 (outArgs o) (outDescs o)
      (∀ f, judged = .error f → ∃ t o', exec (.outputUnitOperation core) s = .next t ∧ MemorySame s t
        ∧ (t.getCore core).outq = o' :: rest ∧ o'.op = o.op ∧ o'.done = true
        ∧ o'.fail = some (engineFail 0x7F 0 0x10 0 f.1 f.2.1 f.2.2))
      ∧ (∀ rd wr f c, judged = .ok (rd, wr) → s.findCtx o.asid = some c → routineOf c s.tick o.rnd o.fpe o.hnd = some f →
          let cost := 4 * 2 ^ o.ec * ((rd + 65535) / 65536 + (wr + 65535) / 65536)
          (cost ≤ c.ebudLevel → ∃ t o', exec (.outputUnitOperation core) s = .next t ∧ (t.getCore core).outq = o' :: rest
            ∧ o'.op = o.op ∧ o'.done = true ∧ o'.exc = (performOper f (outAgent o) (outArgs o) s).exc
            ∧ o'.fail = operFail true 0x7F 0 0 0 o.hnd (performOper f (outAgent o) (outArgs o) s)
            ∧ (t.getCore core).sram = ((performOper f (outAgent o) (outArgs o) s).st.getCore core).sram
            ∧ t.mem = (performOper f (outAgent o) (outArgs o) s).st.mem)
          ∧ (c.ebudLevel < cost → ∃ t o', exec (.outputUnitOperation core) s = .next t ∧ MemorySame s t
            ∧ (t.getCore core).outq = o' :: rest ∧ o'.op = o.op ∧ o'.started = true ∧ o'.done = false ∧ 0 < o'.cost)))
  ∧ (∀ (s : State) (op asid n : Nat) (c : Ctx) (ch : Chain) (r : Rec) (u : Nat) (v : Warp) (x : Op),
      doneOperRec op s = some (asid, n, r) → RecordAt s asid n c ch r → r.warp = some u → s.findWarp u = some v → v.ended = false →
      v.ops = [x] → x.id = op →
      ∃ t v' r', exec (.operationRetire op) s = .next t ∧ MemorySame s t ∧ t.findWarp u = some v'
        ∧ Retired v v' (max x.wct r.wct) r.exc r.fail ∧ RecordNow t asid n r' ∧ r'.seq = r.seq ∧ r'.phase = r.phase ∧ r'.warp = none)
  ∧ (∀ (s : State) (op : Nat) (o : OutOp) (v : Warp) (x : Op), doneOperRec op s = none →
      (s.core :: s.cores ++ s.saves.map (·.core)).findSome? (fun c => c.outq.find? (fun o => o.op == op && o.done)) = some o →
      s.findWarp o.warp = some v → v.ended = false → v.ops = [x] → x.id = op →
      ∃ t v', exec (.operationRetire op) s = .next t ∧ MemorySame s t ∧ t.findWarp o.warp = some v'
        ∧ Retired v v' (max x.wct s.time) o.exc o.fail ∧ (∀ y ∈ t.core.outq, y.op ≠ op))
  ∧ OperatorOrder

end

/-! # Handles, KV caches, the Ephemeris store and attention (12 R256 to R276) -/

section

open Sys2Proof Sys2Proof.Machine Sys2Proof.Claims

/-- k completes with s[d] ← x as an acquire does; memory differs in no byte outside p, no mask or vector register changes. -/
def Sys2Proof.Claims.Gives (k : Instr) (s : State) (d : Nat) (x : W64) (p : Nat → Prop) (more : State → Prop) : Prop :=
  ∃ t, exec k s = .next t ∧ t.ix.retired = true ∧ t.w.cur.pc = s.ix.next ∧ (∀ b, ¬ p b → memRead t.mem b = memRead s.mem b)
    ∧ t.w.sGet d = (if d = 0 then 0 else x) ∧ ScalarsBut d s t ∧ t.w.ah = max s.w.ah s.time ∧ (∀ n, t.w.kGet n = s.w.kGet n)
    ∧ (∀ r n, t.w.vGet r n = s.w.vGet r n ∧ t.w.pGet r n = s.w.pGet r n) ∧ more t

/-- No shoot-down of the split runs. -/
def Sys2Proof.Claims.NoShoots (s : State) : Prop := ∀ x ∈ s.shoots, x.who ≠ some (s.w.uid, s.w.cur.num)

/-- The first check of R258 that a handle fails for a type of object, as its sub-code. -/
def Sys2Proof.Claims.handleSub (s : State) (type : Nat) (h : W64) : Option Nat :=
  let idx := h.toNat % 2 ^ 20
  let e := readEnt s s.ctx idx
  let d0 := e.dw 0
  if s.ctx.htSize ≤ idx ∨ d0 % 4 = 0 ∨ d0 % 4 = 3 then some 1
  else if h.toNat / 2 ^ 48 ≠ d0 / 2 ^ 48 then some 2
  else if h.toNat / 2 ^ 36 % 2 ^ 12 ≠ s.ctx.tenant % 2 ^ 12 ∨ h.toNat / 2 ^ 36 % 2 ^ 12 ≠ d0 / 2 ^ 36 % 2 ^ 12 then some 3
  else if d0 / 2 ^ 20 % 2 ^ 16 < h.toNat / 2 ^ 20 % 2 ^ 16
      ∨ (d0 % 4 = 2 ∧ h.toNat / 2 ^ 20 % 2 ^ 16 ≠ d0 / 2 ^ 20 % 2 ^ 16) then some 4
  else if d0 % 4 ≠ type then some 5
  else none

/-- Byte b is one of the eight of dword i of an entry. -/
def Sys2Proof.Claims.InDword (e : HEnt) (i b : Nat) : Prop := e.pa + 8 * i ≤ b ∧ b < e.pa + 8 * i + 8

/-- The leaf at an address. -/
def Sys2Proof.Claims.leafIn (s : State) (a : Nat) : W64 := BitVec.ofNat 64 (memNat s.mem a 8)
/-- Byte b is one of the eight of the leaf at a. -/
def Sys2Proof.Claims.InLeaf (a b : Nat) : Prop := a ≤ b ∧ b < a + 8

/-- A page that was not mapped maps the pool's first frame f, taken from it (12 R261): the leaf present, readable and writable by
user code, LC 1, SC 1; every byte of the frame 0 and no longer poisoned; no other byte of memory changed. -/
def Sys2Proof.Claims.FreshMapped (s : State) (e : HEnt) (i : Nat) : Prop :=
  ∀ at_ f fs, leafAddr s s.ctx (e.dw 1 + i * 2 ^ 18) = some at_ → s.ctx.pool = f :: fs → f < 2 ^ 34 →
    let t := mapFresh e i s
    t.ctx = { s.ctx with pool := fs } ∧ leafFrame (leafIn t at_) = f ∧ leafSC (leafIn t at_) = 1 ∧ leafLC (leafIn t at_) = 1
    ∧ leafPresent (leafIn t at_) = true ∧ leafRead (leafIn t at_) = true ∧ leafWrite (leafIn t at_) = true ∧ leafUser (leafIn t at_) = true
    ∧ leafSZ (leafIn t at_) = 0 ∧ leafM (leafIn t at_) = false
    ∧ (∀ b, b / 2 ^ 18 = f → ¬ InLeaf at_ b → memRead t.mem b = 0) ∧ (∀ g, g / 2 ^ 12 = f → g ∉ t.mp)
    ∧ (∀ b, b / 2 ^ 18 ≠ f → ¬ InLeaf at_ b → memRead t.mem b = memRead s.mem b)

/-- A shared page made private (12 R264), on the pool's first frame f: the appender's leaf moves to it with W = 1 and SC 1; the
positions below len are copied and the rest of the frame is zero; the old frame's other leaves count one less; the one owner left
loses its slots at or above its TLEN and may write again. Bytes that are themselves leaves of the old frame are left aside. -/
def Sys2Proof.Claims.MadePrivate (s : State) (e : HEnt) (i len : Nat) : Prop :=
  ∀ at_ l f s1, kvLeaf s s.ctx e i = some (at_, l) → popFrame s = some (f, s1) → f < 2 ^ 34 →
    let t := makePrivate e i len s
    let old := leafFrame l
    let s3 := putLeaf at_ (poolLeaf f) (copyPhys (old * 2 ^ 18) (f * 2 ^ 18) (pageBytes e i len) s1)
    let s4 := mapLeaves old (fun x => leafSetSC x (leafSC l - 1)) s3
    let table := fun b => InLeaf at_ b ∨ ∃ x ∈ leavesOf s3 old ++ leavesOf s4 old, InLeaf x.2.2.1 b
    t.ctx.pool = s1.ctx.pool
    ∧ (f ≠ old → at_ / 2 ^ 18 ≠ old →
        leafFrame (leafIn t at_) = f ∧ leafSC (leafIn t at_) = 1 ∧ leafWrite (leafIn t at_) = true
        ∧ (Memory.wf s.mem = true → ∀ b, b < 2 ^ 18 → ¬ table (f * 2 ^ 18 + b) →
            memRead t.mem (f * 2 ^ 18 + b) = (if b < pageBytes e i len then memRead s.mem (old * 2 ^ 18 + b) else 0)))
    ∧ (leafSC l ≠ 255 → leafSC l ≠ 2 → ∀ x ∈ leavesOf s3 old, leafIn t x.2.2.1 = leafSetSC x.2.2.2 (leafSC l - 1))
    ∧ (leafSC l = 2 → ∀ x c e2 j, leavesOf s4 old = [x] → s4.findCtx x.1 = some c → kvOwner s4 c x.2.1 = some (e2, j) →
        leafIn t x.2.2.1 = leafSetW x.2.2.2 true
        ∧ ∀ b, pageBytes e2 j e2.tlen ≤ b → b < 2 ^ 18 → ¬ InLeaf x.2.2.1 (old * 2 ^ 18 + b) → memRead t.mem (old * 2 ^ 18 + b) = 0)

/-- A page of a fork (12 R263; 03 R49): one that is not copied is mapped by the destination too, every mapping of its frame with SC
one more and W = 0; one that is copied stands in the pool's first frame for the destination, the positions below the fork there
and zeros above, the source's leaf as it was. -/
def Sys2Proof.Claims.PageForked (s : State) (src dst : HEnt) (f i : Nat) : Prop :=
  ∀ at_ l a, kvLeaf s s.ctx src i = some (at_, l) → leafAddr s s.ctx (dst.dw 1 + i * 2 ^ 18) = some a →
    let t := forkPage src dst f i s
    (leafSC l ≠ 255 → leafSZ l = 0 →
      let s1 := putLeaf a l s
      (∀ x ∈ leavesOf s1 (leafFrame l), leafIn t x.2.2.1 = leafSetW (leafSetSC x.2.2.2 (leafSC l + 1)) false)
      ∧ t.ctx = s.ctx ∧ ∀ b, ¬ InLeaf a b → (∀ x ∈ leavesOf s1 (leafFrame l), ¬ InLeaf x.2.2.1 b) → memRead t.mem b = memRead s.mem b)
    ∧ (leafSC l = 255 ∨ leafSZ l ≠ 0 → src.dw 1 % 2 ^ 18 = 0 → ∀ fr fs, s.ctx.pool = fr :: fs → fr < 2 ^ 34 →
        fr ≠ leafPA l (src.dw 1 + i * 2 ^ 18) / 2 ^ 18 →
        t.ctx.pool = fs ∧ leafIn t a = poolLeaf fr
        ∧ (Memory.wf s.mem = true → ∀ b, b < 2 ^ 18 → ¬ InLeaf a (fr * 2 ^ 18 + b) →
            memRead t.mem (fr * 2 ^ 18 + b) = (if b < pageBytes src i f then memRead s.mem (leafPA l (src.dw 1 + i * 2 ^ 18) + b) else 0))
        ∧ ∀ b, b / 2 ^ 18 ≠ fr → ¬ InLeaf a b → memRead t.mem b = memRead s.mem b)

/-- k completes its effect on memory, pool and poison as x has them, with s[d] ← v. Where shoot-downs of pages vas are due it
parks until they are over; without any it completes. -/
def Sys2Proof.Claims.ShootsAndGives (k : Instr) (s : State) (d : Nat) (v : W64) (vas : List Nat) (x : State) : Prop :=
  let left := fun (t : State) => t.mem = x.mem ∧ t.mp = x.mp ∧ t.ctx = x.ctx
  (vas = [] → Gives k s d v (fun b => memRead x.mem b ≠ memRead s.mem b) left)
  ∧ (vas ≠ [] → ∃ t, exec k s = .next t ∧ t.w.sGet d = (if d = 0 then 0 else v) ∧ ScalarsBut d s t ∧ t.w.cur.since ≠ none
      ∧ t.w.cur.pc = s.w.cur.pc ∧ left t
      ∧ ∀ va ∈ vas, ∃ y ∈ t.shoots, y.who = some (s.w.uid, s.w.cur.num) ∧ y.va = some va ∧ y.asid = some s.ctx.asid)

/-- 12 R257 to R264; 03 R46: KV handles. Slots and lengths are answered and set. KVTENT maps a frame of the pool at each page
that has none (FreshMapped) and makes each shared page private (MadePrivate), and so does KVSLOT.w; KVFORK maps or copies each
page (PageForked). What needs a shoot-down completes once that is over; a page under migration is waited for. Where it rests on a
reading or a choice of the model: notes/assumptions 18.md, 37.md, 93.md, 104.md, 128.md. -/
def Obligations.KvCaches : Prop := ∀ (s : State) (d a : BitVec 6), s.w.dawn = false → s.team.spec = false →
  let h := s.w.sGet a.toNat
  let n := (s.w.sGet (a.toNat + 1)).toNat
  let e := readEnt s s.ctx (h.toNat % 2 ^ 20)
  let spp := 2 ^ 18 / 2 ^ (e.dw 4 % 32)
  let ok := handleSub s 1 h = none
  let page := fun (i : Nat) => e.dw 1 + i * 2 ^ 18
  let bound := h.toNat / 2 ^ 20 % 2 ^ 16
  (∀ w : BitVec 1, a.toNat ≤ 62 → NoShoots s → Fenced s 4 → UserNoHandler s → ∀ sub, handleSub s 1 h = some sub →
    ∀ k ∈ [Instr.kvslot d a w, .kvtent d a, .kvcommit d a, .kvroll d a], Traps k s 0x07 (BitVec.ofNat 64 sub) h (n % 2 ^ 52) s.w.cur.active)
  ∧ (d.toNat ≤ 62 → UserNoHandler s → ∀ sub, handleSub s 1 h = some sub →
      Traps (.kvlen d a) s 0x07 (BitVec.ofNat 64 sub) h 0 s.w.cur.active)
  ∧ (∀ w : BitVec 1, a.toNat ≤ 62 → NoShoots s → ok →
      let x := BitVec.ofNat 64 (page (n / spp) + n % spp * 2 ^ (e.dw 4 % 32))
      (n / spp < bound → e.dw 3 ≤ n → UserNoHandler s → Traps (.kvslot d a w) s 0x07 6 h (n % 2 ^ 52) s.w.cur.active)
      ∧ (bound ≤ n / spp → UserNoHandler s → Traps (.kvslot d a w) s 0x07 4 h (n % 2 ^ 52) s.w.cur.active)
      ∧ (n < e.dw 3 → n / spp < bound → (w = 0 ∨ kvShared s s.ctx e (n / spp) = false) →
          Gives (.kvslot d a w) s d.toNat x (fun _ => False) (fun _ => True))
      ∧ (n < e.dw 3 → n / spp < bound → w ≠ 0 → kvShared s s.ctx e (n / spp) = true → s.ctx.pool = [] →
          SoftFails (.kvslot d a w) s d.toNat 2)
      ∧ (n < e.dw 3 → n / spp < bound → w ≠ 0 → kvShared s s.ctx e (n / spp) = true → s.ctx.pool ≠ [] →
          (kvHeld s e (n / spp) = true → Parks (.kvslot d a w) s)
          ∧ (kvHeld s e (n / spp) = false → MadePrivate s e (n / spp) (e.dw 3)
              ∧ ShootsAndGives (.kvslot d a w) s d.toNat x [page (n / spp)] (makePrivate e (n / spp) (e.dw 3) s))))
  ∧ (∀ w : BitVec 1, a.toNat ≤ 61 → (∃ x ∈ s.shoots, x.who = some (s.w.uid, s.w.cur.num)) →
      ∀ k ∈ [Instr.kvslot d a w, .kvtent d a, .kvfork d a],
        ((∀ x ∈ s.shoots, x.who = some (s.w.uid, s.w.cur.num) → x.done = true) →
          ∃ t, exec k s = .next t ∧ GoesOn s t s.ix.next ∧ MemorySame s t ∧ { t.w with cur := s.w.cur } = s.w ∧ NoShoots t)
        ∧ ((∃ x ∈ s.shoots, x.who = some (s.w.uid, s.w.cur.num) ∧ x.done = false) → Parks k s))
  ∧ (a.toNat ≤ 62 → NoShoots s → Fenced s 4 → ok →
      let first := e.dw 3 / spp
      let pages := (List.range ((n + spp - 1) / spp - first)).map (· + first)
      (n < e.dw 3 → SoftFails (.kvtent d a) s d.toNat 1)
      ∧ (e.dw 3 ≤ n → bound < (n + spp - 1) / spp → UserNoHandler s → Traps (.kvtent d a) s 0x07 4 h (n % 2 ^ 52) s.w.cur.active)
      ∧ (e.dw 3 ≤ n → (n + spp - 1) / spp ≤ bound →
          s.ctx.pool.length < pages.countP (fun i => decide (kvLeaf s s.ctx e i = none) || kvShared s s.ctx e i) →
          SoftFails (.kvtent d a) s d.toNat 2)
      ∧ (e.dw 3 ≤ n → (n + spp - 1) / spp ≤ bound → (∀ i ∈ pages, kvLeaf s s.ctx e i ≠ none ∧ kvShared s s.ctx e i = false) →
          Gives (.kvtent d a) s d.toNat (BitVec.ofNat 64 n) (InDword e 3) (fun t => memNat t.mem (e.pa + 24) 8 = n))
      ∧ (e.dw 3 ≤ n → (n + spp - 1) / spp ≤ bound →
          pages.countP (fun i => decide (kvLeaf s s.ctx e i = none) || kvShared s s.ctx e i) ≤ s.ctx.pool.length →
          let fresh := pages.filter (fun i => decide (kvLeaf s s.ctx e i = none))
          let shared := pages.filter (kvShared s s.ctx e)
          ((∃ i ∈ shared, kvHeld s e i = true) → Parks (.kvtent d a) s)
          ∧ ((∀ i ∈ shared, kvHeld s e i = false) →
              (needLeaves s.ctx (fresh.map page) s = none → SoftFails (.kvtent d a) s d.toNat 2)
              ∧ ∀ s0, needLeaves s.ctx (fresh.map page) s = some s0 →
                  let after := fun m => (pages.take m).foldl (fun x i => if i ∈ fresh then mapFresh e i x
                    else if i ∈ shared then makePrivate e i (e.dw 3) x else x) s0
                  let x := putHome (e.pa + 24) (toBytes 8 n) (after pages.length)
                  (∀ m i, pages[m]? = some i → (i ∈ fresh → FreshMapped (after m) e i) ∧ (i ∈ shared → MadePrivate (after m) e i (e.dw 3)))
                  ∧ memNat x.mem (e.pa + 24) 8 = n
                  ∧ ShootsAndGives (.kvtent d a) s d.toNat (BitVec.ofNat 64 n) (shared.map page) x)))
  ∧ (a.toNat ≤ 62 → Fenced s 4 → ok → ∀ p ∈ [(Instr.kvcommit d a, 2), (.kvroll d a, 3)],
      (n < e.dw 2 → SoftFails p.1 s d.toNat 1)
      ∧ (e.dw 2 ≤ n → e.dw 3 < n → UserNoHandler s → Traps p.1 s 0x07 6 h (n % 2 ^ 52) s.w.cur.active)
      ∧ (e.dw 2 ≤ n → n ≤ e.dw 3 → Gives p.1 s d.toNat (BitVec.ofNat 64 n) (InDword e p.2) (fun t =>
          memNat t.mem (e.pa + 8 * p.2) 8 = n)))
  ∧ (d.toNat ≤ 62 → ok → ∃ t, exec (.kvlen d a) s = .next t ∧ GoesOn s t s.ix.next ∧ MemorySame s t
      ∧ t.w.sGet d.toNat = (if d = 0 then 0 else BitVec.ofNat 64 (e.dw 2)) ∧ t.w.sGet (d.toNat + 1) = BitVec.ofNat 64 (e.dw 3)
      ∧ (∀ m, m ≠ d.toNat → m ≠ d.toNat + 1 → t.w.sGet m = s.w.sGet m)
      ∧ { t.w with s := s.w.s, ah := s.w.ah, cur := s.w.cur } = s.w ∧ t.w.ah = max s.w.ah s.time)
  ∧ (a.toNat ≤ 61 → NoShoots s → Fenced s 4 → ok →
      let h2 := s.w.sGet (a.toNat + 2)
      let e2 := readEnt s s.ctx (h2.toNat % 2 ^ 20)
      let m := (n + spp - 1) / spp
      (∀ sub, handleSub s 1 h2 = some sub → UserNoHandler s →
        Traps (.kvfork d a) s 0x07 (BitVec.ofNat 64 sub) h2 (n % 2 ^ 52) s.w.cur.active)
      ∧ (handleSub s 1 h2 = none → bound < m → UserNoHandler s → Traps (.kvfork d a) s 0x07 4 h (n % 2 ^ 52) s.w.cur.active)
      ∧ (handleSub s 1 h2 = none → m ≤ bound →
          (e.dw 2 < n → UserNoHandler s → Traps (.kvfork d a) s 0x07 6 h (n % 2 ^ 52) s.w.cur.active)
          ∧ (n ≤ e.dw 2 → e2.dw 2 ≠ 0 ∨ e2.dw 3 ≠ 0 → SoftFails (.kvfork d a) s d.toNat 3)
          ∧ (n ≤ e.dw 2 → e2.dw 2 = 0 → e2.dw 3 = 0 →
              (∀ i, i < e2.dw 0 / 2 ^ 20 % 2 ^ 16 → kvLeaf s s.ctx e2 i = none) →
              (e2.dw 4 % 32 ≠ e.dw 4 % 32 ∨ h2.toNat / 2 ^ 20 % 2 ^ 16 < m → SoftFails (.kvfork d a) s d.toNat 4)
              ∧ (e2.dw 4 % 32 = e.dw 4 % 32 → m ≤ h2.toNat / 2 ^ 20 % 2 ^ 16 →
                  let copied := fun i => ∃ p, kvLeaf s s.ctx e i = some p ∧ (leafSC p.2 = 255 ∨ leafSZ p.2 ≠ 0)
                  let lost := fun i => ∃ p, kvLeaf s s.ctx e i = some p ∧ leafWrite p.2 = true ∧ leafSC p.2 ≠ 255 ∧ leafSZ p.2 = 0
                  (∀ full : List Nat, full.Nodup → (∀ i, i ∈ full ↔ i < m ∧ copied i) → s.ctx.pool.length < full.length →
                    SoftFails (.kvfork d a) s d.toNat 2)
                  ∧ (∀ full : List Nat, full.Nodup → (∀ i, i ∈ full ↔ i < m ∧ copied i) → full.length ≤ s.ctx.pool.length →
                    ((∃ i, i < m ∧ kvHeld s e i = true) → Parks (.kvfork d a) s)
                    ∧ ((∀ i, i < m → kvHeld s e i = false) →
                        let tables := needLeaves s.ctx ((List.range m).map (fun i => e2.dw 1 + i * 2 ^ 18)) s
                        (tables = none → SoftFails (.kvfork d a) s d.toNat 2)
                        ∧ ∀ s0, tables = some s0 →
                            let after := fun i => (List.range i).foldl (fun x i => forkPage e e2 n i x) s0
                            let x := putHome (e2.pa + 24) (toBytes 8 n) (putHome (e2.pa + 16) (toBytes 8 n) (after m))
                            (∀ i, i < m → PageForked (after i) e e2 n i)
                            ∧ memNat x.mem (e2.pa + 16) 8 = n ∧ memNat x.mem (e2.pa + 24) 8 = n
                            ∧ ∀ narrowed : List Nat, narrowed.Pairwise (· < ·) → (∀ i, i ∈ narrowed ↔ i < m ∧ lost i) →
                                ShootsAndGives (.kvfork d a) s d.toNat 1 (narrowed.map page) x))))))

/-- The ring of a state's entry: dword 6 (12 R257, R266). -/
def Sys2Proof.Claims.ringBit (t : State) (e : HEnt) (j : Nat) : Bool := (memNat t.mem (e.pa + 48) 8).testBit j

/-- A granule of 4 KiB of a snapshot written back (12 R268), from m to m': nothing where the state has not been written since the
snapshot (R267), or where the bytes and their poison are the same; else the snapshot's 4096 bytes stand at the state's place and no
other byte differs from m1, which is m with the copies that this write makes for other snapshots first (R267). -/
def Sys2Proof.Claims.GranuleBack (c : Ctx) (src dst : Nat) (m m' : State) : Prop :=
  ∀ a b, ctxPA m c src = some a → ctxPA m c dst = some b →
    let m1 := (saveOld (· == b / 4096) m).1
    let same := memBytes m.mem a 4096 = memBytes m.mem b 4096 ∧ ∀ g, g < 64 → m.mp.contains (a / 64 + g) = m.mp.contains (b / 64 + g)
    ((⟨c.asid, dst, src⟩ ∈ m.snaps ∨ same) → m' = m)
    ∧ (⟨c.asid, dst, src⟩ ∉ m.snaps → ¬ same →
        ∀ x, memRead m'.mem x = (if b ≤ x ∧ x < b + 4096 then memRead m1.mem (a + (x - b)) else memRead m1.mem x))

/-- EPREST after its granules below g: the ring without the entries of keys above k, then granule after granule of entry i
written back (12 R268); with it the latest WCT of those writes. -/
def Sys2Proof.Claims.restored (s : State) (e : HEnt) (i k g : Nat) : State × Nat :=
  (List.range g).foldl (fun x g =>
      let y := restoreGran s.ctx (snapVA e i g) (e.dw 1 + 4096 * g) x.1
      (y.1, max x.2 y.2))
    (dropRing e (((ringKeys s s.ctx e).filter (fun q => decide (k < q.2))).map (·.1)) s, 0)

/-- 12 R256, R258, R265 to R269: the Ephemeris store. EPSNAP records the state under a key, to be copied granule by granule at
the first write of each: the entry with that key, else the lowest that is not valid, else the least unpinned. EPREST writes the
newest snapshot not above a position back, granule after granule, and drops the later ones; EPCOMMIT drops the older ones; EPMAP
answers the address. Each completes with its own effect on every state that its conditions hold of.
Where it rests on a reading or a choice of the model: notes/assumptions 18.md, 40.md. -/
def Obligations.EphemerisStore : Prop := ∀ (s : State) (d a : BitVec 6), s.w.dawn = false → s.team.spec = false →
  let h := s.w.sGet a.toNat
  let n := (s.w.sGet (a.toNat + 1)).toNat
  let e := readEnt s s.ctx (h.toNat % 2 ^ 20)
  let ring := ringKeys s s.ctx e
  let ok := handleSub s 2 h = none
  (∀ sub, handleSub s 2 h = some sub → UserNoHandler s →
    (∀ p : BitVec 1, a.toNat ≤ 62 → Fenced s 4 → ∀ k ∈ [Instr.epsnap d a p, .eprest d a, .epcommit d a],
      Traps k s 0x07 (BitVec.ofNat 64 sub) h (n % 2 ^ 52) s.w.cur.active)
    ∧ Traps (.epmap d a) s 0x07 (BitVec.ofNat 64 sub) h 0 s.w.cur.active)
  ∧ (ok → Gives (.epmap d a) s d.toNat (BitVec.ofNat 64 (e.dw 1)) (fun _ => False) (fun _ => True))
  ∧ (∀ (p : BitVec 1) f, a.toNat ≤ 62 → Fenced s 4 → ok → ringFault s s.ctx s.w.cur.priv e .write = some f → UserNoHandler s →
      Traps (.epsnap d a p) s f.1 0 (BitVec.ofNat 64 f.2.2.1) (accInfo 0 (f.2.1 / 16) (f.2.1 % 16) 0 f.2.2.2) s.w.cur.active)
  ∧ (∀ p : BitVec 1, a.toNat ≤ 62 → Fenced s 4 → ok → ringFault s s.ctx s.w.cur.priv e .write = none → ringHeld s s.ctx e = false →
      ((∃ q ∈ ring, n < q.2) → SoftFails (.epsnap d a p) s d.toNat 3)
      ∧ ((∀ q ∈ ring, q.2 < n) → (∀ i, i < 8 → e.valid i = true ∧ e.pin i = true) → SoftFails (.epsnap d a p) s d.toNat 1)
      ∧ (∀ i, snapSlot ring e n = .ok i → i < 8
          ∧ ((∃ q ∈ ring, q.2 = n) → (i, n) ∈ ring) ∧ ((∀ q ∈ ring, q.2 ≠ n) → (∃ j, j < 8 ∧ e.valid j = false) → e.valid i = false ∧ ∀ j, j < i → e.valid j = true)
          ∧ ((∀ q ∈ ring, q.2 ≠ n) → (∀ j, j < 8 → e.valid j = true) → e.pin i = false
              ∧ ∀ q ∈ ring, e.pin q.1 = false → ringKey s s.ctx e i ≤ q.2)
          ∧ Gives (.epsnap d a p) s d.toNat 1
              (fun b => InDword e 6 b ∨ ∃ pa, ctxPA s s.ctx (keyVA e i) = some pa ∧ pa ≤ b ∧ b < pa + 8) (fun t =>
              (∀ g, g < e.bound → ⟨s.ctx.asid, e.dw 1 + 4096 * g, snapVA e i g⟩ ∈ t.snaps)
              ∧ (∀ x ∈ s.snaps, ¬ (x.asid = s.ctx.asid ∧ snapVA e i 0 ≤ x.dst ∧ x.dst < snapVA e i e.bound) → x ∈ t.snaps)
              ∧ (∀ pa, ctxPA s s.ctx (keyVA e i) = some pa → (pa + 8 ≤ e.pa + 48 ∨ e.pa + 56 ≤ pa) → memNat t.mem pa 8 = n)
              ∧ ringBit t e i = true ∧ ringBit t e (8 + i) = (p == 1)
              ∧ ∀ j, j < 16 → j ≠ i → j ≠ 8 + i → ringBit t e j = (e.dw 6).testBit j)))
  ∧ (a.toNat ≤ 62 → Fenced s 4 → ok →
      ((∀ q ∈ ring, n < q.2) → ∃ t, exec (.eprest d a) s = .next t ∧ GoesOn s t s.ix.next ∧ MemorySame s t
        ∧ t.w.sGet d.toNat = (if d = 0 then 0 else -1) ∧ ScalarsBut d.toNat s t ∧ t.w.trap = { s.w.trap with tsub := 1 })
      ∧ (∀ i k, bestKey ring n = some (i, k) → (i, k) ∈ ring ∧ k ≤ n ∧ (∀ q ∈ ring, q.2 ≤ n → q.2 ≤ k)
          ∧ (∀ f, ringFault s s.ctx s.w.cur.priv e .read = some f → UserNoHandler s →
              Traps (.eprest d a) s f.1 0 (BitVec.ofNat 64 f.2.2.1) (accInfo 0 (f.2.1 / 16) (f.2.1 % 16) 0 f.2.2.2) s.w.cur.active)
          ∧ (ringFault s s.ctx s.w.cur.priv e .read = none → ringHeld s s.ctx e = false →
              let m := fun g => (restored s e i k g).1
              let kept := fun (x : State) => ∀ j, j < 8 →
                ((∃ q ∈ ring, q.1 = j ∧ k < q.2) → ringBit x e j = false ∧ ringBit x e (8 + j) = false)
                ∧ ((∀ q ∈ ring, q.1 = j → q.2 ≤ k) →
                    ringBit x e j = (e.dw 6).testBit j ∧ ringBit x e (8 + j) = (e.dw 6).testBit (8 + j))
              (∀ b, ¬ InDword e 6 b → memRead (m 0).mem b = memRead s.mem b) ∧ kept (m 0)
              ∧ (Memory.wf s.mem = true → ∀ g, g < e.bound → GranuleBack s.ctx (snapVA e i g) (e.dw 1 + 4096 * g) (m g) (m (g + 1)))
              ∧ Gives (.eprest d a) s d.toNat (BitVec.ofNat 64 k) (fun b => memRead (m e.bound).mem b ≠ memRead s.mem b) (fun t =>
                t.mem = (m e.bound).mem ∧ t.mp = (m e.bound).mp ∧ t.snaps = (m e.bound).snaps
                ∧ t.w.wmax = max s.w.wmax (restored s e i k e.bound).2
                ∧ ((∀ g b, g < e.bound → ctxPA (m g) s.ctx (e.dw 1 + 4096 * g) = some b →
                    (e.pa + 56 ≤ b ∨ b + 4096 ≤ e.pa + 48) ∧ (saveOld (· == b / 4096) (m g)).2 = false) → kept t)))))
  ∧ (a.toNat ≤ 62 → ok →
      ((∀ q ∈ ring, n < q.2) → Gives (.epcommit d a) s d.toNat 0 (fun _ => False) (fun _ => True))
      ∧ (∀ i k, bestKey ring n = some (i, k) →
          Gives (.epcommit d a) s d.toNat (BitVec.ofNat 64 (ring.filter (fun q => decide (q.2 < k))).length) (InDword e 6) (fun t =>
            ∀ j, j < 8 → ((∃ q ∈ ring, q.1 = j ∧ q.2 < k) → ringBit t e j = false ∧ ringBit t e (8 + j) = false)
              ∧ ((∀ q ∈ ring, q.1 = j → k ≤ q.2) →
                  ringBit t e j = (e.dw 6).testBit j ∧ ringBit t e (8 + j) = (e.dw 6).testBit (8 + j)))))

end

section

open Sys2Proof Sys2Proof.Machine Sys2Proof.Claims

/-- What ATTN says against a request in this order: a trap of HANDLE with its sub-code (true), or a reason in TSUB (false). -/
def Sys2Proof.Claims.attnRefusal (s : State) (q : List W64) : Option (Bool × Nat) :=
  let dw := fun (i : Nat) => ((q[i]?).getD 0).toNat
  let h := q.headD 0
  let e := readEnt s s.ctx (h.toNat % 2 ^ 20)
  let slotb := 2 ^ (e.dw 4 % 32)
  match handleSub s 1 h with
  | some sub => some (true, sub)
  | none =>
    if 0 < dw 4 ∧ h.toNat / 2 ^ 20 % 2 ^ 16 ≤ (dw 4 - 1) / (2 ^ 18 / slotb) then some (true, 4)
    else if e.dw 3 < dw 4 then some (true, 6)
    else if attnBad q = true then some (false, 2)
    else if slotb < 4 * ((dw 2 % 2 ^ 8 + 1) * (64 * 2 ^ (dw 2 / 2 ^ 8 % 4))) then some (false, 3)
    else if dw 4 ≤ dw 3 then some (false, 4)
    else none

/-- The request with a number is a; t's is a'. -/
def Sys2Proof.Claims.RequestIn (s : State) (a : Attn) : Prop := s.attns.filter (fun x => x.id == a.id) = [a]

/-- k lets a unit read page group g of a request and write its triples, or end the request (12 R273, R276). -/
def Sys2Proof.Claims.GroupRuns (s : State) (k : Instr) (a : Attn) (g : Nat) (x : AttnGroup) (unit : Nat) : Prop :=
  let ag := a.agent 3 unit
  let rd := rangesFault s ag false .read (attnReads a x.page)
  let wr := rangesFault s ag false .write (attnWrites a g)
  let ts := (List.range a.heads).flatMap (fun h => attnTriples (agentByte s ag false) a h (a.positions x.page))
  (∀ f, rd = some f ∨ (rd = none ∧ wr = some f) → ∃ t a' f', exec k s = .next t ∧ MemorySame s t ∧ RequestIn t a' ∧ a'.id = a.id
    ∧ a'.fail = some f' ∧ f'.sub = 4 ∧ f'.detail = f.1 ∧ f'.cause.taddr = BitVec.ofNat 64 f.2)
  ∧ (∀ at_, rd = none → wr = none → attnPoison s ag a x.page = some at_ → ∃ t a' f', exec k s = .next t ∧ MemorySame s t
    ∧ RequestIn t a' ∧ a'.id = a.id ∧ a'.fail = some f' ∧ f'.sub = 5 ∧ f'.detail = 0 ∧ f'.cause.taddr = BitVec.ofNat 64 at_)
  ∧ (rd = none → wr = none → attnPoison s ag a x.page = none → rangeHeld s ag false (attnWrites a g) = false →
      ∃ t a' y, exec k s = .next t ∧ RequestIn t a' ∧ a'.id = a.id ∧ a'.fail = none ∧ a'.groups[g]? = some y ∧ y.done = true
        ∧ y.page = x.page ∧ t.mem = (agentPut ag false (((List.range ts.length).zip ts).flatMap (fun p =>
            outBytes (a.workAt p.1 g) (p.2.flatMap (toBytes 4)))) s).1.mem)

/-- ATTN is refused, parks, or posts a request (12 R270 to R274). -/
def Sys2Proof.Claims.AttnPosts : Prop :=
  (∀ (s : State) (d a : BitVec 6) (ec : BitVec 2) (w : BitVec 1), s.w.dawn = false → s.team.spec = false → s.w.count .tl < 30 →
    a.toNat % 8 = 0 →
    let q := if s.w.cur.arg = [] then (List.range 8).map (fun i => s.w.sGet (a.toNat + i)) else s.w.cur.arg
    let dw := fun (i : Nat) => ((q[i]?).getD 0).toNat
    let e := readEnt s s.ctx ((q.headD 0).toNat % 2 ^ 20)
    let spp := 2 ^ 18 / 2 ^ (e.dw 4 % 32)
    let full := 256 ≤ (s.attns.filter (fun x => x.die == s.core.num / 80)).length
    (∀ sub, attnRefusal s q = some (true, sub) → UserNoHandler s →
      Traps (.attn d a ec w) s 0x07 (BitVec.ofNat 64 sub) (q.headD 0) ((dw 4 - 1) % 2 ^ 52) s.w.cur.active)
    ∧ (∀ why, attnRefusal s q = some (false, why) → SoftFails (.attn d a ec w) s d.toNat why)
    ∧ (attnRefusal s q = none → full → (w = 0 → SoftFails (.attn d a ec w) s d.toNat 1) ∧ (w ≠ 0 → Parks (.attn d a ec w) s
        ∧ ∀ t, exec (.attn d a ec w) s = .next t → t.w.cur.arg = q))
    ∧ (attnRefusal s q = none → ¬ full → Fenced s 4 → Answers (.attn d a ec w) s d.toNat 1 (fun t => ∃ x,
        t.attns = s.attns ++ [x] ∧ x.id = s.nextId ∧ x.req = q ∧ x.vbase = e.dw 1 ∧ x.asid = s.ctx.asid ∧ x.warp = s.w.uid
        ∧ x.groups.map (·.page) = (List.range ((dw 4 - 1) / spp + 1 - dw 3 / spp)).map (· + dw 3 / spp)
        ∧ (∀ y ∈ x.groups, y.done = false ∧ y.absent = false) ∧ x.merged = false ∧ x.fail = none
        ∧ ∃ o ∈ t.w.ops, o.id = s.nextId ∧ o.cls = .tl ∧ o.done = false)))

/-- Ablas's chain holds a migration of the page of a request's group x, which is now y (12 R275). -/
def Sys2Proof.Claims.Asked (t : State) (a : Attn) (x y : AttnGroup) : Prop :=
  ∃ r ∈ t.ablas, r.seq = y.mig ∧ r.asid = a.asid ∧ r.va = a.vbase + x.page * 2 ^ 18

/-- The home stack of page va behind leaf l in HBM: the first of its partition, and the frame's number modulo the partition's
stacks (12 R270). -/
def Sys2Proof.Claims.stackOf (s : State) (c : Ctx) (l : W64) (va : Nat) : Nat :=
  let r := rangeOf s.parts c
  2 * r.quarter + (leafPA l va / 2 ^ 18 - r.quarter * 2 ^ 19) % (2 * r.count)

/-- A page group of a request is read where its page stands, or waits for the page (12 R275, R276); one whose page has come to
another stack first goes to that stack's next unit in round robin (12 R270). -/
def Sys2Proof.Claims.AttnGroups : Prop :=
  (∀ (s : State) (a : Attn) (g unit : Nat) (x : AttnGroup) (c : Ctx) (l : W64), RequestIn s a → a.groups[g]? = some x →
      unitServes s a x unit = true → a.fail = none → s.findCtx a.asid = some c → ctxWalk s c (a.vbase + x.page * 2 ^ 18) = .leaf l →
      (leafTier l = true ∨ x.unit / 16 = stackOf s c l (a.vbase + x.page * 2 ^ 18)) →
      (x.absent = false → a.cost % (4 * 2 ^ a.ec) = 0 → a.cost ≤ c.ebudLevel →
        (leafTier l = false → leafM l = false → GroupRuns s (.attnPageGroupDone a.id g unit) a g x unit)
        ∧ (leafTier l = true ∨ leafM l = true → ∃ t a' y, exec (.attnPageGroupDone a.id g unit) s = .next t ∧ RequestIn t a'
            ∧ a'.id = a.id ∧ a'.fail = none ∧ a'.groups[g]? = some y ∧ y.absent = true ∧ y.done = false
            ∧ (leafTier l = true → canMigrate s a = true → Asked t a x y)))
      ∧ (x.absent = false → a.cost % (4 * 2 ^ a.ec) = 0 → c.ebudLevel < a.cost → ∃ t a', exec (.attnPageGroupDone a.id g unit) s = .next t
          ∧ MemorySame s t ∧ RequestIn t a' ∧ a'.id = a.id ∧ 0 < a'.cost ∧ a'.groups = a.groups ∧ a'.fail = none)
      ∧ (x.absent = true → (∀ y ∈ a.groups, y.absent = true ∨ y.done = true) →
          (migrating s x = true ∨ leafM l = true → exec (.attnAbsentPageRead a.id g unit) s = .next s)
          ∧ (migrating s x = false → leafM l = false → leafTier l = true → canMigrate s a = true →
              ∃ t a' y, exec (.attnAbsentPageRead a.id g unit) s = .next t ∧ MemorySame s t ∧ RequestIn t a' ∧ a'.id = a.id
                ∧ a'.groups[g]? = some y ∧ y.done = false ∧ Asked t a x y)
          ∧ (migrating s x = false → leafM l = false → leafTier l = false ∨ canMigrate s a = false →
              GroupRuns s (.attnAbsentPageRead a.id g unit) a g x unit)))
  ∧ (∀ (s : State) (a : Attn) (g unit : Nat) (x : AttnGroup) (c : Ctx) (l : W64), RequestIn s a → a.groups[g]? = some x →
      x.done = false → a.fail = none → s.findCtx a.asid = some c → ctxWalk s c (a.vbase + x.page * 2 ^ 18) = .leaf l →
      leafTier l = false → let st := stackOf s c l (a.vbase + x.page * 2 ^ 18)
      x.unit / 16 ≠ st → tabGet 0 st s.dev.rr < 16 →
      ∃ u a' y, RequestIn u a' ∧ a'.id = a.id ∧ a'.groups[g]? = some y ∧ { y with unit := x.unit } = x
        ∧ y.unit = 16 * st + tabGet 0 st s.dev.rr ∧ tabGet 0 st u.dev.rr = (tabGet 0 st s.dev.rr + 1) % 16
        ∧ { u with attns := s.attns, dev := s.dev } = s ∧ { u.dev with rr := s.dev.rr } = s.dev
        ∧ ∀ k ∈ [Instr.attnPageGroupDone a.id g unit, .attnAbsentPageRead a.id g unit], exec k s = exec k u)

/-- A request whose groups are done is merged, then completed (12 R276, R278). -/
def Sys2Proof.Claims.AttnMerges : Prop :=
  (∀ (s : State) (a : Attn) (eng : Nat) (f : RFun), RequestIn s a → builtin s.tick 0 13 = some f → a.fail = none → a.merged = false →
      (∀ x ∈ a.groups, x.done = true) → eng < 96 → eng / 48 = a.die →
      let ag := a.agent 1 eng
      let rd := rangeFault s ag false .read a.work (12 * a.groups.length * a.rows)
      let wr := rangeFault s ag false .write a.out (12 * a.rows)
      (∀ y, rd = some y ∨ (rd = none ∧ wr = some y) → ∃ t a' f', exec (.attnMerge a.id eng) s = .next t ∧ MemorySame s t
        ∧ RequestIn t a' ∧ a'.id = a.id ∧ a'.fail = some f' ∧ f'.sub = 4 ∧ f'.detail = y.1)
      ∧ (∀ v : Nat → RVal, rd = none → wr = none → rangeHeld s ag false [(a.out, 12 * a.rows)] = false →
          (∀ r, r < a.rows → ∃ m, mergeRow f s ag a r = .ok (v r, m)) →
          ∃ t a', exec (.attnMerge a.id eng) s = .next t ∧ RequestIn t a' ∧ a'.id = a.id ∧ a'.merged = true ∧ a'.fail = none
            ∧ a'.eng = eng ∧ t.mem = (agentPut ag false ((List.range a.rows).flatMap (fun r =>
                outBytes (a.outAt r) ((v r).flatMap (fun x => toBytes 4 x.toNat)))) s).1.mem))
  ∧ (∀ (s : State) (a : Attn) (c : Ctx) (l : W64), RequestIn s a → (a.fail ≠ none ∨ a.merged = true) → a.wct < s.time →
      (∀ x ∈ s.ctx :: s.ctxs, x.watch = []) → s.snaps = [] → s.findCtx a.asid = some c → ctxWalk s c a.cw = .leaf l → leafM l = false →
      a.cw % 8 = 0 → rangeFault s (a.agent 3 a.eng) false .write a.cw 8 = none →
      ∃ t m, exec (.attnCompletion a.id) s = .next t ∧ (∀ x ∈ t.attns, x.id ≠ a.id)
        ∧ (a.fail = none → m = s.mem)
        ∧ (∀ b, (∀ j, j < 12 * a.groups.length * a.rows → ctxPA s c (a.work + j) ≠ some b) → memRead m b = memRead s.mem b)
        ∧ (∀ pa, ctxPA { s with mem := m } c a.cw = some pa →
            BitVec.ofNat 64 (memNat t.mem pa 8) = doneWord a.fail false false 0 a.cookie
            ∧ ∀ b, b < pa ∨ pa + 8 ≤ b → memRead t.mem b = memRead m b)
        ∧ ∀ v o, s.findWarp a.warp = some v → v.ops.filter (fun q => q.id == a.op) = [o] →
            ∃ v', t.findWarp a.warp = some v' ∧ ∀ q ∈ v'.ops, q.id = a.op → q.done = true)

/-- 12 R270 to R276; 09 R198: ATTN posts a request or says why not; the units serve its page groups, a page not in HBM
last; the merge writes OUT and the completion word ends it; a unit's reset fails what waits for it. Where it rests on
a reading or a choice of the model: notes/assumptions 18.md, 55.md, 56.md, 93.md. -/
def Obligations.AttentionRequests : Prop :=
  AttnPosts ∧ AttnGroups ∧ AttnMerges
  ∧ (∀ (s : State) (unit : Nat), ∃ t, exec (.attentionUnitReset unit) s = .next t ∧ { t with attns := s.attns } = s
      ∧ t.attns.length = s.attns.length ∧ ∀ (i : Nat) (a : Attn), s.attns[i]? = some a → ∃ a', t.attns[i]? = some a'
        ∧ { a' with fail := a.fail } = a
        ∧ (a.fail = none → (∃ x ∈ a.groups, x.unit = unit ∧ x.done = false) → ∃ f, a'.fail = some f ∧ f.sub = 6 ∧ f.detail = 0)
        ∧ ((∀ x ∈ a.groups, x.unit = unit → x.done = true) → a'.fail = a.fail))

end

/-! # Collectives and barrier objects (13 R278 to R295) -/

section

open Sys2Proof Sys2Proof.Machine Sys2Proof.Claims

/-- The collective with a number is c, the only one. -/
def Sys2Proof.Claims.CollIn (s : State) (c : Coll) : Prop := s.colls.filter (fun x => x.id == c.id) = [c]
/-- The collective with c's number is now one with p. -/
def Sys2Proof.Claims.CollNow (t : State) (c : Coll) (p : Coll → Prop) : Prop := ∃ c', CollIn t c' ∧ c'.id = c.id ∧ p c'
/-- c failed with a sub-code and DETAIL (13 R289). -/
def Sys2Proof.Claims.CollFailed (c : Coll) (sub detail : Nat) : Prop := ∃ f, c.fail = some f ∧ f.sub = sub ∧ f.detail = detail

/-- 13 R281 to R283: COLL joins the team's next collective, which is handed to the service once every warp of the team that has
not ended has joined it; memory changes only where that first names a process-group table. -/
def Sys2Proof.Claims.CollectiveJoins : Prop := ∀ (s : State) (d a : BitVec 4) (h : BitVec 6) (e : BitVec 2), s.w.dawn = false →
  h.toNat ≤ 62 → s.w.count .cl < 30 →
  (s.w.splits.length ≠ 1 → UserNoHandler s → s.w.upcall = none → Traps (.coll d a h e) s 0x0F 0x11 0 0 s.w.cur.active)
  ∧ (s.w.splits.length = 1 → s.team.spec = true → UserNoHandler s → Traps (.coll d a h e) s 0x12 4 0 0 s.w.cur.active)
  ∧ (s.w.splits.length = 1 → s.team.spec = false → Fenced s 4 →
      ∃ t x, exec (.coll d a h e) s = .next t ∧ GoesOn s t s.ix.next ∧ t.w.collNo = s.w.collNo + 1
        ∧ { t.w with collNo := s.w.collNo, ops := s.w.ops, issued := s.w.issued, wmax := s.w.wmax, fpx := s.w.fpx
                     fails := s.w.fails, mon := s.w.mon, cur := s.w.cur } = s.w
        ∧ ((∀ y ∈ s.team.arrivals ++ [x], ∀ at_, teamTable s ((s.findCtx s.team.asid).getD {}) s.team (ctlGroup y.ctl) = some at_ →
            ∀ g, readTable s ((s.findCtx s.team.asid).getD {}) at_ = some g →
              (at_, s.team.launch, g.ranks) ∈ ((s.findCtx s.team.asid).getD {}).bound) → MemorySame s t)
        ∧ (∃ o ∈ t.w.ops, o.id = s.nextId ∧ o.cls = .cl ∧ o.done = false)
        ∧ x.warp = s.w.uid ∧ x.k = s.w.collNo + 1 ∧ x.dd = s.w.tdGet d.toNat ∧ x.da = s.w.tdGet a.toNat ∧ x.op = s.nextId
        ∧ x.ctl = s.w.sGet h.toNat ∧ x.obj = s.w.sGet (h.toNat + 1) ∧ x.ec = e.toNat
        ∧ (x ∈ t.team.arrivals ∨ ∃ c ∈ t.colls, c.team = s.team.uid ∧ x ∈ c.arr)
        ∧ (s.team.collNo = s.w.collNo → s.w.team = s.team.uid →
            (∀ v ∈ s.ws, v.team = s.team.uid → v.dawn = false → v.ended = false → s.w.collNo + 1 ≤ v.collNo) →
            ∃ c ∈ t.colls, c.team = s.team.uid ∧ c.k = x.k ∧ c.handed = s.time ∧ x ∈ c.arr
              ∧ ∀ y ∈ s.team.arrivals, y.k = x.k → y ∈ c.arr))

/-- 13 R284 to R289, R294, R295: the service starts a collective or refuses it, computes the nodes of its tree, writes
the destination, completes at the barrier object, and ends on timeouts and aborts, at every rank of the chip that has not
completed; whether it is reduced in the switches is one answer for all ranks, and a failed reduction there starts it anew for all.
Where it rests on a reading or a choice of the model: notes/assumptions 65.md, 66.md, 67.md, 68.md, 114.md. -/
def Obligations.CollectiveService : Prop := ∀ (s : State) (c : Coll), CollIn s c → c.done = false →
  (c.started = false → c.fail = none →
    (∀ ab, inherited s c = some ab → ∃ t, exec (.collectiveStart c.id) s = .next t ∧ MemorySame s t
      ∧ CollNow t c (fun x => x.started = true ∧ CollFailed x ab.1 ab.2))
    ∧ (∀ f, inherited s c = none → judgeColl s c = some f → ∃ t, exec (.collectiveStart c.id) s = .next t ∧ MemorySame s t
      ∧ CollNow t c (fun x => x.started = true ∧ CollFailed x f.1 f.2.1))
    ∧ (inherited s c = none → judgeColl s c = none →
        let raw := if c.op = 3 ∧ c.rank ≠ ctlRoot c.ctl then [] else readRows s c.agent c.first.da
        ((2 ≤ c.op ∨ ∀ x ∈ raw, x.2 = false) → ∃ t, exec (.collectiveStart c.id) s = .next t ∧ MemorySame s t
          ∧ let sw := c.mayswitch && (peersOf s c).all (fun y => !y.started || y.mayswitch)
            CollNow t c (fun x => { x with started := c.started, sw := c.sw, raw := c.raw, nodes := c.nodes } = c ∧ x.started = true
              ∧ x.raw = raw ∧ x.sw = sw ∧ x.nodes = (if c.sw = sw then c.nodes else []))
            ∧ ∀ y ∈ peersOf s c, CollIn s y → y.done = false → CollNow t y (fun x => x.sw = sw))
        ∧ (c.op ≤ 1 → (∃ x ∈ raw, x.2 = true) → ∃ t, exec (.collectiveStart c.id) s = .next t ∧ MemorySame s t
          ∧ CollNow t c (fun x => x.started = true ∧ CollFailed x 5 0))))
  ∧ (∀ p h f, c.started = true → c.fail = none → c.wrote = false → collFun s c = some f → c.op ≤ 1 → h ∈ (List.range 13).map (2 ^ ·) →
      2 ≤ h → p % h = 0 → p < c.pos.length → h < 2 * c.pos.length →
      ∀ l1, nodeAt s c p (h / 2) = some l1 →
        (c.pos.length ≤ p + h / 2 → ∃ t, exec (.collectiveTreeNode c.id p h) s = .next t ∧ MemorySame s t
          ∧ CollNow t c (fun x => nodeAt t x p h = some l1))
        ∧ (∀ l2 r, p + h / 2 < c.pos.length → nodeAt s c (p + h / 2) (h / 2) = some l2 →
            ((elemsOf f.width l1).zip (elemsOf f.width l2)).mapM (fun x => (f.comb x.1 x.2).map (·.1)) = .ok r →
            ∃ t, exec (.collectiveTreeNode c.id p h) s = .next t ∧ MemorySame s t ∧ CollNow t c (fun x => nodeAt t x p h = some r.flatten))
        ∧ (∀ l2 y, p + h / 2 < c.pos.length → nodeAt s c (p + h / 2) (h / 2) = some l2 →
            ((elemsOf f.width l1).zip (elemsOf f.width l2)).mapM (fun x => (f.comb x.1 x.2).map (·.1)) = .error y →
            ∃ t, exec (.collectiveTreeNode c.id p h) s = .next t ∧ MemorySame s t ∧ CollNow t c (fun x => CollFailed x 8 0)))
  ∧ (∀ l, c.started = true → c.fail = none → c.wrote = false → collResult s c = some l →
      (∀ f, rangesFault s c.agent false .write (tileRanges c.first.dd) = some f →
        ∃ t, exec (.collectiveCompletion c.id) s = .next t ∧ MemorySame s t ∧ CollNow t c (fun x => CollFailed x 4 f.1))
      ∧ (rangesFault s c.agent false .write (tileRanges c.first.dd) = none → rangeHeld s c.agent false (tileRanges c.first.dd) = false →
        ∃ t, exec (.collectiveCompletion c.id) s = .next t ∧ t.mem = (agentPut c.agent false
              ((List.range (dRows c.first.dd)).flatMap (fun i => (List.range (rowLen c.first.dd)).map (fun b =>
                let x := fixRow c.first.dd b (l.getD (i * rowLen c.first.dd + b) (0, false))
                ((dBase c.first.dd + i * dStride c.first.dd + b, x.1, x.2) : Out8)))) s).1.mem
          ∧ CollNow t c (fun x => x.wrote = true ∧ x.fail = none ∧ x.done = false)))
  ∧ (c.started = true → (c.fail ≠ none ∨ c.wrote = true) → (c.wct = 0 ∨ c.wct + 20 < s.time) →
      ∃ t, exec (.collectiveCompletion c.id) s = .next t ∧ (∀ x ∈ t.colls, x.id = c.id → x.done = true)
        ∧ (∀ x ∈ c.arr, ∀ v o, s.findWarp x.warp = some v → v.ops.filter (fun q => q.id == x.op) = [o] →
            ∃ v', t.findWarp x.warp = some v' ∧ ∀ q ∈ v'.ops, q.id = x.op → q.done = true)
        ∧ (∀ pa, c.first.obj.toNat % 64 = 0 → rangeFault s c.agent false .atomic c.first.obj.toNat 64 = none →
            (∀ x ∈ s.ctx :: s.ctxs, x.watch = []) → s.snaps = [] → ctxPA s (c.agent.ctx s) c.first.obj.toNat = some pa →
            let dw := fun (i : Nat) => memNat s.mem (pa + 8 * i) 8
            let pend := (dw 1 + 2 ^ 64 - 1) % 2 ^ 64
            memNat t.mem pa 8 = (if pend = 0 then (dw 0 + 1) % 2 ^ 64 else dw 0)
            ∧ memNat t.mem (pa + 8) 8 = (if pend = 0 then dw 2 % 2 ^ 9 else pend) ∧ memNat t.mem (pa + 16) 8 = dw 2
            ∧ memNat t.mem (pa + 40) 8 = (if pend = 0 then s.time % 2 ^ 64 else dw 5)
            ∧ memNat t.mem (pa + 48) 8 = statusWord c ∧ memNat t.mem (pa + 56) 8 = (if c.bound then c.sig.toNat else dw 7)
            ∧ ∀ b, b < pa ∨ pa + 64 ≤ b → memRead t.mem b = memRead s.mem b))
  ∧ (c.fail = none → ctlTmo c.ctl ≠ 0 →
      (s.time < c.handed + ctlTmo c.ctl * 10 ^ 6 → exec (.collectiveTimeout c.id) s = .next s)
      ∧ (c.handed + ctlTmo c.ctl * 10 ^ 6 ≤ s.time → ∃ t, exec (.collectiveTimeout c.id) s = .next t ∧ MemorySame s t
          ∧ CollNow t c (fun x => x.started = true ∧ CollFailed x 9 0)
          ∧ ∀ x ∈ peersOf s c, CollIn s x → x.done = false → x.fail = none → CollNow t x (fun y => CollFailed y 9 2)))
  ∧ (∀ sub detail, sub < 16 → detail < 16 → c.fail = none → ∃ t, exec (.collectiveAbort c.id sub detail) s = .next t
      ∧ MemorySame s t ∧ CollNow t c (fun x => x.started = true ∧ CollFailed x sub detail))
  ∧ (c.started = true → c.fail = none → c.wrote = false → c.sw = true → ∃ t, exec (.switchReductionFailure c.id) s = .next t
      ∧ MemorySame s t ∧ CollNow t c (fun x => { x with sw := c.sw, nodes := c.nodes } = c ∧ x.sw = false ∧ x.nodes = [])
      ∧ ∀ y ∈ peersOf s c, CollIn s y → y.done = false → CollNow t y (fun x => x.sw = false ∧ (y.sw = true → x.nodes = [])))

/-- A barrier object at va that the split may use: aligned to 64 bytes, translated to pa, not poisoned. -/
def Sys2Proof.Claims.ObjectAt (s : State) (acc : Acc) (va : W64) (pa : Nat) : Prop :=
  ∃ l, Reach1 s acc 64 va l pa ∧ loadMayRun s s.w.uid s.nextId [(s.dev.chipId, pa, 64)] = true ∧ l.getLsbD 8 = false
    ∧ granPoisoned s.mp pa 64 = false

/-- k writes the object at pa: its dwords become dws, no other byte changes; s[d] ← x. -/
def Sys2Proof.Claims.PutsObject (k : Instr) (s : State) (d : Nat) (x : W64) (pa : Nat) (dws : List Nat) : Prop :=
  ∃ t, exec k s = .next t ∧ GoesOn s t s.ix.next ∧ t.w.sGet d = (if d = 0 then 0 else x) ∧ ScalarsBut d s t
    ∧ { t.w with s := s.w.s, mon := s.w.mon, wmax := s.w.wmax, cur := s.w.cur } = s.w ∧ s.w.wmax ≤ t.w.wmax
    ∧ (∀ i, i < 8 → memNat t.mem (pa + 8 * i) 8 = dws.getD i 0) ∧ ∀ b, b < pa ∨ pa + 64 ≤ b → memRead t.mem b = memRead s.mem b

/-- 13 R290 to R292: ABINIT sets an object up, ABARR arrives at it, ABWAIT waits until GEN has passed a value, ABTEST asks,
ABSIG reads SIG; a poisoned object raises POISON. -/
def Sys2Proof.Claims.BarrierObjects : Prop := ∀ (s : State) (d a : BitVec 6) (n : BitVec 9), s.w.dawn = false →
  let va := s.w.sGet a.toNat
  let lim := (s.w.sGet (a.toNat + 1)).toNat
  (n.toNat = 0 ∨ 256 < n.toNat → UserNoHandler s → RaisesIllegal (.abinit d a n) s 3)
  ∧ (∀ pa, s.team.spec = false → Fenced s 4 → s.ctx.watch = [] → s.snaps = [] →
      (1 ≤ n.toNat → n.toNat ≤ 256 → ObjectAt s .write va pa →
        PutsObject (.abinit d a n) s d.toNat 1 pa [0, n.toNat, n.toNat, 0, 0, 0, 0, 0])
      ∧ (ObjectAt s .atomic va pa →
          let dw := fun (i : Nat) => memNat s.mem (pa + 8 * i) 8
          (dw 1 = 1 → PutsObject (.abarr d a) s d.toNat (BitVec.ofNat 64 (dw 0)) pa
            [(dw 0 + 1) % 2 ^ 64, dw 2 % 2 ^ 9, dw 2, dw 3, dw 4, s.time % 2 ^ 64, dw 6, dw 7])
          ∧ (dw 1 ≠ 1 → PutsObject (.abarr d a) s d.toNat (BitVec.ofNat 64 (dw 0)) pa
            [dw 0, (dw 1 + 2 ^ 64 - 1) % 2 ^ 64, dw 2, dw 3, dw 4, dw 5, dw 6, dw 7])))
  ∧ (∀ pa, ObjectAt s .read va pa →
      let gen := memNat s.mem pa 8
      (a.toNat ≤ 62 → lim < gen → AcquiredResult (.abwait d a) s d.toNat gen ∧ AcquiredResult (.abtest d a) s d.toNat 1)
      ∧ (a.toNat ≤ 62 → gen ≤ lim → Parks (.abwait d a) s ∧ ScalarResult (.abtest d a) s d.toNat 0)
      ∧ AcquiredResult (.absig d a) s d.toNat (memNat s.mem (pa + 56) 8))
  ∧ (∀ l pa, Reach1 s .read 64 va l pa → loadMayRun s s.w.uid s.nextId [(s.dev.chipId, pa, 64)] = true → granPoisoned s.mp pa 64 = true →
      a.toNat ≤ 62 → UserNoHandler s → ∀ k ∈ [Instr.abwait d a, .abtest d a, .absig d a], Traps k s 0x06 6 va 0 s.w.cur.active)

/-- 13 R281 to R283, R290 to R292: COLL and the barrier instructions (CollectiveJoins, BarrierObjects). Where it rests
on a reading or a choice of the model: notes/assumptions 18.md, 69.md, 88.md, 113.md. -/
def Obligations.CollectivesAndBarriers : Prop := CollectiveJoins ∧ BarrierObjects

end

/-! # The device and Ablas's commands (17 R364 to R378; 16 R354, R355; 09 R212; 03 R46, R49, R50) -/

section

open Sys2Proof Sys2Proof.Machine Sys2Proof.Claims

/-- Ablas takes a command (17 R367): one stands in the ring, the one before has been answered, and the device is not off. -/
def Sys2Proof.Claims.AblasReady (s : State) : Prop :=
  s.dev.admHead ≠ s.dev.admTail ∧ s.dev.busy = none ∧ s.dev.merge = none ∧ s.dev.pwr ≠ 4

/-- The response r is the newest, and stands in the host's ring at its slot: STATUS, TAG and DETAIL, then seven results (17 R367);
Ablas goes on to the next command. -/
def Sys2Proof.Claims.Responds (s t : State) (r : Resp) : Prop :=
  t.dev.resps = r :: s.dev.resps ∧ t.dev.admHead = (s.dev.admHead + 1) % 64
  ∧ let slot := s.dev.admBase.toNat + 4096 + 64 * s.dev.admHead
    memNat t.dev.hostMem slot 8 = r.status % 2 ^ 8 + r.tag % 2 ^ 16 * 2 ^ 16 + r.detail % 2 ^ 32 * 2 ^ 32
    ∧ ∀ i, i < 7 → memNat t.dev.hostMem (slot + 8 + 8 * i) 8 = ((r.res[i]?).getD 0).toNat

/-- k answers with a status and results, and changes nothing else. -/
def Sys2Proof.Claims.Replies (k : Instr) (s : State) (opc tag status : Nat) (res : List W64) : Prop :=
  ∃ t, exec k s = .next t ∧ Responds s t { opc := opc, tag := tag, status := status, res := res } ∧ { t with dev := s.dev } = s
    ∧ { t.dev with resps := s.dev.resps, admHead := s.dev.admHead, hostMem := s.dev.hostMem } = s.dev

/-- k is done, and answered OK. -/
def Sys2Proof.Claims.Does (k : Instr) (s : State) (opc tag : Nat) (res : List W64) (more : State → Prop) : Prop :=
  ∃ t, exec k s = .next t ∧ Responds s t { opc := opc, tag := tag, status := 0, res := res } ∧ more t

/-- k is done, and its OK waits for the shoot-downs it started (03 R46). -/
def Sys2Proof.Claims.DoesThenShoots (k : Instr) (s : State) (opc tag : Nat) (res : List W64) (more : State → Prop) : Prop :=
  ∃ t b, exec k s = .next t ∧ t.dev.busy = some b ∧ b.resp = { opc := opc, tag := tag, status := 0, res := res } ∧ b.shoots ≠ []
    ∧ (∀ i ∈ b.shoots, ∃ x ∈ t.shoots, x.id = i ∧ x.done = false) ∧ t.dev.resps = s.dev.resps ∧ more t

/-- The quarters of a partition belong to no other (17 R370). -/
def Sys2Proof.Claims.QuartersFree (s : State) (p : PartSpec) : Prop :=
  ∀ x ∈ s.parts, ∀ q, x.range.quarter ≤ q → q < x.range.quarter + x.range.count → ¬ (p.quarter ≤ q ∧ q < p.quarter + p.count)

/-- 17 R367 to R371: commands are taken one at a time, and but for IDENT, STATUS and BOOT_CONTINUE only once the
device runs; what the commands about partitions and contexts do. Where it rests on a reading or a choice of the model:
notes/assumptions 49.md, 79.md, 80.md, 83.md, 84.md, 103.md, 118.md, 127.md. -/
def Obligations.AblasCommands : Prop := ∀ (s : State) (tag : Nat),
  let cmds := fun (p : PartSpec) (p1 p2 w asid va core : Nat) (c : CtxSpec) (m : MapSpec) (q : QueueSpec) (f : BitVec 4)
      (x : W64) (l : List Nat) (sig : List Byte) =>
    [(Instr.partCreate tag p, 0x10), (.partMerge tag p1 p2 w, 0x11), (.partSplit tag p1, 0x12), (.ctxCreate tag c, 0x20),
      (.ctxDestroy tag asid, 0x21), (.map tag asid va m, 0x22), (.unmap tag asid va, 0x23), (.queueBind tag q, 0x24),
      (.resetCore tag core f, 0x30), (.resetOrrery tag core f, 0x31), (.attest tag x asid va, 0x40), (.telem tag va, 0x41),
      (.powerSet tag p1 p2 w, 0x42), (.debugUnlock tag p1 x l sig, 0x43), (.dedupScan tag p1, 0x50), (.scrub tag p1, 0x51)]
  (∀ p p1 p2 w asid va core c m q f x l sig, ∀ k ∈ cmds p p1 p2 w asid va core c m q f x l sig,
    (¬ AblasReady s → exec k.1 s = .next s) ∧ (AblasReady s → s.dev.boot ≠ 2 → Replies k.1 s k.2 tag 1 []))
  ∧ (¬ AblasReady s → exec (.ident tag) s = .next s ∧ (∀ first, exec (.status ⟨tag, first⟩) s = .next s)
      ∧ ∀ ps key sig lock, exec (.bootContinue tag ps key sig lock) s = .next s)
  ∧ (AblasReady s →
    Replies (.ident tag) s 0x01 tag 0 (idReg :: (List.range 6).map (fun i => fuse (i + 1)))
    ∧ (∀ first, ∃ res, Replies (.status ⟨tag, first⟩) s 0x02 tag 0 res ∧ res[2]? = some (BitVec.ofNat 64 s.errLog.length) ∧ res.head? = some (BitVec.ofNat 64 (s.dev.boot % 2 ^ 3 + s.dev.sec % 4 * 2 ^ 4
        + s.dbgs % 4 * 2 ^ 8 + s.dev.pwr % 2 ^ 3 * 2 ^ 12 + s.dev.trip.toNat * 2 ^ 16)))
    ∧ (∀ ps key sig lock,
        (s.dev.boot = 0 ∨ s.dev.boot = 3 → Replies (.bootContinue tag ps key sig lock) s 0x03 tag 1 [])
        ∧ (s.dev.boot = 2 → Replies (.bootContinue tag ps key sig lock) s 0x03 tag 3 [])
        ∧ (s.dev.boot = 1 → key ≠ [] →
            (s.dev.sec ≠ 0 ∧ s.dev.ownerKey ≠ key) ∨ Config.verifies Config.vendorKey key sig = false →
            Replies (.bootContinue tag ps key sig lock) s 0x03 tag 4 [])
        ∧ (s.dev.boot = 1 →
            (key = [] ∨ ((s.dev.sec = 0 ∨ s.dev.ownerKey = key) ∧ Config.verifies Config.vendorKey key sig = true)) →
            (addParts [] ps = none → Replies (.bootContinue tag ps key sig lock) s 0x03 tag 3 [])
            ∧ (∀ l, addParts [] ps = some l → Does (.bootContinue tag ps key sig lock) s 0x03 tag [] (fun t => t.dev.boot = 2
                ∧ t.parts = l ∧ t.dev.sec = (if key = [] then s.dev.sec else max (if lock then 2 else 1) s.dev.sec)
                ∧ t.dev.ownerKey = (if key = [] then s.dev.ownerKey else key) ∧ MemorySame s t))))
    ∧ (s.dev.boot = 2 →
      (∀ p, (partSpecOk p = false → Replies (.partCreate tag p) s 0x10 tag 3 [])
        ∧ (partSpecOk p = true → ¬ QuartersFree s p → Replies (.partCreate tag p) s 0x10 tag 5 [])
        ∧ (partSpecOk p = true → QuartersFree s p → Does (.partCreate tag p) s 0x10 tag [BitVec.ofNat 64 p.quarter] (fun t =>
            t.parts = s.parts ++ [{ range := { quarter := p.quarter, count := p.count }, split := p.split, service := p.service.getD 2
                                    delay := p.delay }] ∧ MemorySame s t)))
      ∧ (∀ p1 p2 w, (mergeable s p1 p2 = false → Replies (.partMerge tag p1 p2 w) s 0x11 tag 3 [])
        ∧ (mergeable s p1 p2 = true → ∃ t, exec (.partMerge tag p1 p2 w) s = .next t ∧ MemorySame s t ∧ t.dev.resps = s.dev.resps
            ∧ t.dev.merge = some { tag := tag, p1 := p1, p2 := p2, deadline := s.time + w }
            ∧ ∀ x ∈ t.parts, (x.range.quarter = p1 ∨ x.range.quarter = p2) → x.quiesced = true))
      ∧ (∀ p, s.partOf p = none → Replies (.partSplit tag p) s 0x12 tag 3 [])
      ∧ (∀ p x, s.partOf p = some x →
          (x.range.count < 2 ∨ (∃ c ∈ s.liveCtxs, c.part = p) → Replies (.partSplit tag p) s 0x12 tag 3 [])
          ∧ (2 ≤ x.range.count → (∀ c ∈ s.liveCtxs, c.part ≠ p) → Does (.partSplit tag p) s 0x12 tag [] (fun t =>
              (∀ q ∈ [p, p + x.range.count / 2], { x with range := { quarter := q, count := x.range.count / 2 } } ∈ t.parts)
              ∧ (∀ y ∈ s.parts, y.range.quarter ≠ p → y ∈ t.parts) ∧ MemorySame s t)))
      ∧ (∀ x, s.partOf x.part = none → Replies (.ctxCreate tag x) s 0x20 tag 3 [])
      ∧ (∀ x p, s.partOf x.part = some p →
          let bad := (s.findCtx x.asid).isSome = true ∨ x.root % 2 ^ 16 ≠ 0 ∨ 2 ^ 39 ≤ x.root ∨ rootTaken s x.root = true
            ∨ chainSpecOk p x.chain = false ∨ x.table % 64 ≠ 0 ∨ 2 ^ 57 < x.table + 4096 ∨ 2 ^ 12 ≤ x.tenant ∨ 2 ^ 20 < x.htSize
            ∨ ∃ a ∈ x.savePool, a % 2 ^ 16 ≠ 0
          let made := (withTable x s).bind (bindChain x.asid 0 x.chain none)
          (bad → Replies (.ctxCreate tag x) s 0x20 tag 3 [])
          ∧ (¬ bad → made = none → Replies (.ctxCreate tag x) s 0x20 tag 5 [])
          ∧ (¬ bad → made ≠ none → Does (.ctxCreate tag x) s 0x20 tag [] (fun t => ∃ c ch,
                t.findCtx x.asid = some c ∧ c.tenant = x.tenant ∧ c.part = x.part ∧ c.root = x.root ∧ c.ktvec = x.ktvec
                ∧ c.groups = x.groups ∧ c.htBase = x.htBase ∧ c.htSize = x.htSize ∧ c.gdBase = x.gdBase ∧ c.ebudRate = x.rate
                ∧ c.savePool = x.savePool ∧ c.pool = [] ∧ c.htabs = [] ∧ c.routines = [] ∧ c.dbgctl = 0 ∧ c.ctBase = x.table
                ∧ x.root / 2 ^ 18 ∈ t.dev.used
                ∧ c.chain 0 = some ch ∧ ch.engine = x.chain.engine ∧ ch.nseg = x.chain.segs.length ∧ ch.head = 0 ∧ ch.tail = 0
                ∧ ch.nextSeq = 2 ∧ ch.recs = [] ∧ ch.host = none ∧ ch.cwAddr = BitVec.ofNat 64 x.chain.cwAddr)))
      ∧ (∀ asid, s.findCtx asid = none → Replies (.ctxDestroy tag asid) s 0x21 tag 3 [])
      ∧ (∀ asid c, (s.ctx :: s.ctxs).filter (fun c => c.live && c.asid == asid) = [c] → (s.allTeams.map (·.uid)).Nodup →
          DoesThenShoots (.ctxDestroy tag asid) s 0x21 tag [] (fun t => t.findCtx asid = none
            ∧ (∀ m ∈ t.allTeams, m.asid = asid → m.retired = true) ∧ (∀ a ∈ t.attns, a.asid ≠ asid)
            ∧ (∀ l ∈ t.launches, l.asid = asid → l.complete = true)
            ∧ (∀ r ∈ t.dev.opened, ∀ h ∈ s.dev.hostqs, h.asid = asid → h.num ≠ r.1) ∧ (∀ h ∈ t.dev.hostqs, h.asid ≠ asid)
            ∧ (∀ p ∈ c.chains, ∀ r ∈ p.2.recs, r.phase ≠ .done → ∃ x ∈ t.errLog, x.1 = 0x0D)
            ∧ ∀ f ∈ c.pool, f ∈ keptFrames t ∨ ∃ k ∈ t.shoots, k.done = false ∧ f ∈ k.frees))))

/-- 17 R365, R368, R370, R374, R375, R377, R378; 03 R38, R39, R46, R49, R50; 09 R217: what the commands about pages,
queues, resets, debugging, power and memory's upkeep do. Where it rests on a reading or a choice of the model:
notes/assumptions 36.md, 49.md, 82.md, 87.md, 90.md, 103.md, 117.md, 126.md. -/
def Obligations.AblasUpkeep : Prop := ∀ (s : State) (tag : Nat), AblasReady s → s.dev.boot = 2 →
  (∀ asid va m, s.findCtx asid = none → Replies (.map tag asid va m) s 0x22 tag 3 [] ∧ Replies (.unmap tag asid va) s 0x23 tag 3 [])
  ∧ (∀ asid va m c, s.findCtx asid = some c →
      (m.pool = true → (freeFrame s (rangeOf s.parts c) 0 = none → Replies (.map tag asid va m) s 0x22 tag 5 [])
        ∧ ∀ f, freeFrame s (rangeOf s.parts c) 0 = some f → Does (.map tag asid va m) s 0x22 tag [] (fun t => f ∈ t.dev.used
            ∧ (∃ c', t.findCtx asid = some c' ∧ c'.pool = c.pool ++ [f]) ∧ ∀ b, b / 2 ^ 18 ≠ f → memRead t.mem b = memRead s.mem b))
      ∧ (m.pool = false → m.size = 0 → m.lc ≤ 2 → m.tier ≤ 1 → va < 2 ^ 57 → va % 2 ^ 18 = 0 →
          (m.perm.getLsbD 3 = true → onTable c va 0 = false) →
          (∀ why lv at_ f, ctxWalk s c va = .fail why lv → leafAddr s c va = some at_ → memNat s.mem at_ 8 % 2 = 0 →
            freeRun s (rangeOf s.parts c) m.tier 1 = some f → Does (.map tag asid va m) s 0x22 tag [] (fun t => f ∈ t.dev.used ∧ BitVec.ofNat 64 (memNat t.mem at_ 8) = mapLeaf m f 1
              ∧ ∀ b, b / 2 ^ 18 ≠ f → (b < at_ ∨ at_ + 8 ≤ b) → memRead t.mem b = memRead s.mem b))
          ∧ (∀ why lv at_, ctxWalk s c va = .fail why lv → leafAddr s c va = some at_ → memNat s.mem at_ 8 % 2 = 0 →
              freeRun s (rangeOf s.parts c) m.tier 1 = none →
              Replies (.map tag asid va m) s 0x22 tag 5 [])
          ∧ (∀ l at_, ctxWalk s c va = .leaf l → leafAddr s c va = some at_ → leafSZ l = 0 → leafTier l = (m.tier == 1) → leafM l = false →
              let n := mapLeaf m (leafFrame l) (leafSC l)
              (2 ≤ leafSC l → leafWrite n = true → Replies (.map tag asid va m) s 0x22 tag 3 [])
              ∧ ((leafSC l < 2 ∨ leafWrite n = false) → narrows l n = false → Does (.map tag asid va m) s 0x22 tag [] (fun t =>
                  BitVec.ofNat 64 (memNat t.mem at_ 8) = n ∧ ∀ b, (b < at_ ∨ at_ + 8 ≤ b) → memRead t.mem b = memRead s.mem b))
              ∧ ((leafSC l < 2 ∨ leafWrite n = false) → narrows l n = true → DoesThenShoots (.map tag asid va m) s 0x22 tag [] (fun t =>
                  BitVec.ofNat 64 (memNat t.mem at_ 8) = n ∧ ∀ b, (b < at_ ∨ at_ + 8 ≤ b) → memRead t.mem b = memRead s.mem b))))
      ∧ (∀ l at_, ctxWalk s c va = .leaf l → leafAddr s c va = some at_ →
          (leafM l = true → Replies (.unmap tag asid va) s 0x23 tag 2 [])
          ∧ (leafM l = false → leafSZ l = 0 → DoesThenShoots (.unmap tag asid va) s 0x23 tag [] (fun t => memNat t.mem at_ 8 = 0
              ∧ (leafSC l ≤ 1 → ∃ k ∈ t.shoots, k.done = false ∧ leafFrame l ∈ k.frees)))))
  ∧ (∀ x c p, s.findCtx x.asid = some c → s.partOf c.part = some p → x.vec < 160 →
      (∀ q, x.host = some q → q < 128 ∧ ∀ h ∈ s.dev.hostqs, h.num ≠ q) →
      (x.launch = true → x.num < 32 → x.size ≠ 0 → x.ring % 128 = 0 → (s.queue c.part x.num).packets = [] →
        Does (.queueBind tag x) s 0x24 tag [] (fun t =>
          (t.queue c.part x.num).asid = x.asid ∧ (t.queue c.part x.num).ring.toNat = x.ring % 2 ^ 64 ∧ (t.queue c.part x.num).size = x.size
          ∧ (t.queue c.part x.num).tail = 0 ∧ (t.queue c.part x.num).nextSeq = 2 ∧ (t.queue c.part x.num).host = x.host
          ∧ ∀ q, x.host = some q → ∃ h ∈ t.dev.hostqs, h.num = q ∧ h.asid = x.asid ∧ h.launch = true ∧ h.slot = x.num ∧ h.vec = x.vec
            ∧ t.dev.msix = x.vec :: s.dev.msix))
      ∧ (x.launch = false → x.num < 64 → chainSpecOk p x.chain = true → (∀ ch, c.chain x.num = some ch → ch.recs = []) →
        (chainPages c x.chain s = none → Replies (.queueBind tag x) s 0x24 tag 5 [])
        ∧ (chainPages c x.chain s ≠ none → Does (.queueBind tag x) s 0x24 tag [] (fun t => ∃ c' ch, t.findCtx x.asid = some c' ∧ c'.chain x.num = some ch
          ∧ ch.engine = x.chain.engine ∧ ch.host = x.host ∧ ch.nseg = x.chain.segs.length ∧ ch.head = 0 ∧ ch.tail = 0 ∧ ch.nextSeq = 2
          ∧ ch.recs = [])))
      ∧ (x.launch = true → x.ring % 128 ≠ 0 → Replies (.queueBind tag x) s 0x24 tag 3 []))
  ∧ (∀ core f, 160 ≤ core → Replies (.resetCore tag core f) s 0x30 tag 3 [] ∧ Replies (.resetOrrery tag core f) s 0x31 tag 3 [])
  ∧ (∀ core f, core < 160 → ((s.getCore core).walks.map (·.slot)).Nodup → ∀ k ∈ [(Instr.resetCore tag core f, 0x30), (.resetOrrery tag core f, 0x31)],
      Does k.1 s k.2 tag [] (fun t => MemorySame s t ∧ (∀ w ∈ (t.getCore core).walks, w.ended ≠ none)
        ∧ (∀ o ∈ (t.getCore core).outq, o.done = true)
        ∧ (∀ i : Nat, i ∈ (t.orr core).fenced ↔ i ∈ (s.orr core).fenced ∧ f.getLsbD i = true)
        ∧ (k.2 = 0x30 → ∀ m ∈ s.allTeams, m.saved = none → m.core = core → m.retired = false →
            ∀ v ∈ t.allWarps, v.team = m.uid → v.dawn = false → v.ended = true)))
  ∧ (∀ nonce asid va, ∃ res, Does (.attest tag nonce asid va) s 0x40 tag res (fun t => t.dev.nonce = some nonce ∧ MemorySame s t)
      ∧ res.length = 4 ∧ res = (List.range 4).map (fun i =>
          BitVec.ofNat 64 (ofBytes (((shake256 (attestReport s nonce asid)).drop (8 * i)).take 8))))
  ∧ (∀ va, ∃ res, Does (.telem tag va) s 0x41 tag res (fun t => { t with dev := s.dev } = s)
      ∧ res[0]? = some (heatWord s)
      ∧ res[2]? = some (BitVec.ofNat 64 (s.dev.orru % 2 ^ 32 * 2 ^ 32 + s.dev.orrc % 2 ^ 32))
      ∧ res[3]? = some (BitVec.ofNat 64 (s.uncorrected % 2 ^ 32 * 2 ^ 32 + s.corrected % 2 ^ 32)))
  ∧ (∀ st cap heat, (4 < st ∨ 2100 < cap → Replies (.powerSet tag st cap heat) s 0x42 tag 3 [])
      ∧ (cap ≤ 2100 →
          (st = 0 → ∃ u, Responds s u { opc := 0x42, tag := tag, status := 0, res := [] } ∧ { u with dev := s.dev } = s
            ∧ u.dev.cap = cap ∧ u.dev.heatCap = heat ∧ u.dev.held = s.dev.held ∧ exec (.powerSet tag st cap heat) s =
              .next (s.dev.held.foldl (fun v d => doorbell d.1 d.2.1 d.2.2 v) { u with dev := { u.dev with pwr := 0, held := [] } }))
          ∧ (st = 1 ∨ st = 2 → Does (.powerSet tag st cap heat) s 0x42 tag [] (fun t => t.dev.pwr = st ∧ t.dev.cap = cap
            ∧ t.dev.heatCap = heat ∧ t.dev.held = s.dev.held ∧ { t with dev := s.dev } = s))
          ∧ (st = 3 → s.dev.pwr ≠ 3 → Does (.powerSet tag st cap heat) s 0x42 tag [] (fun t => t.dev.pwr = 3 ∧ t.dbgs ≠ 2 ∧ MemorySame s t
            ∧ ∀ c, c < 160 → residentTeams s c ≠ [] → (t.orr c).switch ≠ 0))
          ∧ (st = 4 → ∃ t, exec (.powerSet tag st cap heat) s = .next t ∧ t.dev.pwr = 4 ∧ t.dbgs = 0 ∧ t.mem = [] ∧ t.liveCtxs = []
            ∧ t.dev.sec = s.dev.sec ∧ t.dev.ownerKey = s.dev.ownerKey ∧ t.allWarps.all (·.ended) = true)))
  ∧ (∀ target nonce tenants sig,
      (2 < target → Replies (.debugUnlock tag target nonce tenants sig) s 0x43 tag 3 [])
      ∧ (target ≤ 2 → target < s.dbgs ∨ target = 0 → Does (.debugUnlock tag target nonce tenants sig) s 0x43 tag [] (fun t =>
          t.dbgs = target ∧ MemorySame s t ∧ t.dev.tenants = []
            ∧ (target = 0 → t.ctx.dbgctl = s.ctx.dbgctl &&& ~~~7#64) ∧ (target = 1 → t.ctx.dbgctl = s.ctx.dbgctl &&& ~~~6#64)))
      ∧ (target ≤ 2 → s.dbgs ≤ target → target ≠ 0 →
          let denied := s.dev.nonce ≠ some nonce ∨ (needsToken s.dev.sec target = true ∧ ((target = 2 ∧ tenants = [])
            ∨ Config.verifies s.dev.ownerKey (tokenBytes target nonce tenants) sig = false))
          (denied → Replies (.debugUnlock tag target nonce tenants sig) s 0x43 tag 4 [])
          ∧ (¬ denied → Does (.debugUnlock tag target nonce tenants sig) s 0x43 tag [] (fun t => t.dbgs = target ∧ MemorySame s t
              ∧ t.dev.tenants = tenants ∧ (target = 1 → t.ctx.dbgctl = s.ctx.dbgctl &&& ~~~6#64)))))
  ∧ (∀ part, s.partOf part = none → Replies (.dedupScan tag part) s 0x50 tag 3 [] ∧ Replies (.scrub tag part) s 0x51 tag 3 [])
  ∧ (∀ part p, s.partOf part = some p →
      ((∃ k ∈ s.shoots, k.done = false) → exec (.dedupScan tag part) s = .next s)
      ∧ ((∀ k ∈ s.shoots, k.done = true) → (mappedFrames s part).filter (dedupCandidate s) = [] →
          Replies (.dedupScan tag part) s 0x50 tag 0 [0, 0])
      ∧ (∀ x v, (∀ k ∈ s.shoots, k.done = true) → (mappedFrames s part).filter (dedupCandidate s) = [x, v] →
          (frameTier x = frameTier v → frameCells s x = frameCells s v → frameBytes s x = frameBytes s v →
            frameSC s x + frameSC s v ≤ 254 →
            DoesThenShoots (.dedupScan tag part) s 0x50 tag [1, 0] (fun t => ∃ k ∈ t.shoots, k.done = false ∧ v ∈ k.frees))
          ∧ (frameTier x ≠ frameTier v → Replies (.dedupScan tag part) s 0x50 tag 0 [0, 0])
          ∧ (frameTier x = frameTier v → frameCells s x ≠ frameCells s v → Replies (.dedupScan tag part) s 0x50 tag 0
            [0, if shake256 (frameBytes s x) = shake256 (frameBytes s v) then 1 else 0]))
      ∧ ∃ n, Does (.scrub tag part) s 0x51 tag [BitVec.ofNat 64 n] (fun t =>
          n = (t.mp.filter (fun g => inPart p.range (g / 2 ^ 12))).length ∧ ∀ f ∈ t.dev.used, f ∈ s.dev.used))

/-- The doorbell of queue q is dropped, and logged (17 R365); nothing of a queue moves. -/
def Sys2Proof.Claims.Dropped (s t : State) (q : Nat) : Prop :=
  t.dev.dropped = s.dev.dropped + 1 ∧ t.errLog = (0xFD, BitVec.ofNat 64 q, 0) :: s.errLog ∧ t.queues = s.queues
  ∧ t.dev.pwr = (if s.dev.pwr = 2 then 0 else s.dev.pwr)

/-- A merge is answered BUSY (17 R371): its quiesce is lifted, and nothing else has changed. -/
def Sys2Proof.Claims.MergeBusy (k : Instr) (s : State) (m : Merge) : Prop :=
  ∃ t, exec k s = .next t ∧ MemorySame s t ∧ Responds s t { opc := 0x11, tag := m.tag, status := 2, res := [] } ∧ t.dev.merge = none
    ∧ t.parts.map (·.range) = s.parts.map (·.range)
    ∧ ∀ p ∈ t.parts, p.range.quarter = m.p1 ∨ p.range.quarter = m.p2 → p.quiesced = false

/-- 09 R212; 16 R354, R355, R360; 17 R365, R366, R369, R371, R373, R376, R378: the device's own steps: host writes and
doorbells, reset and boot, the end of a merge, power and heat, budgets, and what the debugger lets go on. Where it
rests on a reading or a choice of the model: notes/assumptions 48.md, 81.md, 84.md, 85.md, 89.md,
107.md, 108.md, 119.md, 133.md. -/
def Obligations.DeviceSteps : Prop := ∀ (s : State),
  (∀ core slot t, (List.range 4).findSome? (fun p => focus core slot p s) = some t → ∀ c cs, t.w.watchEvents = c :: cs →
    t.w.cur.handler = false → t.w.others.any Split.handler = false → t.w.dawn = false → t.w.cur.priv = false → t.ctx.ktvec ≠ 0 →
    t.ctx.dbgctl.getLsbD 0 = false → c.code = 0x10 →
    ∃ u, exec (.watchEventDelivery core slot) s = .next u ∧ MemorySame s u ∧ u.w.watchEvents = cs
      ∧ u.w.trap.tcause = BitVec.ofNat 64 (2 ^ 15 + 2 ^ 12 + t.w.cur.num * 2 ^ 9 + 0x10) ∧ u.w.trap.tpc = t.w.cur.pc
      ∧ u.w.trap.taddr = c.taddr ∧ u.w.trap.tsub = BitVec.ofNat 64 c.tsub
      ∧ u.w.cur.pc = t.ctx.ktvec &&& 0x01FFFFFFFFFFFFFE#64 ∧ u.w.cur.priv = true ∧ u.w.cur.supH = true)
  ∧ (∀ val recs, exec (.registerWrite 0x10 ⟨val, recs⟩) s =
          .next { s with dev := { s.dev with admBase := BitVec.ofNat 64 (val.toNat / 2 ^ 12 * 2 ^ 12) } }
      ∧ (∃ t, exec (.registerWrite 0x18 ⟨val, recs⟩) s = .next t ∧ t.dev.admTail = val.toNat % 64
          ∧ { t.dev with admTail := s.dev.admTail, unknown := s.dev.unknown } = s.dev ∧ { t with dev := s.dev } = s
          ∧ ∀ p, p ∈ t.dev.unknown ↔ p ∈ s.dev.unknown ∨ ∃ i x, recs[i]? = some x ∧ p = ((s.dev.admTail + i) % 64, x)
              ∧ (x.toNat % 2 ^ 8 ∉ opcodes ∨ x.toNat / 2 ^ 8 % 2 ^ 8 ≠ 0 ∨ x.toNat / 2 ^ 32 ≠ 0))
      ∧ (∀ q, q < 128 → exec (.registerWrite (0x1000 + 8 * q) ⟨val, recs⟩) s = exec (.hostDoorbell q (val.toNat % 2 ^ 32) []) s)
      ∧ (∀ off, off < 0x10000 → off ≠ 0x10 → off ≠ 0x18 → (∀ q, q < 128 → off ≠ 0x1000 + 8 * q) →
          exec (.registerWrite off ⟨val, recs⟩) s = .next s)
      ∧ ∀ off, (barTwoPA off s = none → exec (.registerWrite (0x10000 + off) ⟨val, recs⟩) s = .next s)
        ∧ ∀ pa, barTwoPA off s = some pa → s.snaps = [] → (∀ c ∈ s.ctx :: s.ctxs, c.watch = []) →
          ∃ t, exec (.registerWrite (0x10000 + off) ⟨val, recs⟩) s = .next t
          ∧ barTwo off t = some val ∧ ∀ a, a < pa ∨ pa + 8 ≤ a → memRead t.mem a = memRead s.mem a)
  ∧ (∀ q tail recs, (s.dev.pwr = 4 → exec (.hostDoorbell q tail recs) s = .next s)
      ∧ (s.dev.pwr ≠ 4 →
          let s1 := { s with dev := { s.dev with pwr := if s.dev.pwr = 2 then 0 else s.dev.pwr } }
          (s.dev.pwr = 3 ∨ (∃ d ∈ s.dev.held, d.1 = q) → exec (.hostDoorbell q tail recs) s =
            .next { s1 with dev := { s1.dev with held := s.dev.held ++ [(q, tail, recs)] } })
          ∧ (s.dev.pwr ≠ 3 → (∀ d ∈ s.dev.held, d.1 ≠ q) →
            ((∀ h ∈ s.dev.hostqs, h.num ≠ q) → ∃ t, exec (.hostDoorbell q tail recs) s = .next t ∧ MemorySame s t ∧ Dropped s t q)
            ∧ (∀ h c ch, s.dev.hostqs.find? (fun h => h.num == q) = some h → h.num = q → h.launch = false → s.findCtx h.asid = some c →
                c.chain h.slot = some ch →
                let s2 := ringWrite h.asid ((numbered recs).filterMap (fun x =>
                  (posVA s1 c ch ((ch.tail + x.1) % 2 ^ 32)).map (fun a => (a, x.2)))) s1
                let dist := fun (a b : Nat) => (a + 2 ^ 32 - b % 2 ^ 32) % 2 ^ 32
                let n := dist tail ch.tail
                (63 * ch.nseg ≤ dist ch.tail ch.head + n → ∃ t, exec (.hostDoorbell q tail recs) s = .next t ∧ t.mem = s2.mem
                  ∧ Dropped s t q ∧ t.findCtx h.asid = some c)
                ∧ (dist ch.tail ch.head + n < 63 * ch.nseg → ∃ t c' ch', exec (.hostDoorbell q tail recs) s = .next t
                    ∧ t.dev.pwr = s1.dev.pwr ∧ t.findCtx h.asid = some c' ∧ c'.chain h.slot = some ch' ∧ ch'.tail = (ch.tail + n) % 2 ^ 32
                    ∧ ch'.nextSeq = ch.nextSeq + n ∧ ch'.recs.take ch.recs.length = ch.recs
                    ∧ (ch'.recs.drop ch.recs.length).map (fun r => (r.seq, r.wct)) =
                        (List.range n).map (fun i => (ch.nextSeq + i, s2.dev.hostWct))))
            ∧ (∀ h, s.dev.hostqs.find? (fun h => h.num == q) = some h → h.num = q → h.launch = true →
                let lq := s.queue h.part h.slot
                let at_ := fun (i : Nat) => lq.ring.toNat + 128 * ((lq.tail + i) % max lq.size 1)
                let s2 := ringWrite lq.asid ((numbered recs).map (fun x => (at_ x.1, x.2))) s1
                let n := (tail + lq.size - lq.tail % max lq.size 1) % max lq.size 1
                (lq.size ≤ tail ∨ lq.size ≤ lq.packets.length + n → ∃ t, exec (.hostDoorbell q tail recs) s = .next t ∧ t.mem = s2.mem
                  ∧ Dropped s t q)
                ∧ (tail < lq.size → lq.packets.length + n < lq.size → ∃ t, exec (.hostDoorbell q tail recs) s = .next t
                  ∧ t.dev.pwr = s1.dev.pwr ∧ (t.queue h.part h.slot).tail = tail
                  ∧ (t.queue h.part h.slot).packets.map (fun p => (p.addr, p.wct)) = lq.packets.map (fun p => (p.addr, p.wct))
                      ++ (List.range n).map (fun i => (BitVec.ofNat 64 (at_ i), s2.dev.hostWct)))))))
  ∧ (∀ m a, s.dev.merge = some m → s.partOf m.p1 = some a →
      (drained s [m.p1, m.p2] = false → exec .partMergeDrained s = .next s)
      ∧ (drained s [m.p1, m.p2] = true → m.deadline < s.time → MergeBusy .partMergeDrained s m)
      ∧ (drained s [m.p1, m.p2] = true → s.time ≤ m.deadline → ∃ t b, exec .partMergeDrained s = .next t ∧ MemorySame s t ∧ t.dev.merge = none
          ∧ t.dev.busy = some b ∧ b.resp.opc = 0x11 ∧ b.resp.tag = m.tag ∧ b.resp.status = 0 ∧ b.lift = [min m.p1 m.p2]
          ∧ (∃ p ∈ t.parts, p.range = { quarter := min m.p1 m.p2, count := 2 * a.range.count } ∧ p.quiesced = true)
          ∧ (s.ctx.part = m.p1 ∨ s.ctx.part = m.p2 → t.ctx.part = min m.p1 m.p2)
          ∧ (s.ctx.part ≠ m.p1 → s.ctx.part ≠ m.p2 → t.ctx.part = s.ctx.part))
      ∧ (m.deadline < s.time ∨ (m.deadline = s.time ∧ drained s [m.p1, m.p2] = false) → MergeBusy .partMergeTimeout s m)
      ∧ (s.time < m.deadline → exec .partMergeTimeout s = .next s))
  ∧ (∃ t, exec .reset s = .next t ∧ t.dev.boot = 0 ∧ t.dev.pwr = 0 ∧ t.dev.trip = false ∧ t.dbgs = 0 ∧ t.dev.sec = s.dev.sec ∧ t.mem = []
      ∧ t.dev.ownerKey = s.dev.ownerKey ∧ t.parts = [] ∧ t.liveCtxs = [] ∧ t.allWarps.all (·.ended) = true ∧ t.launches = [])
  ∧ (∀ ok, (s.dev.boot = 0 → exec (.bootCheckDone ok) s = .next { s with dev := { s.dev with boot := if ok then 1 else 3 } })
      ∧ (s.dev.boot ≠ 0 → exec (.bootCheckDone ok) s = .next s))
  ∧ (∀ die power junction,
      let x := tabGet ({} : Limit) die s.dev.limits
      let above := 1000 * s.dev.cap < power
      let hot := 64 * 105 < junction
      let since := if above then some (x.above.getD s.time) else none
      let quiet := if above ∨ hot then none else some (x.below.getD s.time)
      let notes := fun (t : State) (y : Limit) (level : Nat) => { t with dev := s.dev } = s ∧ tabGet {} die t.dev.limits = y
        ∧ dieLevel t die = level ∧ (die = 0 → t.dev.level1 = s.dev.level1) ∧ (die ≠ 0 → t.dev.level0 = s.dev.level0)
        ∧ t.dev.tripTime = (if die = s.dev.tripDie ∧ junction < 64 * 100 then none else s.dev.tripTime)
        ∧ { t.dev with level0 := s.dev.level0, level1 := s.dev.level1, limits := s.dev.limits, tripTime := s.dev.tripTime } = s.dev
      (∃ t, exec (.limiterRaise ⟨die, power, junction⟩) s = .next t ∧
        ((∃ a, since = some a ∧ a + 100000 ≤ s.time) →
          notes t { above := some s.time, below := quiet, hot := decide hot } (min 3 (dieLevel s die + 1)))
        ∧ (¬ (∃ a, since = some a ∧ a + 100000 ≤ s.time) → notes t { above := since, below := quiet, hot := decide hot }
            (if hot ∧ x.hot = false then min 3 (dieLevel s die + 1) else dieLevel s die)))
      ∧ ∃ t, exec (.limiterLower ⟨die, power, junction⟩) s = .next t ∧
        ((∃ a, quiet = some a ∧ a + 1000000 ≤ s.time) →
          notes t { above := since, below := some s.time, hot := decide hot } (dieLevel s die - 1))
        ∧ (¬ (∃ a, quiet = some a ∧ a + 1000000 ≤ s.time) → notes t { above := since, below := quiet, hot := decide hot } (dieLevel s die)))
  ∧ (∀ die, (s.dev.pwr = 3 → exec (.thermalTrip die) s =
        .next { s with dev := { s.dev with trip := true, tripTime := some s.time, tripDie := die } })
      ∧ (s.dev.pwr = 4 → exec (.thermalTrip die) s = .next { s with dev := { s.dev with trip := true, tripDie := die } })
      ∧ (s.dev.pwr < 3 → ∃ t, exec (.thermalTrip die) s = .next t ∧ MemorySame s t ∧ t.dev.trip = true ∧ t.dev.pwr = 3
          ∧ t.dev.tripTime = some s.time ∧ t.dev.tripDie = die ∧ t.dbgs ≠ 2
          ∧ ∀ c, c < 160 → residentTeams s c ≠ [] → (t.orr c).switch ≠ 0))
  ∧ (s.dev.tripTime = none ∨ s.dev.pwr = 4 → exec .tripOffTimeout s = .next s)
  ∧ (∀ x, s.dev.tripTime = some x → s.dev.pwr ≠ 4 →
      (s.time < x + 10 ^ 10 → exec .tripOffTimeout s = .next s)
      ∧ (x + 10 ^ 10 ≤ s.time → ∃ t, exec .tripOffTimeout s = .next t ∧ t.dev.pwr = 4 ∧ t.dev.trip = s.dev.trip ∧ t.mem = []
          ∧ t.liveCtxs = [] ∧ t.dbgs = 0))
  ∧ (∀ cluster, exec (.supplyTrim cluster) s = .next s)
  ∧ (∀ part p, s.partOf part = some p → (s.liveCtxs.map (·.asid)).Nodup →
      let all := (s.liveCtxs.filter (fun c => c.part == part)).foldl (fun n c => n + (coresOf s c).length) 0
      (all = 0 ∨ s.time < p.divided + 100000 → exec (.budgetDivision part) s = .next s)
      ∧ (all ≠ 0 → p.divided + 100000 ≤ s.time → ∃ t, exec (.budgetDivision part) s = .next t
        ∧ { t with ctx := s.ctx, ctxs := s.ctxs, parts := s.parts } = s ∧ t.partOf part = some { p with divided := s.time }
        ∧ ∀ c ∈ s.liveCtxs, ∃ c', t.findCtx c.asid = some c' ∧ { c' with ebudRate := c.ebudRate } = c
            ∧ c'.ebudRate = (if c.part = part then 64 * (40 * p.range.count) * (coresOf s c).length / all else c.ebudRate)))
  ∧ (∀ asid c, s.findCtx asid = some c →
      let r := c.ebudRate * (4 - limiterLevel s c) / 4
      (s.time / 1000 ≤ c.ebudTime → exec (.ebudRefill asid) s = .next s)
      ∧ (c.ebudTime < s.time / 1000 → ∃ t c', exec (.ebudRefill asid) s = .next t ∧ MemorySame s t ∧ t.findCtx asid = some c'
          ∧ { c' with ebudLevel := c.ebudLevel, ebudTime := c.ebudTime } = c ∧ c'.ebudTime = c.ebudTime + 1
          ∧ c'.ebudLevel = max c.ebudLevel (min (c.ebudLevel + 4 * r) (400 * r))))
  ∧ (∀ asid c edits, s.findCtx asid = some c → sessionCovers s c = false → exec (.debuggerResume asid edits) s = .next s)
  ∧ (∀ asid c, s.findCtx asid = some c → sessionCovers s c = true →
      (∃ t, exec (.debuggerResume asid []) s = .next t ∧ MemorySame s t
        ∧ (stoppedIn s asid s.w = false → t.w = s.w)
        ∧ (stoppedIn s asid s.w = true → { t.w with cur := s.w.cur, others := s.w.others } = s.w ∧ t.w.cur =
            (if s.w.cur.stopped then { s.w.cur with stopped := false, fresh := [], since := none } else s.w.cur)
            ∧ ∀ p ∈ t.w.others, p.stopped = false))
      ∧ (∀ x edits, exec (.debuggerResume asid (x :: edits)) s = exec (.debuggerResume asid edits) (applyEdit c s x))
      ∧ (∀ va pa x, ctxPA s c va = some pa → va % 8 = 0 → s.snaps = [] → (∀ x ∈ s.ctx :: s.ctxs, x.watch = []) →
          BitVec.ofNat 64 (memNat (applyEdit c s (.memory va x)).mem pa 8) = x
          ∧ ∀ b, b < pa ∨ pa + 8 ≤ b → memRead (applyEdit c s (.memory va x)).mem b = memRead s.mem b)
      ∧ (∀ x, stoppedIn s asid s.w = true → imageStands s s.w = false →
          (∀ n, 1 ≤ n → n < 64 → ∃ w, (applyEdit c s (.record s.w.uid (0x4200 + 8 * n) x)).w = w ∧ w.sGet n = x
            ∧ (∀ m, m ≠ n → w.sGet m = s.w.sGet m) ∧ { w with s := s.w.s } = s.w)
          ∧ (s.w.cur.active ≠ 0 → s.w.cur.num < 4 → ∃ w, (applyEdit c s (.record s.w.uid (0x4480 + 32 * s.w.cur.num) x)).w = w
            ∧ w.cur = { s.w.cur with pc := x &&& ~~~1#64 } ∧ { w with cur := s.w.cur, others := s.w.others } = s.w)
          ∧ (applyEdit c s (.record s.w.uid 0x4550 x)).w = { s.w with fpx := x &&& 31#64 }
          ∧ (applyEdit c s (.record s.w.uid 0x4580 x)).w = { s.w with ah := x.toNat }))

end

/-! # Launches, teams, switches (14 R302, R303, R312 to R326; 13 R299; 16 R358 to R362; 10 R235, R236) -/

section

open Sys2Proof Sys2Proof.Machine Sys2Proof.Claims

/-- Only what stands in the list of launches changed. -/
def Sys2Proof.Claims.LaunchesOnly (s t : State) : Prop := { t with launches := s.launches } = s

/-- A queue's oldest packet is rejected (R317) or becomes a launch (R312), judged once its process-group table is bound (13
R279, R298); so does a packet that another chip replicates here, which leaves nothing here if it is rejected (13 R299). -/
def Sys2Proof.Claims.PacketsJudged (s : State) : Prop :=
  (∀ part num, (s.queue part num).packets = [] ∨ s.partOf part = none → exec (.launchPacketAccept part ⟨num, none⟩) s = .next s)
  ∧ (∀ part num r, s.partOf part = none → exec (.launchPacketAccept part ⟨num, some r⟩) s = .next s)
  ∧ (∀ part num p pk rest, (s.queue part num).packets = pk :: rest → s.partOf part = some p →
      let q := s.queue part num
      let g : Agent := { asid := pk.asid, priv := pk.priv }
      (∀ d, (pk.addr.toNat % 2 ^ 7 ≠ 0 ∨ readDws s g pk.addr.toNat 16 = none ∨ (readDws s g pk.addr.toNat 16 = some d
          ∧ (d.length = 16) ∧ (dwAt d 2 % 2 ^ 32 = 0 ∨ dwAt d 3 % 4 ≠ 0 ∨ dwAt d 7 % 16 ≠ 0 ∨ 32 < dwAt d 1 % 2 ^ 6))) →
          q.above = [] → q.done + 1 = q.nextSeq → ∃ t, exec (.launchPacketAccept part ⟨num, none⟩) s = .next t ∧ t.launches = s.launches
            ∧ (t.queue part num).packets = rest ∧ (t.queue part num).nextSeq = q.nextSeq + 1 ∧ (t.queue part num).done = q.nextSeq
            ∧ t.allTeams = s.allTeams)
      ∧ (∀ d l, pk.addr.toNat % 2 ^ 7 = 0 → readDws s g pk.addr.toNat 16 = some d → d ≠ [] →
          judgePacket (bindPacket pk.asid d s) g p q pk d = .ok l →
          let b := bindPacket pk.asid d s
          ∃ t l', exec (.launchPacketAccept part ⟨num, none⟩) s = .next t ∧ MemorySame b t ∧ (dwAt d 1 / 2 ^ 18 % 4 ≠ 1 → MemorySame s t)
            ∧ t.launches.getLast? = some l' ∧ t.launches.map (·.id) = s.launches.map (·.id) ++ [b.nextId]
            ∧ (t.queue part num).packets = rest ∧ (t.queue part num).nextSeq = q.nextSeq + 1
            ∧ l'.queue = num ∧ l'.seq = q.nextSeq ∧ l'.asid = pk.asid
            ∧ l'.csize = 2 ^ (dwAt d 1 / 2 ^ 12 % 4) ∧ l'.prio = dwAt d 1 / 2 ^ 14 % 4 ∧ l'.kimg = BitVec.ofNat 64 (dwAt d 0)
            ∧ l'.args = BitVec.ofNat 64 (dwAt d 5) ∧ l'.crec = BitVec.ofNat 64 (dwAt d 7) ∧ l'.cookie = dwAt d 2 / 2 ^ 32
            ∧ l'.warps = (if dwAt d 1 % 2 ^ 6 = 0 then agentNat b g (dwAt d 0 + 8) 8 / 2 ^ 32 % 2 ^ 6 else dwAt d 1 % 2 ^ 6)
            ∧ (dwAt d 1 / 2 ^ 18 % 4 ≠ 1 → l'.nteams = dwAt d 2 % 2 ^ 32) ∧ l'.placed = 0 ∧ l'.complete = false ∧ l'.origin = none))
  ∧ (∀ part num p (r : Replica), s.partOf part = some p →
      let g : Agent := { asid := r.asid, priv := r.priv }
      let judged := judgePacket s g p { part := p.range.quarter, num := 32 + r.chip, nextSeq := r.seq }
        { asid := r.asid, addr := 0, priv := r.priv } r.dws (some r.chips)
      (∀ why, judged = .error why → exec (.launchPacketAccept part ⟨num, some r⟩) s = .next s)
      ∧ ∀ l, judged = .ok l → ∃ t l', exec (.launchPacketAccept part ⟨num, some r⟩) s = .next t ∧ MemorySame s t ∧ t.queues = s.queues
          ∧ t.launches.map (·.id) = s.launches.map (·.id) ++ [s.nextId] ∧ t.launches.getLast? = some l'
          ∧ { l' with blocked := l.blocked } = { l with origin := some r.chip, deps := [], crec := 0 })

/-- A launch's next team goes to the core with the most free slots, of those where it fits and which are neither being switched nor
wanted by a core context that can be resumed there (R316), and starts as at kernel entry (R302, R319; 01 R7; 07 R147, R150); the
instruction paths hold memory as it stood at the launch's first placement (02 R15). -/
def Sys2Proof.Claims.TeamsPlaced (s : State) : Prop :=
  (∀ id, s.findLaunch id = none → exec (.teamPlacement id) s = .next s)
  ∧ (∀ id l p, s.findLaunch id = some l → s.partOf l.part = some p →
      (canPlace s l = none → ∃ t, exec (.teamPlacement id) s = .next t ∧ LaunchesOnly s t)
      ∧ (canPlace s l ≠ none → servedNow s l = false ∨ 2 ≤ s.dev.pwr → exec (.teamPlacement id) s = .next s)
      ∧ (∀ k c, canPlace s l = some [c] → l.nextTeams = [k] → servedNow s l = true → s.dev.pwr < 2 →
          (∀ v ∈ s.allWarps, v.team < s.nextId) → (∀ m ∈ s.allTeams, m.uid < s.nextId) →
          let may := fun (x : Nat) => fits s p l x = true ∧ (s.orr x).switch = 0 ∧ heldForResume s l x = false
          may c
          ∧ (l.places = [] → c ∈ openCores p ∧ ∀ x ∈ openCores p, may x → (freeSlots s x).length ≤ (freeSlots s c).length
              ∧ ((freeSlots s x).length = (freeSlots s c).length → c ≤ x))
          ∧ ∃ t m l', exec (.teamPlacement id) s = .next t ∧ MemorySame s t ∧ t.allTeams = s.allTeams ++ [m]
              ∧ m.uid = s.nextId ∧ m.launch = l.id ∧ m.asid = l.asid ∧ m.index = k ∧ m.core = c ∧ m.nwarp = l.warps
              ∧ m.nteam = l.nteams ∧ m.csize = l.csize ∧ m.retired = false ∧ m.saved = none
              ∧ t.findLaunch id = some l' ∧ l'.placed = l.placed + 1 ∧ l'.code = (if l.placed = 0 then s.mem else l.code)
              ∧ (t.allWarps.filter (fun v => v.team == m.uid)).map (·.wid) = List.range l.warps
              ∧ ∀ v ∈ t.allWarps, v.team = m.uid → v.core = c ∧ v.blocks = l.regs ∧ v.ended = false ∧ v.cur.active = 0xFFFFFFFF
                  ∧ v.cur.priv = false ∧ v.others = [] ∧ v.stack = [] ∧ v.sGet 1 = l.args ∧ (∀ i, i ≠ 1 → v.sGet i = 0)
                  ∧ (∀ r i, v.vGet r i = 0) ∧ (∀ i, i ≠ 0 → v.kGet i = 0) ∧ v.part = 32 ∧ v.rnd = 1 ∧ v.flush = 0 ∧ v.fpx = 0
                  ∧ v.fpe = 0 ∧ v.tvec = 0 ∧ v.trap = {} ∧ v.ah = 0 ∧ v.wmax = 0
                  ∧ (v.fz = false ∧ v.fn = false ∧ v.fc = false ∧ v.fv = false) ∧ (l.job = none → v.cur.pc = l.kimg + BitVec.ofNat 64 l.entry)
                  ∧ ∀ j, l.job = some j → v.cur.pc = j.entry))

/-- A team retires, on a core or switched out, and its launch with the last, once its writes are released: at host scope, 20 ns later, for a host queue
(R303, R318; 06 R131). -/
def Sys2Proof.Claims.TeamsRetired (s : State) : Prop :=
  (∀ uid, s.findTeam uid = none → exec (.teamRetire uid) s = .next s)
  ∧ (∀ uid m, s.findTeam uid = some m →
      (m.retired = false → mayRetire s m = false → exec (.teamRetire uid) s = .next s)
      ∧ (m.retired = false → (∀ v ∈ s.allWarps, v.team = uid → v.dawn = false → v.ended = true ∧ v.ops = []) →
          ∃ t m', exec (.teamRetire uid) s = .next t ∧ t.findTeam uid = some m' ∧ m'.retired = true ∧ m'.barriers = []
            ∧ (∀ v ∈ t.allWarps, v.team = uid → v.slotHeld = false ∧ v.blocks = 0 ∧ v.ended = true)
            ∧ ∀ l, s.findLaunch m.launch = some l → ∃ l', t.findLaunch m.launch = some l' ∧ l'.retired = l.retired + 1
                ∧ (l.complete = false → l.xmode ≠ 2 → l.origin = none → l.share.length ≤ l.retired + 1 →
                  (let far := if (s.queue l.part l.queue).host.isSome then 20 else 0
                   l.wct + far < s.time ∧ ∀ v ∈ s.allWarps, v.team = uid → v.wmax + far < s.time) → l'.complete = true
                  ∧ ((s.queue l.part l.queue).above = [] → (s.queue l.part l.queue).done + 1 = l.seq →
                      (t.queue l.part l.queue).done = l.seq))
                ∧ (l.complete = false → l.retired + 1 < l.share.length → l'.complete = false)))

/-- The balancer moves the upper half of the largest reserve, at most once in 8 µs (R326). -/
def Sys2Proof.Claims.ReservesBalanced (s : State) : Prop :=
  (∀ part, (∀ p ∈ s.parts, p.range.quarter = part → s.time < p.balanced + 8000) → exec (.balancerInterval part) s = .next s)
  ∧ (∀ part p, p ∈ s.parts → p.range.quarter = part → p.balanced + 8000 ≤ s.time → ∃ t, exec (.balancerInterval part) s = .next t
      ∧ { t with launches := s.launches, parts := s.parts } = s
      ∧ (∀ x ∈ t.parts, x.range.quarter = part → x.balanced = s.time) ∧ t.parts.map (·.range) = s.parts.map (·.range)
      ∧ t.launches.length = s.launches.length
      ∧ ∀ (i : Nat) l, s.launches[i]? = some l → ∃ l', t.launches[i]? = some l' ∧ { l' with job := l.job } = l
          ∧ (l.part ≠ part ∨ l.job = none → l' = l)
          ∧ ∀ j, l.job = some j → l.part = part → ∃ j', l'.job = some j' ∧ j'.central = j.central
              ∧ (hungryCores s l j = [] → j' = j) ∧ ((∀ r ∈ j.reserves, rangesLen' r.2 < 2 * j.min) → j' = j)
              ∧ ∀ c d a n, hungryCores s l j = [d] → j.reserves = [(c, [(a, n)])] → 2 * j.min ≤ n → 2 ≤ n →
                  j'.reserve d = [(a + n / 2, n - n / 2)] ∧ j'.reserve c = [(a, n / 2)])

/-- A replicated launch starts 2 µs after every chip accepted it, or is aborted where a chip rejects it or 1 ms has passed;
on a chip to which it was replicated the originator's word decides (13 R299). -/
def Sys2Proof.Claims.ReplicatedStarts (s : State) : Prop :=
  (∀ id chip a, s.findLaunch id = none → exec (.replicatedAcceptance id chip a) s = .next s
      ∧ exec (.replicatedAcceptTimeout id) s = .next s ∧ exec (.replicatedStart id) s = .next s)
  ∧ (∀ id l, s.findLaunch id = some l →
      (∀ chip a, l.xmode ≠ 2 ∨ l.start ≠ none ∨ l.aborted = true ∨ chip ∉ l.chips → exec (.replicatedAcceptance id chip a) s = .next s)
      ∧ (∀ chip, l.xmode = 2 → l.start = none → l.aborted = false → l.origin = none → chip ∈ l.chips → chip ∉ l.oks →
          (s.time ≤ l.accepted + 10 ^ 6 → ∃ t l', exec (.replicatedAcceptance id chip .accepted) s = .next t ∧ MemorySame s t
            ∧ t.findLaunch id = some l' ∧ l'.oks = l.oks ++ [chip]
            ∧ l'.start = (if ∀ x ∈ l.chips, x ∈ l.oks ∨ x = chip then some (s.time + 2000) else none))
          ∧ (∀ a, a = .rejected ∨ (a = .accepted ∧ l.accepted + 10 ^ 6 < s.time) → ∃ t l',
              exec (.replicatedAcceptance id chip a) s = .next t ∧ t.findLaunch id = some l' ∧ l'.aborted = true
              ∧ l'.complete = true ∧ l'.start = none))
      ∧ (∀ chip, l.xmode = 2 → l.start = none → l.aborted = false → l.origin = some chip → chip ∈ l.chips →
          exec (.replicatedAcceptance id chip .accepted) s = .next s
          ∧ (∀ gen at_, ∃ t, exec (.replicatedAcceptance id chip (.start gen at_)) s = .next t ∧ LaunchesOnly s t
              ∧ t.findLaunch id = some { l with gen := gen, start := some at_ })
          ∧ (∃ t l', exec (.replicatedAcceptance id chip .rejected) s = .next t ∧ LaunchesOnly s t ∧ t.findLaunch id = some l'
              ∧ l'.aborted = true ∧ l'.complete = true ∧ l'.start = none)
          ∧ ∀ x a, x ∈ l.chips → x ≠ chip → exec (.replicatedAcceptance id x a) s = .next s)
      ∧ (l.start ≠ none ∨ l.origin ≠ none ∨ s.time < l.accepted + 10 ^ 6 → exec (.replicatedAcceptTimeout id) s = .next s)
      ∧ (l.xmode = 2 → l.start = none → l.aborted = false → l.origin = none → l.accepted + 10 ^ 6 ≤ s.time → ∃ t l',
          exec (.replicatedAcceptTimeout id) s = .next t ∧ t.findLaunch id = some l' ∧ l'.aborted = true ∧ l'.complete = true)
      ∧ (∀ x, l.start = some x → (s.time < x → exec (.replicatedStart id) s = .next s)
          ∧ (x ≤ s.time → ∃ t l', exec (.replicatedStart id) s = .next t ∧ LaunchesOnly s t ∧ t.findLaunch id = some l'
              ∧ l'.released = true)))

/-- 14 R302, R303, R312, R317 to R319, R326; 13 R299: a packet is accepted or rejected in its queue's order; a launch
places its next team on the core with the most free slots, and its warps start as at kernel entry; a team retires when
its warps have ended and their operations retired, and its launch completes with the last; the balancer moves the
upper half of the largest reserve, once in 8 µs; a replicated launch starts 2 µs after every chip accepted, or is aborted. Where it
rests on a reading or a choice of the model: notes/assumptions 44.md, 45.md, 46.md, 70.md, 71.md, 72.md, 73.md, 74.md,
75.md, 113.md, 115.md. -/
def Obligations.LaunchesAndTeams : Prop := ∀ (s : State),
  PacketsJudged s ∧ TeamsPlaced s ∧ TeamsRetired s ∧ ReservesBalanced s ∧ ReplicatedStarts s

/-- The teams saved under id run again on a core: their placement generation is one higher (0xFFFF to 1), their pending
upcalls are raised again (10 R236), no warp is saved under id, and the save is gone (16 R358; 14 R322). -/
def Sys2Proof.Claims.ResumedOn (s t : State) (id core : Nat) : Prop :=
  MemorySame s t
  ∧ (∀ m ∈ savedTeams s id, ∃ m' ∈ t.allTeams, m' = { m with saved := none, core := core, pgen := nextGen m.pgen, pending := m'.pending })
  ∧ (∀ v ∈ t.allWarps, v.saved ≠ some id) ∧ (∀ x ∈ t.saves, x.id ≠ id)
  ∧ (∀ v ∈ s.allWarps, v.saved = some id → ∃ v' ∈ t.allWarps, v'.uid = v.uid ∧ v'.core = core ∧ v'.saved = none ∧ v'.slot = v.slot
      ∧ ∀ m, v.mon = some m → ∃ m', v'.mon = some m' ∧ m'.2.2 = true)

/-- 14 R316; 16 R358 to R362; 10 R235: pre-emption asks for the switch of a core of lower priority; a core context
leaves its core and its caches stay; it can be resumed once its image stands in the save area, on a core without
teams; a demand restore changes nothing but time (the model's reading, notes/assumptions/48.md). Where it rests on a
reading or a choice of the model: notes/assumptions 47.md, 76.md, 77.md, 78.md. -/
def Obligations.SwitchesAndResumes : Prop := ∀ (s : State),
  (∀ part, s.partOf part = none → exec (.preemptionDelayExpiry part) s = .next s)
  ∧ (∀ part p, s.partOf part = some p →
      let waits := fun (l : Launch) => l.part == part && eligible s l && (canPlace s l).isNone
        && (match l.blocked with
          | some x => decide (x + p.delay ≤ s.time)
          | none => false)
      (p.delay = 0 → exec (.preemptionDelayExpiry part) s = .next s)
      ∧ (p.delay ≠ 0 → p.quiesced = false → s.launches.filter waits = [] →
          ∃ t, exec (.preemptionDelayExpiry part) s = .next t ∧ LaunchesOnly s t)
      ∧ (p.delay ≠ 0 → p.quiesced = false → ∀ l, s.launches.filter waits = [l] →
          ((openCores p).filter (victim s (s.prio l)) = [] → exec (.preemptionDelayExpiry part) s = .next s)
          ∧ ((openCores p).filter (victim s (s.prio l)) ≠ [] → ∃ t c, exec (.preemptionDelayExpiry part) s = .next t ∧ MemorySame s t
              ∧ c ∈ openCores p ∧ residentTeams s c ≠ [] ∧ teamsPrio s (residentTeams s c) < s.prio l ∧ (t.orr c).switch = 1
              ∧ ∀ x ∈ openCores p, victim s (s.prio l) x = true → teamsPrio s (residentTeams s c) ≤ teamsPrio s (residentTeams s x))))
  ∧ (∀ core, (residentTeams s core = [] → exec (.switchRequest core) s = .next s)
      ∧ (residentTeams s core ≠ [] → ∃ t, exec (.switchRequest core) s = .next t ∧ { t with orrs := s.orrs } = s ∧ (t.orr core).switch ≠ 0
          ∧ ((s.orr core).switch = 0 → (t.orr core).switch = 1)))
  ∧ (∀ core, ((s.orr core).switch ≠ 1 ∨ midInstruction s core = true ∨ reloadHeld s core = true → exec (.bankExchange core) s = .next s)
      ∧ ((s.orr core).switch = 1 → midInstruction s core = false → reloadHeld s core = false →
          let f := finishConversions core s
          ∃ t sv, exec (.bankExchange core) s = .next t ∧ MemorySame f t ∧ ((s.getCore core).walks = [] → f = s)
          ∧ (t.orr core).switch = 2 ∧ t.saves = f.saves ++ [sv] ∧ sv.id = f.nextId ∧ sv.tsave = f.time ∧ sv.res = false
          ∧ sv.core.sram = (f.getCore core).sram ∧ sv.core.acc = (f.getCore core).acc
          ∧ sv.core.walks.map (·.id) = (f.getCore core).walks.map (·.id)
          ∧ (∀ w ∈ sv.core.walks, ∀ u ∈ w.units, u.running = false)
          ∧ residentTeams t core = [] ∧ (∀ m ∈ residentTeams f core, { m with saved := some f.nextId } ∈ t.allTeams)
          ∧ (t.getCore core).tlb = (f.getCore core).tlb ∧ (t.getCore core).l1 = (f.getCore core).l1 ∧ (t.getCore core).walks = []))
  ∧ (∀ id, (s.saves.find? (fun x => x.id == id) = none → exec (.spillComplete id) s = .next s)
      ∧ ∀ sv, s.saves.find? (fun x => x.id == id) = some sv →
        ((sv.res = true ∨ (∃ v ∈ s.allWarps, v.saved = some id ∧ ∃ o ∈ v.ops, o.done = false ∧ (o.cls = .ld ∨ o.cls = .st)) →
          exec (.spillComplete id) s = .next s))
        ∧ (sv.res = false → (∀ v ∈ s.allWarps, v.saved = some id → ∀ o ∈ v.ops, o.cls = .ld ∨ o.cls = .st → o.done = true) →
          ∃ t sv', exec (.spillComplete id) s = .next t ∧ t.saves.find? (fun x => x.id == id) = some sv'
            ∧ { t with mem := s.mem, mp := s.mp, saves := s.saves, w := s.w, ws := s.ws } = s
            ∧ sv'.res = true ∧ sv'.core.walks = sv.core.walks ∧ sv'.core.dawn = sv.core.dawn ∧ sv'.tsave = sv.tsave
            ∧ (sv.core.spill = 0 ∨ savedCtx s id = none → sv'.core = sv.core ∧ MemorySame s t)
            ∧ (sv.core.spill ≠ 0 → savedCtx s id ≠ none → sv'.core.sram = [] ∧ sv'.core.acc = [] ∧ sv'.core.sp = [] ∧ sv'.core.ap = [])))
  ∧ (∀ id core sv c, s.saves.find? (fun x => x.id == id) = some sv → savedCtx s id = some c → linkedSaves s 160 [id] = [id] →
      (sv.res = false ∧ (s.saves.filter (fun x => x.id == id)).length = 1 → exec (.contextResume id core) s = .next s)
      ∧ (2 ≤ s.dev.pwr ∨ (∃ l ∈ s.launches, l.part = c.part ∧ eligible s l = true ∧ teamsPrio s (savedTeams s id) < s.prio l) →
          exec (.contextResume id core) s = .next s)
      ∧ (sv.res = true → s.dev.pwr < 2 → (∀ l ∈ s.launches, l.part = c.part → eligible s l = true → s.prio l ≤ teamsPrio s (savedTeams s id)) →
          (core ∈ resumeCores s id → ∃ t, exec (.contextResume id core) s = .next t ∧ ResumedOn s t id core
            ∧ (t.getCore core).sram = (sv.full s).sram ∧ (t.getCore core).acc = (sv.full s).acc)))
  ∧ (∀ core, ((s.orr core).switch ≠ 2 → exec (.bankExchangeDone core) s = .next s)
      ∧ ((s.orr core).switch = 2 → (s.orr core).incoming = none → ∃ t, exec (.bankExchangeDone core) s = .next t
          ∧ { t with orrs := s.orrs, launches := s.launches } = s ∧ (t.orr core).switch = 0)
      ∧ (∀ id sv, (s.orr core).switch = 2 → (s.orr core).incoming = some id → s.saves.find? (fun x => x.id == id) = some sv →
          ∃ t, exec (.bankExchangeDone core) s = .next t ∧ ResumedOn s t id core ∧ (t.orr core).switch = 0
            ∧ (t.orr core).incoming = none ∧ (t.getCore core).sram = (sv.full s).sram ∧ (t.getCore core).acc = (sv.full s).acc))
  ∧ (∀ core line, exec (.demandRestore core line) s = .next s)

end

/-! # The machine as a whole -/

section

open Sys2Proof Sys2Proof.Machine Sys2Proof.Claims

/-- The state in which the split of a lane's turn fetches: its YIELD is over and the limiter's record of the lane is made. -/
def Sys2Proof.Claims.issuing (f : State) : State := (noteClass f).modCur (fun p => { p with yielded := false })

/-- The state in which it performs an instruction of len bytes: its address, the next PC and its word stand in the issue's
record. -/
def Sys2Proof.Claims.performing (w len : Nat) (f : State) : State :=
  { issuing f with ix := { addr := f.w.cur.pc, next := f.w.cur.pc + BitVec.ofNat 64 len, word := BitVec.ofNat 32 w } }

/-- 02 R11, R14, R23; 07 R153; 16 R351; 17 R378; 95: a step takes the turn at the head of the agenda (with an empty agenda
the model's own order). The turn of a lane, named by one of its splits, goes to the split that LaneTurns describes: on a
core whose lanes run, with no watch event due, it performs the decoded instruction at its PC, by exec; after it DBGCTL.STEP
is honoured and the lane's turn is recorded. A stepped split stays where it is while another of its warp is in a handler, and
one that the limiter holds back passes. The turn of a split that may not issue, and one on a core that does not run, does
nothing. Another agent's turn performs that agent's step, by exec. After every turn the machine settles, and time passes.
Where it rests on a reading or a choice of the model: notes/assumptions 5.md, 12.md, 22.md, 86.md, 98.md. -/
def Obligations.StepRunsDecodedInstruction : Prop := ∀ (s u : State),
  (∀ core slot split g w len i, takeTurn s = (.issue core slot split, u) → chosen core slot split u = some g →
    coreRuns g core = true →
    let f := { g with last := (core, slot, split) }
    watchDue f = false → stepHeld f = false → laneHeld f = false →
    fetchInstr (issuing f) f.w.cur.pc = .word w len → decodeWord w = .ok i →
    step s = mapNext (fun t => passTime (settle (laneAfter (afterInstr (!f.w.cur.priv) t))))
      (exec i (performing w len f)))
  ∧ (∀ core slot split, takeTurn s = (.issue core slot split, u) → focus core slot split u = none → step s = .next (passTime (settle u)))
  ∧ (∀ core slot split g, takeTurn s = (.issue core slot split, u) → chosen core slot split u = some g →
      coreRuns g core = false → step s = .next (passTime (settle u)))
  ∧ (∀ core slot split g, takeTurn s = (.issue core slot split, u) → chosen core slot split u = some g → coreRuns g core = true →
      let f := { g with last := (core, slot, split) }
      watchDue f = false →
      (stepHeld f = true → step s = .next (passTime (settle (laneTried f))))
      ∧ (stepHeld f = false → laneHeld f = true → step s = .next (passTime (settle (noteClass f)))))
  ∧ (∀ e, takeTurn s = (.event e, u) → encodeWord e = none → powered u e = true →
      step s = mapNext (fun t => passTime (settle t)) (exec e u))
  ∧ (∀ e ts, s.agenda = e :: ts → takeTurn s = (e, { s with agenda := ts }))
  ∧ ∀ t : State, (passTime t).time = t.time + Config.elapsed t.tick ∧ (passTime t).tick = t.tick + 1

/-- 07 R153; 14 R306: whose a lane's opportunity is. Of the lane's splits that may issue, those not found parked since the
lane last issued, and of these the ones that did not yield, come first where there are any; among them a warp that did not
issue last goes before the one that did, and within a warp the next split in order of number after its last turn. -/
def Obligations.LaneTurns : Prop := ∀ (s g : State) (core slot split : Nat),
  focus core slot split s = some g →
  (((s.w :: s.ws).filter (fun w => w.resident && w.core == core)).map (·.slot)).Nodup →
  (∀ w ∈ s.w :: s.ws, (((w.cur :: w.others).filter (fun p => p.active != 0)).map (·.num)).Nodup ∧ ∀ p ∈ w.cur :: w.others, p.num < 8) →
  let l := laneSplits s core g.w.lane
  let last := ((s.getCore core).turns.lookup g.w.lane).getD 256
  ∃ f, chosen core slot split s = some f ∧ f.w.lane = g.w.lane ∧ f.w.core = core
    ∧ (f.w.slot, f.w.lastSplit, f.w.cur) ∈ l
    ∧ ((∃ x ∈ l, x.2.2.tried = false) → f.w.cur.tried = false)
    ∧ ((∃ x ∈ l, x.2.2.tried = false ∧ x.2.2.yielded = false) → f.w.cur.tried = false ∧ f.w.cur.yielded = false)
    ∧ (f.w.slot = last → ∀ x ∈ l, x.2.2.tried = false → x.2.2.yielded = false → x.1 = last)
    ∧ (∀ x ∈ l, x.1 = f.w.slot → x.2.2.tried = false → x.2.2.yielded = false →
        (f.w.cur.num + 7 - f.w.lastSplit) % 8 ≤ (x.2.2.num + 7 - f.w.lastSplit) % 8)

/-- Words that the spec writes out, and what they stand for (01, 02, 05 to 08, 10 to 14, 16). -/
def Obligations.SpecWordsDecode : Prop :=
  decodeWord 0xFF861805 = .ok (.saddi 3 3 0x1FF)
  ∧ decodeWord 0xFFFFD111 = .ok (.bra 2 (BitVec.ofInt 21 (-6)))
  ∧ decodeWord 0x0A040AA5 = .ok (.vcmp 5 1 1 5)
  ∧ decodeWord 0x000000FD = .ok (.pfx 1 0 0 0 0 0)
  ∧ decodeWord 0x04041821 = .ok (.vadd 3 1 2)
  ∧ decodeWord 0x00000315 = .ok .rcv
  ∧ decodeWord 0x00000495 = .ok .eret
  ∧ decodeWord 0x02800415 = .ok (.trap 5)
  ∧ decodeWord 0x22880203 = .ok (.scmp 4 5)
  ∧ decodeWord 0x0096 = .ok (.dict 37)
  ∧ decodeWord 0x03080A41 = .ok (.ldw 1 2 3 0)
  ∧ decodeWord 0x0200004F = .ok (.fence 4)
  ∧ decodeWord 0xFFC1FFD1 = .ok (.waitc 31 31 0 31 31)
  ∧ decodeWord 0x82A04861 = .ok (.cpush 9 16 5 0 1)
  ∧ decodeWord 0x00069065 = .ok (.hreg 18 3)
  ∧ decodeWord 0x02000869 = .ok (.fold 1 0 0 4 0)
  ∧ decodeWord 0x000834EB = .ok (.kvlen 6 4)
  ∧ decodeWord 0x0500086D = .ok (.coll 1 0 10 0)
  ∧ decodeWord 0x010020D3 = .ok (.bara 4 2)
  ∧ decodeWord 0x000051F1 = .ok (.jcdeal 10)
  ∧ decodeWord 0x600411AD = .ok (.fcvt 3 2 1 0 3)
  ∧ decodeWord 0xFFFFFFFF = .error (.illegal 0)

/-- 17 R364, R369, R376, R377; 09 R215: what reset leaves: bring-up, no trip, Run, debug Off; no partition, no context, no launch; the
error counts at zero; water's heat capacity. The rest is the model's own choice (notes/assumptions/1.md, 2.md): no warp
runs, and memory lists nothing, in the canonical form. -/
def Obligations.ResetValues : Prop :=
  State.reset.dev.boot = 0 ∧ State.reset.dev.trip = false ∧ State.reset.dev.pwr = 0 ∧ State.reset.dbgs = 0
  ∧ dstateWord State.reset = 0 ∧ State.reset.dev.heatCap = 4180
  ∧ State.reset.corrected = 0 ∧ State.reset.uncorrected = 0 ∧ State.reset.dev.orrc = 0 ∧ State.reset.dev.orru = 0
  ∧ State.reset.parts = [] ∧ State.reset.liveCtxs = [] ∧ State.reset.launches = [] ∧ State.reset.dev.hostqs = []
  ∧ State.reset.allWarps.all (·.ended) = true ∧ State.reset.mem = [] ∧ State.reset.mp = [] ∧ Memory.wf State.reset.mem = true

/-- Every step keeps the canonical form of memory: addresses strictly rising, and no byte listed that an unlisted
address reads as. Where it rests on a reading or a choice of the model: notes/assumptions 1.md. -/
def Obligations.MemoryStaysCanonical : Prop :=
  ∀ (s t : State), Memory.wf s.mem = true → step s = .next t → Memory.wf t.mem = true

/-- 02 R11 to R30: for every instruction that has a word, with every operand at every value its fields hold, the word lies in 16 bits
when its lowest bit is clear and in 32 when it is set, and decoding the instruction's bytes, whatever follows them, gives
it back with the bytes that follow. -/
def Obligations.DecodeEncode : Prop :=
  (∀ (i : Instr) (n w : Nat), encodeWord i = some (n, w) →
    w < 2 ^ n ∧ n = (if w % 2 = 0 then 16 else 32) ∧ decodeWord w = .ok i)
  ∧ ∀ (i : Instr) (bs rest : List Byte), encode i = some bs → decode (bs ++ rest) = .ok (i, rest)

/-- Every instruction and every agent's step answers a next state, but for a write applied at an address at which there is no
memory (03 R31, R32): that ends in the fault noMemory. Nothing is refused. -/
def Obligations.NothingRefused : Prop :=
  (∀ (i : Instr) (s : State), (∃ t, exec i s = .next t)
    ∨ ∃ k x, i = .writeAppliedAtHome k ∧ x ∈ s.writes ∧ x.id = k ∧ memExists (x.line * 128) = false
        ∧ exec i s = .fault (.noMemory (x.line * 128)))
  ∧ ∀ s : State, (∃ t, step s = .next t) ∨ ∃ pa, memExists pa = false ∧ step s = .fault (.noMemory pa)

end
end

