-- ==== Sys2Proof/Laws/Arithmetic.lean ====
section
/-! SUPPORT. The scalar and lane operators as exact integer arithmetic narrowed at the end: what 07 R154, R155, R159 and
R161 say of them. -/

namespace Sys2Proof.Machine

open Sys2Proof

/-! ### 64-bit operators -/

theorem mulHighS_eq (a b : W64) : mulHighS a b = BitVec.ofInt 64 (a.toInt * b.toInt / 2 ^ 64) := by
  have key : a.signExtend 128 * b.signExtend 128 = BitVec.ofInt 128 (a.toInt * b.toInt) := by
    apply BitVec.eq_of_toInt_eq
    rw [BitVec.toInt_mul, BitVec.toInt_signExtend_of_le (by decide), BitVec.toInt_signExtend_of_le (by decide),
      BitVec.toInt_ofInt]
  apply BitVec.eq_of_toNat_eq
  simp only [mulHighS, key, BitVec.extractLsb'_toNat, BitVec.toNat_ofInt, Nat.shiftRight_eq_div_pow]
  generalize a.toInt * b.toInt = z
  omega

theorem mulHighU_eq (a b : W64) : mulHighU a b = BitVec.ofNat 64 (a.toNat * b.toNat / 2 ^ 64) := by
  apply BitVec.eq_of_toNat_eq
  have ha := a.isLt
  have hb := b.isLt
  have h : a.toNat * b.toNat < 2 ^ 128 := by nlinarith
  simp only [mulHighU, BitVec.extractLsb'_toNat, BitVec.toNat_mul, BitVec.toNat_setWidth, BitVec.toNat_ofNat,
    Nat.shiftRight_eq_div_pow]
  rw [Nat.mod_eq_of_lt (show a.toNat < 2 ^ 128 by omega), Nat.mod_eq_of_lt (show b.toNat < 2 ^ 128 by omega),
    Nat.mod_eq_of_lt h]

theorem shl64_eq (a b : W64) : shl64 a b = BitVec.ofNat 64 (a.toNat * 2 ^ (b.toNat % 256)) := by
  apply BitVec.eq_of_toNat_eq
  unfold shl64
  split
  · rename_i h
    obtain ⟨k, hk⟩ := Nat.exists_eq_add_of_le h
    rw [BitVec.toNat_ofNat, hk, Nat.pow_add, show a.toNat * (2 ^ 64 * 2 ^ k) = 2 ^ 64 * (a.toNat * 2 ^ k) by ring,
      Nat.mul_mod_right]
    rfl
  · simp [Nat.shiftLeft_eq]

theorem shr64_eq (a b : W64) : shr64 a b = BitVec.ofNat 64 (a.toNat / 2 ^ (b.toNat % 256)) := by
  apply BitVec.eq_of_toNat_eq
  unfold shr64
  have ha := a.isLt
  split
  · rename_i h
    have : a.toNat / 2 ^ (b.toNat % 256) = 0 :=
      Nat.div_eq_of_lt (lt_of_lt_of_le ha (Nat.pow_le_pow_right (by decide) h))
    simp [this]
  · simp only [BitVec.toNat_ushiftRight, Nat.shiftRight_eq_div_pow, BitVec.toNat_ofNat]
    exact (Nat.mod_eq_of_lt (lt_of_le_of_lt (Nat.div_le_self _ _) ha)).symm

theorem sra64_eq (a b : W64) : sra64 a b = BitVec.ofInt 64 (a.toInt / 2 ^ (b.toNat % 256)) := by
  apply BitVec.eq_of_toInt_eq
  have h1 : a.toInt < 2 ^ 63 := BitVec.toInt_lt
  have h2 : -2 ^ 63 ≤ a.toInt := BitVec.le_toInt (x := a)
  rw [sra64, BitVec.toInt_sshiftRight, Int.shiftRight_eq_div_pow, BitVec.toInt_ofInt]
  have e : a.toInt / (2 : Int) ^ (min (b.toNat % 256) 63) = a.toInt / 2 ^ (b.toNat % 256) := by
    by_cases h : b.toNat % 256 ≤ 63
    · rw [min_eq_left h]
    · rw [min_eq_right (by omega)]
      have hk : (2 : Int) ^ 63 ≤ 2 ^ (b.toNat % 256) := pow_le_pow_right₀ (by norm_num) (by omega)
      by_cases hn : 0 ≤ a.toInt
      · rw [Int.ediv_eq_zero_of_lt hn h1, Int.ediv_eq_zero_of_lt hn (by omega)]
      · rw [Int.ediv_eq_neg_one_of_neg_of_le (by omega) (by omega),
          Int.ediv_eq_neg_one_of_neg_of_le (by omega) (by omega)]
  have hc : ((2 ^ (min (b.toNat % 256) 63) : Nat) : Int) = 2 ^ (min (b.toNat % 256) 63) := by simp
  rw [hc, e]
  have hp : (1 : Int) ≤ 2 ^ (b.toNat % 256) := one_le_pow₀ (by norm_num)
  symm
  apply Int.bmod_eq_of_le
  · have : (-(2 : Int) ^ 63) ≤ a.toInt / 2 ^ (b.toNat % 256) := by
      apply Int.le_ediv_of_mul_le (by omega)
      nlinarith
    simpa using this
  · have : a.toInt / 2 ^ (b.toNat % 256) < 2 ^ 63 := by
      apply Int.ediv_lt_of_lt_mul (by omega)
      nlinarith
    simpa using this

theorem minS64_eq (a b : W64) : minS64 a b = if a.toInt ≤ b.toInt then a else b := by
  simp only [minS64, BitVec.slt_eq_decide, decide_eq_true_eq]
  split_ifs with h h' h'
  · rfl
  · omega
  · exact BitVec.eq_of_toInt_eq (by omega)
  · rfl

theorem maxS64_eq (a b : W64) : maxS64 a b = if b.toInt ≤ a.toInt then a else b := by
  simp only [maxS64, BitVec.slt_eq_decide, decide_eq_true_eq]
  split_ifs with h h' h' <;> first | rfl | omega

theorem minU64_eq (a b : W64) : minU64 a b = if a.toNat ≤ b.toNat then a else b := by
  simp only [minU64, BitVec.ult_eq_decide, decide_eq_true_eq]
  split_ifs with h h' h'
  · rfl
  · omega
  · exact BitVec.eq_of_toNat_eq (by omega)
  · rfl

theorem maxU64_eq (a b : W64) : maxU64 a b = if b.toNat ≤ a.toNat then a else b := by
  simp only [maxU64, BitVec.ult_eq_decide, decide_eq_true_eq]
  split_ifs with h h' h' <;> first | rfl | omega

/-! ### 32-bit operators -/

theorem mulHighS32_eq (a b : W32) : mulHighS32 a b = BitVec.ofInt 32 (a.toInt * b.toInt / 2 ^ 32) := by
  have key : a.signExtend 64 * b.signExtend 64 = BitVec.ofInt 64 (a.toInt * b.toInt) := by
    apply BitVec.eq_of_toInt_eq
    rw [BitVec.toInt_mul, BitVec.toInt_signExtend_of_le (by decide), BitVec.toInt_signExtend_of_le (by decide),
      BitVec.toInt_ofInt]
  apply BitVec.eq_of_toNat_eq
  simp only [mulHighS32, key, BitVec.extractLsb'_toNat, BitVec.toNat_ofInt, Nat.shiftRight_eq_div_pow]
  generalize a.toInt * b.toInt = z
  omega

theorem mulHighU32_eq (a b : W32) : mulHighU32 a b = BitVec.ofNat 32 (a.toNat * b.toNat / 2 ^ 32) := by
  apply BitVec.eq_of_toNat_eq
  have ha := a.isLt
  have hb := b.isLt
  have h : a.toNat * b.toNat < 2 ^ 64 := by nlinarith
  simp only [mulHighU32, BitVec.extractLsb'_toNat, BitVec.toNat_mul, BitVec.toNat_setWidth, BitVec.toNat_ofNat,
    Nat.shiftRight_eq_div_pow]
  rw [Nat.mod_eq_of_lt (show a.toNat < 2 ^ 64 by omega), Nat.mod_eq_of_lt (show b.toNat < 2 ^ 64 by omega),
    Nat.mod_eq_of_lt h]

theorem shl32_eq (a b : W32) : shl32 a b = BitVec.ofNat 32 (a.toNat * 2 ^ (b.toNat % 256)) := by
  apply BitVec.eq_of_toNat_eq
  unfold shl32
  split
  · rename_i h
    obtain ⟨k, hk⟩ := Nat.exists_eq_add_of_le h
    rw [BitVec.toNat_ofNat, hk, Nat.pow_add, show a.toNat * (2 ^ 32 * 2 ^ k) = 2 ^ 32 * (a.toNat * 2 ^ k) by ring,
      Nat.mul_mod_right]
    rfl
  · simp [Nat.shiftLeft_eq]

theorem shr32_eq (a b : W32) : shr32 a b = BitVec.ofNat 32 (a.toNat / 2 ^ (b.toNat % 256)) := by
  apply BitVec.eq_of_toNat_eq
  unfold shr32
  have ha := a.isLt
  split
  · rename_i h
    have : a.toNat / 2 ^ (b.toNat % 256) = 0 :=
      Nat.div_eq_of_lt (lt_of_lt_of_le ha (Nat.pow_le_pow_right (by decide) h))
    simp [this]
  · simp only [BitVec.toNat_ushiftRight, Nat.shiftRight_eq_div_pow, BitVec.toNat_ofNat]
    exact (Nat.mod_eq_of_lt (lt_of_le_of_lt (Nat.div_le_self _ _) ha)).symm

theorem sra32_eq (a b : W32) : sra32 a b = BitVec.ofInt 32 (a.toInt / 2 ^ (b.toNat % 256)) := by
  apply BitVec.eq_of_toInt_eq
  have h1 : a.toInt < 2 ^ 31 := BitVec.toInt_lt
  have h2 : -2 ^ 31 ≤ a.toInt := BitVec.le_toInt (x := a)
  rw [sra32, BitVec.toInt_sshiftRight, Int.shiftRight_eq_div_pow, BitVec.toInt_ofInt]
  have e : a.toInt / (2 : Int) ^ (min (b.toNat % 256) 31) = a.toInt / 2 ^ (b.toNat % 256) := by
    by_cases h : b.toNat % 256 ≤ 31
    · rw [min_eq_left h]
    · rw [min_eq_right (by omega)]
      have hk : (2 : Int) ^ 31 ≤ 2 ^ (b.toNat % 256) := pow_le_pow_right₀ (by norm_num) (by omega)
      by_cases hn : 0 ≤ a.toInt
      · rw [Int.ediv_eq_zero_of_lt hn h1, Int.ediv_eq_zero_of_lt hn (by omega)]
      · rw [Int.ediv_eq_neg_one_of_neg_of_le (by omega) (by omega),
          Int.ediv_eq_neg_one_of_neg_of_le (by omega) (by omega)]
  have hc : ((2 ^ (min (b.toNat % 256) 31) : Nat) : Int) = 2 ^ (min (b.toNat % 256) 31) := by simp
  rw [hc, e]
  have hp : (1 : Int) ≤ 2 ^ (b.toNat % 256) := one_le_pow₀ (by norm_num)
  symm
  apply Int.bmod_eq_of_le
  · have : (-(2 : Int) ^ 31) ≤ a.toInt / 2 ^ (b.toNat % 256) := by
      apply Int.le_ediv_of_mul_le (by omega)
      nlinarith
    simpa using this
  · have : a.toInt / 2 ^ (b.toNat % 256) < 2 ^ 31 := by
      apply Int.ediv_lt_of_lt_mul (by omega)
      nlinarith
    simpa using this

theorem minS32_eq (a b : W32) : minS32 a b = if a.toInt ≤ b.toInt then a else b := by
  simp only [minS32, BitVec.slt_eq_decide, decide_eq_true_eq]
  split_ifs with h h' h'
  · rfl
  · omega
  · exact BitVec.eq_of_toInt_eq (by omega)
  · rfl

theorem maxS32_eq (a b : W32) : maxS32 a b = if b.toInt ≤ a.toInt then a else b := by
  simp only [maxS32, BitVec.slt_eq_decide, decide_eq_true_eq]
  split_ifs with h h' h' <;> first | rfl | omega

theorem minU32_eq (a b : W32) : minU32 a b = if a.toNat ≤ b.toNat then a else b := by
  simp only [minU32, BitVec.ult_eq_decide, decide_eq_true_eq]
  split_ifs with h h' h'
  · rfl
  · omega
  · exact BitVec.eq_of_toNat_eq (by omega)
  · rfl

theorem maxU32_eq (a b : W32) : maxU32 a b = if b.toNat ≤ a.toNat then a else b := by
  simp only [maxU32, BitVec.ult_eq_decide, decide_eq_true_eq]
  split_ifs with h h' h' <;> first | rfl | omega

/-! ### Division (07 R155) -/

theorem divS_eq (a b : W64) (h : b ≠ 0) : divS a b = BitVec.ofInt 64 (a.toInt.tdiv b.toInt) := by
  apply BitVec.eq_of_toInt_eq
  simp only [divS, if_neg h]
  rw [BitVec.toInt_sdiv, BitVec.toInt_ofInt]

theorem remS_eq (a b : W64) (h : b ≠ 0) : remS a b = BitVec.ofInt 64 (a.toInt - b.toInt * a.toInt.tdiv b.toInt) := by
  have e : a.toInt - b.toInt * a.toInt.tdiv b.toInt = a.toInt.tmod b.toInt := by
    have := Int.mul_tdiv_add_tmod a.toInt b.toInt; omega
  simp only [remS, if_neg h]
  rw [e, ← BitVec.toInt_srem, BitVec.ofInt_toInt]

theorem divU_eq (a b : W64) (h : b ≠ 0) : divU a b = BitVec.ofNat 64 (a.toNat / b.toNat) := by
  apply BitVec.eq_of_toNat_eq
  simp only [divU, if_neg h, BitVec.toNat_udiv, BitVec.toNat_ofNat]
  exact (Nat.mod_eq_of_lt (lt_of_le_of_lt (Nat.div_le_self _ _) a.isLt)).symm

theorem remU_eq (a b : W64) (h : b ≠ 0) : remU a b = BitVec.ofNat 64 (a.toNat % b.toNat) := by
  apply BitVec.eq_of_toNat_eq
  simp only [remU, if_neg h, BitVec.toNat_umod, BitVec.toNat_ofNat]
  exact (Nat.mod_eq_of_lt (lt_of_le_of_lt (Nat.mod_le _ _) a.isLt)).symm

/-! ### Counting bits -/

theorem clz_eq {n : Nat} (a : BitVec n) : clz n a.toNat = if a.toNat = 0 then n else n - 1 - Nat.log2 a.toNat := by
  simp only [clz, Nat.mod_eq_of_lt a.isLt]

theorem popc_eq (n x : Nat) : popc n x = ((List.range n).filter (fun j => x.testBit j)).length := by
  induction n generalizing x with
  | zero => rfl
  | succ n ih =>
    rw [popc, ih, List.range_succ_eq_map, List.filter_cons, List.filter_map]
    have : ((fun j => x.testBit j) ∘ Nat.succ) = fun j => (x / 2).testBit j := by
      funext j; simp [Nat.testBit_succ]
    rw [this]
    cases h : x.testBit 0
    · have : x % 2 = 0 := by simpa [Nat.testBit_zero] using h
      simp [this]
    · have : x % 2 = 1 := by simpa [Nat.testBit_zero] using h
      simp [this, Nat.add_comm]

end Sys2Proof.Machine
end

