-- ==== Sys2Proof/Laws/Tables.lean ====
section
/-! SUPPORT. The laws of the sparse tables: what a read gives after a write, and that a write keeps the canonical form. -/

namespace Sys2Proof.Machine

variable {α : Type}

/-- Reading the key that was deleted gives the default. -/
@[simp] theorem tabGet_tabDel_self (d : α) (k : Nat) (t : List (Nat × α)) : tabGet d k (tabDel k t) = d := by
  induction t with
  | nil => rfl
  | cons p t ih =>
    obtain ⟨k', v⟩ := p
    by_cases h : k' = k <;> simp [tabDel, tabGet, h, ih]

/-- Deleting a key leaves the others. -/
theorem tabGet_tabDel_ne (d : α) {k j : Nat} (t : List (Nat × α)) (h : j ≠ k) :
    tabGet d j (tabDel k t) = tabGet d j t := by
  induction t with
  | nil => rfl
  | cons p t ih =>
    obtain ⟨k', v⟩ := p
    by_cases hk : k' = k
    · subst hk; simp [tabDel, tabGet, ih, Ne.symm h]
    · simp [tabDel, tabGet, hk, ih]

/-- Reading an inserted key of a table that does not hold it yet. -/
theorem tabGet_tabIns_self (d : α) (k : Nat) (v : α) (t : List (Nat × α)) (h : ∀ p ∈ t, p.1 ≠ k) :
    tabGet d k (tabIns k v t) = v := by
  induction t with
  | nil => simp [tabIns, tabGet]
  | cons p t ih =>
    obtain ⟨k', v'⟩ := p
    have h1 : k' ≠ k := h (k', v') (by simp)
    have h2 : ∀ p ∈ t, p.1 ≠ k := fun p hp => h p (by simp [hp])
    by_cases hk : k < k' <;> simp [tabIns, tabGet, hk, h1, ih h2]

/-- Inserting a key leaves the others. -/
theorem tabGet_tabIns_ne (d : α) {k j : Nat} (v : α) (t : List (Nat × α)) (h : j ≠ k) :
    tabGet d j (tabIns k v t) = tabGet d j t := by
  induction t with
  | nil => simp [tabIns, tabGet, Ne.symm h]
  | cons p t ih =>
    obtain ⟨k', v'⟩ := p
    by_cases hk : k < k' <;> simp [tabIns, tabGet, hk, Ne.symm h, ih]

/-- A deleted key is in no pair. -/
theorem tabDel_no_key (k : Nat) (t : List (Nat × α)) : ∀ p ∈ tabDel k t, p.1 ≠ k := by
  induction t with
  | nil => simp [tabDel]
  | cons p t ih =>
    obtain ⟨k', v⟩ := p
    by_cases h : k' = k
    · simpa [tabDel, h] using ih
    · simp only [tabDel, h, if_false, List.mem_cons]
      rintro q (rfl | hq)
      · exact h
      · exact ih q hq

/-- A read after a write to the same key. -/
@[simp] theorem tabGet_tabSet_self [DecidableEq α] (d : α) (k : Nat) (v : α) (t : List (Nat × α)) :
    tabGet d k (tabSet d k v t) = v := by
  by_cases h : v = d
  · simp [tabSet, h]
  · simp [tabSet, h, tabGet_tabIns_self d k v _ (tabDel_no_key k t)]

/-- A write leaves every other key. -/
theorem tabGet_tabSet_ne [DecidableEq α] (d : α) {k j : Nat} (v : α) (t : List (Nat × α)) (h : j ≠ k) :
    tabGet d j (tabSet d k v t) = tabGet d j t := by
  by_cases hv : v = d
  · simp [tabSet, hv, tabGet_tabDel_ne d t h]
  · simp [tabSet, hv, tabGet_tabIns_ne d v _ h, tabGet_tabDel_ne d t h]

/-- A table with the canonical form: keys strictly rising, no default listed. -/
def TabWf (d : α) (t : List (Nat × α)) : Prop := t.Pairwise (fun p q => p.1 < q.1) ∧ ∀ p ∈ t, p.2 ≠ d

theorem tabDel_mem {k : Nat} {t : List (Nat × α)} {p : Nat × α} (h : p ∈ tabDel k t) : p ∈ t := by
  induction t with
  | nil => simp [tabDel] at h
  | cons q t ih =>
    obtain ⟨k', v⟩ := q
    by_cases hk : k' = k
    · simp [tabDel, hk] at h; exact List.mem_cons_of_mem _ (ih h)
    · simp only [tabDel, hk, if_false, List.mem_cons] at h
      rcases h with rfl | h
      · simp
      · exact List.mem_cons_of_mem _ (ih h)

theorem tabIns_mem {k : Nat} {v : α} {t : List (Nat × α)} {p : Nat × α} (h : p ∈ tabIns k v t) : p = (k, v) ∨ p ∈ t := by
  induction t with
  | nil => simpa [tabIns] using h
  | cons q t ih =>
    obtain ⟨k', v'⟩ := q
    by_cases hk : k < k'
    · simpa [tabIns, hk] using h
    · simp only [tabIns, hk, if_false, List.mem_cons] at h ⊢
      rcases h with rfl | h
      · simp
      · rcases ih h with h | h <;> simp [h]

theorem tabDel_wf {d : α} (k : Nat) {t : List (Nat × α)} (h : TabWf d t) : TabWf d (tabDel k t) := by
  refine ⟨?_, fun p hp => h.2 p (tabDel_mem hp)⟩
  have h1 := h.1
  clear h
  induction t with
  | nil => simp [tabDel]
  | cons q t ih =>
    obtain ⟨k', v⟩ := q
    rw [List.pairwise_cons] at h1
    by_cases hk : k' = k
    · simpa [tabDel, hk] using ih h1.2
    · simp only [tabDel, hk, if_false, List.pairwise_cons]
      exact ⟨fun p hp => h1.1 p (tabDel_mem hp), ih h1.2⟩

theorem tabIns_wf {d : α} {k : Nat} {v : α} {t : List (Nat × α)} (hv : v ≠ d) (hk : ∀ p ∈ t, p.1 ≠ k) (h : TabWf d t) :
    TabWf d (tabIns k v t) := by
  refine ⟨?_, fun p hp => ?_⟩
  · have h1 := h.1
    clear h
    induction t with
    | nil => simp [tabIns]
    | cons q t ih =>
      obtain ⟨k', v'⟩ := q
      rw [List.pairwise_cons] at h1
      have hk' : k' ≠ k := hk (k', v') (by simp)
      by_cases hlt : k < k'
      · simp only [tabIns, hlt, if_true, List.pairwise_cons, List.mem_cons]
        refine ⟨?_, ?_, h1.2⟩
        · rintro p (rfl | hp)
          · exact hlt
          · exact Nat.lt_trans hlt (h1.1 p hp)
        · exact fun p hp => h1.1 p hp
      · simp only [tabIns, hlt, if_false, List.pairwise_cons]
        refine ⟨fun p hp => ?_, ih (fun p hp => hk p (by simp [hp])) h1.2⟩
        rcases tabIns_mem hp with rfl | hp
        · show k' < k
          omega
        · exact h1.1 p hp
  · rcases tabIns_mem hp with rfl | hp
    · exact hv
    · exact h.2 p hp

/-- A write keeps the canonical form. -/
theorem tabSet_wf [DecidableEq α] {d : α} (k : Nat) (v : α) {t : List (Nat × α)} (h : TabWf d t) : TabWf d (tabSet d k v t) := by
  by_cases hv : v = d
  · simpa [tabSet, hv] using tabDel_wf k h
  · simpa [tabSet, hv] using tabIns_wf hv (tabDel_no_key k t) (tabDel_wf k h)

/-- Leaving entries out keeps the canonical form. -/
theorem TabWf.filter {d : α} {t : List (Nat × α)} (p : Nat × α → Bool) (h : TabWf d t) : TabWf d (t.filter p) :=
  ⟨h.1.filter p, fun q hq => h.2 q (List.mem_of_mem_filter hq)⟩

end Sys2Proof.Machine
end

