-- ==== Sys2Proof/Laws/Memory.lean ====
section
/-! SUPPORT. The laws of memory: a read after a write, and that every memory operation keeps the canonical form. -/

namespace Sys2Proof.Machine

open Sys2Proof

/-- The canonical form as a table's. -/
theorem memory_wf_iff (m : List Host.Cell) : Memory.wf m = true ↔ TabWf memDefault m := by
  induction m with
  | nil => simp [Memory.wf, TabWf]
  | cons p m ih =>
    obtain ⟨a, b⟩ := p
    cases m with
    | nil => simp [Memory.wf, TabWf]
    | cons q m =>
      obtain ⟨a', b'⟩ := q
      simp only [Memory.wf, Bool.and_eq_true, bne_iff_ne, ne_eq, decide_eq_true_eq, ih]
      simp only [TabWf, List.pairwise_cons, List.mem_cons]
      constructor
      · rintro ⟨⟨hb, ha⟩, ⟨h1, h2⟩, h3⟩
        refine ⟨⟨?_, h1, h2⟩, ?_⟩
        · rintro p (rfl | hp)
          · exact ha
          · exact Nat.lt_trans ha (h1 p hp)
        · rintro p (rfl | hp)
          · exact hb
          · exact h3 p hp
      · rintro ⟨⟨h0, h1, h2⟩, h3⟩
        exact ⟨⟨h3 _ (Or.inl rfl), h0 _ (Or.inl rfl)⟩, ⟨h1, h2⟩, fun p hp => h3 p (Or.inr hp)⟩

/-- A byte reads back. -/
@[simp] theorem memRead_memWrite_self (m : List Host.Cell) (a : Nat) (b : Byte) : memRead (memWrite m a b) a = b := by
  simp [memRead, memWrite]

/-- A write of one byte leaves every other byte. -/
theorem memRead_memWrite_ne (m : List Host.Cell) {a x : Nat} (b : Byte) (h : x ≠ a) :
    memRead (memWrite m a b) x = memRead m x := tabGet_tabSet_ne _ _ _ h

/-- A write of one byte keeps the canonical form. -/
theorem memWrite_wf {m : List Host.Cell} (a : Nat) (b : Byte) (h : Memory.wf m = true) : Memory.wf (memWrite m a b) = true :=
  (memory_wf_iff _).2 (tabSet_wf a b ((memory_wf_iff _).1 h))

/-- A write of bytes leaves every byte outside. -/
theorem memRead_memPut_out (bs : List Byte) (m : List Host.Cell) {a x : Nat} (h : x < a ∨ a + bs.length ≤ x) :
    memRead (memPut m a bs) x = memRead m x := by
  induction bs generalizing m a with
  | nil => rfl
  | cons b bs ih =>
    rw [List.length_cons] at h
    rw [memPut, ih _ (by omega), memRead_memWrite_ne _ _ (by omega)]

/-- Written bytes read back. -/
theorem memRead_memPut_in (bs : List Byte) (m : List Host.Cell) {a i : Nat} (h : i < bs.length) :
    memRead (memPut m a bs) (a + i) = bs[i] := by
  induction bs generalizing m a i with
  | nil => exact absurd h (Nat.not_lt_zero _)
  | cons b bs ih =>
    cases i with
    | zero => simp [memPut, memRead_memPut_out]
    | succ i =>
      have hi : i < bs.length := by simpa using h
      have := ih (m := memWrite m a b) (a := a + 1) hi
      rw [memPut, show a + (i + 1) = a + 1 + i by omega, this]
      simp

/-- A write of bytes keeps the canonical form. -/
theorem memPut_wf (bs : List Byte) {m : List Host.Cell} (a : Nat) (h : Memory.wf m = true) : Memory.wf (memPut m a bs) = true := by
  induction bs generalizing m a with
  | nil => exact h
  | cons b bs ih => exact ih _ (memWrite_wf a b h)

/-- Leaving cells out (a frame cleared, an area dropped) keeps the canonical form. -/
theorem memFilter_wf {m : List Host.Cell} (p : Host.Cell → Bool) (h : Memory.wf m = true) : Memory.wf (m.filter p) = true :=
  (memory_wf_iff _).2 (((memory_wf_iff _).1 h).filter p)

/-- A fold of writes keeps the canonical form. -/
theorem memFold_wf {β : Type} (f : List Host.Cell → β → List Host.Cell) (hf : ∀ m x, Memory.wf m = true → Memory.wf (f m x) = true)
    (l : List β) {m : List Host.Cell} (h : Memory.wf m = true) : Memory.wf (l.foldl f m) = true := by
  induction l generalizing m with
  | nil => exact h
  | cons x l ih => exact ih (hf m x h)

/-- The pieces of a write keep the canonical form. -/
theorem putPieces_wf (ps : List Piece) {m : List Host.Cell} (h : Memory.wf m = true) : Memory.wf (putPieces m ps) = true :=
  memFold_wf _ (fun _ p hm => memPut_wf p.2.1 p.1 hm) ps h

/-- A read-modify-write keeps the canonical form. -/
theorem applyRmw_wf (pa : Nat) (fn : Rmw) (x y : W32) (t : Nat) {r : Applied} (h : Memory.wf r.mem = true) :
    Memory.wf (applyRmw pa fn x y t r).mem = true := by
  unfold applyRmw
  dsimp only
  split
  · exact h
  · split
    · exact memPut_wf _ _ h
    · exact h

/-- The parts of a write keep the canonical form. -/
theorem applyParts_wf (l : List WPart) {mem : List Host.Cell} (mp : List Nat) (h : Memory.wf mem = true) :
    Memory.wf (applyParts l mem mp).mem = true := by
  unfold applyParts
  have h0 : ∀ (l' : List WPart) (r : Applied), Memory.wf r.mem = true → Memory.wf (l'.foldl (fun r p => match p with
      | .store _ _ _ => r
      | .rmw pa fn x y t => applyRmw pa fn x y t r) r).mem = true := by
    intro l'
    induction l' with
    | nil => exact fun r h => h
    | cons p l' ih =>
      intro r hr
      apply ih
      cases p with
      | store _ _ _ => exact hr
      | rmw pa fn x y t => exact applyRmw_wf pa fn x y t hr
  exact h0 l _ (putPieces_wf _ h)

end Sys2Proof.Machine
end

