-- ==== Sys2Proof/Laws/State.lean ====
section
/-! SUPPORT. One lemma per field per update: what each shared update of the state leaves, so that no later proof unfolds a
record update. -/

namespace Sys2Proof.Machine

open Sys2Proof

/-! ### State.modW -/

@[simp] theorem State.modW_time (s : State) (f : Warp → Warp) : (s.modW f).time = s.time := rfl
@[simp] theorem State.modW_tick (s : State) (f : Warp → Warp) : (s.modW f).tick = s.tick := rfl
@[simp] theorem State.modW_nextId (s : State) (f : Warp → Warp) : (s.modW f).nextId = s.nextId := rfl
@[simp] theorem State.modW_agenda (s : State) (f : Warp → Warp) : (s.modW f).agenda = s.agenda := rfl
@[simp] theorem State.modW_last (s : State) (f : Warp → Warp) : (s.modW f).last = s.last := rfl
@[simp] theorem State.modW_ix (s : State) (f : Warp → Warp) : (s.modW f).ix = s.ix := rfl
@[simp] theorem State.modW_core (s : State) (f : Warp → Warp) : (s.modW f).core = s.core := rfl
@[simp] theorem State.modW_team (s : State) (f : Warp → Warp) : (s.modW f).team = s.team := rfl
@[simp] theorem State.modW_ctx (s : State) (f : Warp → Warp) : (s.modW f).ctx = s.ctx := rfl
@[simp] theorem State.modW_ws (s : State) (f : Warp → Warp) : (s.modW f).ws = s.ws := rfl
@[simp] theorem State.modW_cores (s : State) (f : Warp → Warp) : (s.modW f).cores = s.cores := rfl
@[simp] theorem State.modW_teams (s : State) (f : Warp → Warp) : (s.modW f).teams = s.teams := rfl
@[simp] theorem State.modW_ctxs (s : State) (f : Warp → Warp) : (s.modW f).ctxs = s.ctxs := rfl
@[simp] theorem State.modW_parts (s : State) (f : Warp → Warp) : (s.modW f).parts = s.parts := rfl
@[simp] theorem State.modW_mem (s : State) (f : Warp → Warp) : (s.modW f).mem = s.mem := rfl
@[simp] theorem State.modW_mp (s : State) (f : Warp → Warp) : (s.modW f).mp = s.mp := rfl
@[simp] theorem State.modW_lexp (s : State) (f : Warp → Warp) : (s.modW f).lexp = s.lexp := rfl
@[simp] theorem State.modW_writes (s : State) (f : Warp → Warp) : (s.modW f).writes = s.writes := rfl
@[simp] theorem State.modW_walkQ (s : State) (f : Warp → Warp) : (s.modW f).walkQ = s.walkQ := rfl
@[simp] theorem State.modW_shoots (s : State) (f : Warp → Warp) : (s.modW f).shoots = s.shoots := rfl
@[simp] theorem State.modW_chips (s : State) (f : Warp → Warp) : (s.modW f).chips = s.chips := rfl
@[simp] theorem State.modW_orrs (s : State) (f : Warp → Warp) : (s.modW f).orrs = s.orrs := rfl
@[simp] theorem State.modW_saves (s : State) (f : Warp → Warp) : (s.modW f).saves = s.saves := rfl
@[simp] theorem State.modW_attns (s : State) (f : Warp → Warp) : (s.modW f).attns = s.attns := rfl
@[simp] theorem State.modW_colls (s : State) (f : Warp → Warp) : (s.modW f).colls = s.colls := rfl
@[simp] theorem State.modW_launches (s : State) (f : Warp → Warp) : (s.modW f).launches = s.launches := rfl
@[simp] theorem State.modW_queues (s : State) (f : Warp → Warp) : (s.modW f).queues = s.queues := rfl
@[simp] theorem State.modW_ablas (s : State) (f : Warp → Warp) : (s.modW f).ablas = s.ablas := rfl
@[simp] theorem State.modW_snaps (s : State) (f : Warp → Warp) : (s.modW f).snaps = s.snaps := rfl
@[simp] theorem State.modW_dev (s : State) (f : Warp → Warp) : (s.modW f).dev = s.dev := rfl
@[simp] theorem State.modW_corrected (s : State) (f : Warp → Warp) : (s.modW f).corrected = s.corrected := rfl
@[simp] theorem State.modW_uncorrected (s : State) (f : Warp → Warp) : (s.modW f).uncorrected = s.uncorrected := rfl
@[simp] theorem State.modW_meridian (s : State) (f : Warp → Warp) : (s.modW f).meridian = s.meridian := rfl
@[simp] theorem State.modW_dtlb0 (s : State) (f : Warp → Warp) : (s.modW f).dtlb0 = s.dtlb0 := rfl
@[simp] theorem State.modW_dtlb1 (s : State) (f : Warp → Warp) : (s.modW f).dtlb1 = s.dtlb1 := rfl
@[simp] theorem State.modW_dbgs (s : State) (f : Warp → Warp) : (s.modW f).dbgs = s.dbgs := rfl
@[simp] theorem State.modW_errLog (s : State) (f : Warp → Warp) : (s.modW f).errLog = s.errLog := rfl
@[simp] theorem State.modW_dbgLog (s : State) (f : Warp → Warp) : (s.modW f).dbgLog = s.dbgLog := rfl

@[simp] theorem State.modW_w (s : State) (f : Warp → Warp) : (s.modW f).w = f s.w := rfl

/-! ### State.modCur -/

@[simp] theorem State.modCur_time (s : State) (f : Split → Split) : (s.modCur f).time = s.time := rfl
@[simp] theorem State.modCur_tick (s : State) (f : Split → Split) : (s.modCur f).tick = s.tick := rfl
@[simp] theorem State.modCur_nextId (s : State) (f : Split → Split) : (s.modCur f).nextId = s.nextId := rfl
@[simp] theorem State.modCur_agenda (s : State) (f : Split → Split) : (s.modCur f).agenda = s.agenda := rfl
@[simp] theorem State.modCur_last (s : State) (f : Split → Split) : (s.modCur f).last = s.last := rfl
@[simp] theorem State.modCur_ix (s : State) (f : Split → Split) : (s.modCur f).ix = s.ix := rfl
@[simp] theorem State.modCur_core (s : State) (f : Split → Split) : (s.modCur f).core = s.core := rfl
@[simp] theorem State.modCur_team (s : State) (f : Split → Split) : (s.modCur f).team = s.team := rfl
@[simp] theorem State.modCur_ctx (s : State) (f : Split → Split) : (s.modCur f).ctx = s.ctx := rfl
@[simp] theorem State.modCur_ws (s : State) (f : Split → Split) : (s.modCur f).ws = s.ws := rfl
@[simp] theorem State.modCur_cores (s : State) (f : Split → Split) : (s.modCur f).cores = s.cores := rfl
@[simp] theorem State.modCur_teams (s : State) (f : Split → Split) : (s.modCur f).teams = s.teams := rfl
@[simp] theorem State.modCur_ctxs (s : State) (f : Split → Split) : (s.modCur f).ctxs = s.ctxs := rfl
@[simp] theorem State.modCur_parts (s : State) (f : Split → Split) : (s.modCur f).parts = s.parts := rfl
@[simp] theorem State.modCur_mem (s : State) (f : Split → Split) : (s.modCur f).mem = s.mem := rfl
@[simp] theorem State.modCur_mp (s : State) (f : Split → Split) : (s.modCur f).mp = s.mp := rfl
@[simp] theorem State.modCur_lexp (s : State) (f : Split → Split) : (s.modCur f).lexp = s.lexp := rfl
@[simp] theorem State.modCur_writes (s : State) (f : Split → Split) : (s.modCur f).writes = s.writes := rfl
@[simp] theorem State.modCur_walkQ (s : State) (f : Split → Split) : (s.modCur f).walkQ = s.walkQ := rfl
@[simp] theorem State.modCur_shoots (s : State) (f : Split → Split) : (s.modCur f).shoots = s.shoots := rfl
@[simp] theorem State.modCur_chips (s : State) (f : Split → Split) : (s.modCur f).chips = s.chips := rfl
@[simp] theorem State.modCur_orrs (s : State) (f : Split → Split) : (s.modCur f).orrs = s.orrs := rfl
@[simp] theorem State.modCur_saves (s : State) (f : Split → Split) : (s.modCur f).saves = s.saves := rfl
@[simp] theorem State.modCur_attns (s : State) (f : Split → Split) : (s.modCur f).attns = s.attns := rfl
@[simp] theorem State.modCur_colls (s : State) (f : Split → Split) : (s.modCur f).colls = s.colls := rfl
@[simp] theorem State.modCur_launches (s : State) (f : Split → Split) : (s.modCur f).launches = s.launches := rfl
@[simp] theorem State.modCur_queues (s : State) (f : Split → Split) : (s.modCur f).queues = s.queues := rfl
@[simp] theorem State.modCur_ablas (s : State) (f : Split → Split) : (s.modCur f).ablas = s.ablas := rfl
@[simp] theorem State.modCur_snaps (s : State) (f : Split → Split) : (s.modCur f).snaps = s.snaps := rfl
@[simp] theorem State.modCur_dev (s : State) (f : Split → Split) : (s.modCur f).dev = s.dev := rfl
@[simp] theorem State.modCur_corrected (s : State) (f : Split → Split) : (s.modCur f).corrected = s.corrected := rfl
@[simp] theorem State.modCur_uncorrected (s : State) (f : Split → Split) : (s.modCur f).uncorrected = s.uncorrected := rfl
@[simp] theorem State.modCur_meridian (s : State) (f : Split → Split) : (s.modCur f).meridian = s.meridian := rfl
@[simp] theorem State.modCur_dtlb0 (s : State) (f : Split → Split) : (s.modCur f).dtlb0 = s.dtlb0 := rfl
@[simp] theorem State.modCur_dtlb1 (s : State) (f : Split → Split) : (s.modCur f).dtlb1 = s.dtlb1 := rfl
@[simp] theorem State.modCur_dbgs (s : State) (f : Split → Split) : (s.modCur f).dbgs = s.dbgs := rfl
@[simp] theorem State.modCur_errLog (s : State) (f : Split → Split) : (s.modCur f).errLog = s.errLog := rfl
@[simp] theorem State.modCur_dbgLog (s : State) (f : Split → Split) : (s.modCur f).dbgLog = s.dbgLog := rfl

@[simp] theorem State.modCur_w (s : State) (f : Split → Split) : (s.modCur f).w = { s.w with cur := f s.w.cur } := rfl

/-! ### finish -/

@[simp] theorem finish_time (s : State) : (finish s).time = s.time := rfl
@[simp] theorem finish_tick (s : State) : (finish s).tick = s.tick := rfl
@[simp] theorem finish_nextId (s : State) : (finish s).nextId = s.nextId := rfl
@[simp] theorem finish_agenda (s : State) : (finish s).agenda = s.agenda := rfl
@[simp] theorem finish_last (s : State) : (finish s).last = s.last := rfl
@[simp] theorem finish_core (s : State) : (finish s).core = s.core := rfl
@[simp] theorem finish_team (s : State) : (finish s).team = s.team := rfl
@[simp] theorem finish_ctx (s : State) : (finish s).ctx = s.ctx := rfl
@[simp] theorem finish_ws (s : State) : (finish s).ws = s.ws := rfl
@[simp] theorem finish_cores (s : State) : (finish s).cores = s.cores := rfl
@[simp] theorem finish_teams (s : State) : (finish s).teams = s.teams := rfl
@[simp] theorem finish_ctxs (s : State) : (finish s).ctxs = s.ctxs := rfl
@[simp] theorem finish_parts (s : State) : (finish s).parts = s.parts := rfl
@[simp] theorem finish_mem (s : State) : (finish s).mem = s.mem := rfl
@[simp] theorem finish_mp (s : State) : (finish s).mp = s.mp := rfl
@[simp] theorem finish_lexp (s : State) : (finish s).lexp = s.lexp := rfl
@[simp] theorem finish_writes (s : State) : (finish s).writes = s.writes := rfl
@[simp] theorem finish_walkQ (s : State) : (finish s).walkQ = s.walkQ := rfl
@[simp] theorem finish_shoots (s : State) : (finish s).shoots = s.shoots := rfl
@[simp] theorem finish_chips (s : State) : (finish s).chips = s.chips := rfl
@[simp] theorem finish_orrs (s : State) : (finish s).orrs = s.orrs := rfl
@[simp] theorem finish_saves (s : State) : (finish s).saves = s.saves := rfl
@[simp] theorem finish_attns (s : State) : (finish s).attns = s.attns := rfl
@[simp] theorem finish_colls (s : State) : (finish s).colls = s.colls := rfl
@[simp] theorem finish_launches (s : State) : (finish s).launches = s.launches := rfl
@[simp] theorem finish_queues (s : State) : (finish s).queues = s.queues := rfl
@[simp] theorem finish_ablas (s : State) : (finish s).ablas = s.ablas := rfl
@[simp] theorem finish_snaps (s : State) : (finish s).snaps = s.snaps := rfl
@[simp] theorem finish_dev (s : State) : (finish s).dev = s.dev := rfl
@[simp] theorem finish_corrected (s : State) : (finish s).corrected = s.corrected := rfl
@[simp] theorem finish_uncorrected (s : State) : (finish s).uncorrected = s.uncorrected := rfl
@[simp] theorem finish_meridian (s : State) : (finish s).meridian = s.meridian := rfl
@[simp] theorem finish_dtlb0 (s : State) : (finish s).dtlb0 = s.dtlb0 := rfl
@[simp] theorem finish_dtlb1 (s : State) : (finish s).dtlb1 = s.dtlb1 := rfl
@[simp] theorem finish_dbgs (s : State) : (finish s).dbgs = s.dbgs := rfl
@[simp] theorem finish_errLog (s : State) : (finish s).errLog = s.errLog := rfl
@[simp] theorem finish_dbgLog (s : State) : (finish s).dbgLog = s.dbgLog := rfl

@[simp] theorem finish_ix (s : State) : (finish s).ix = { s.ix with retired := true } := rfl
/-- The split after an instruction that completes. -/
def after (s : State) : Split :=
  { s.w.cur with pc := s.ix.next, fresh := [], since := none, place := none, deadline := none, arg := [], skip := false, xlat := 0 }
@[simp] theorem finish_w (s : State) : (finish s).w = { s.w with cur := after s } := rfl
@[simp] theorem after_pc (s : State) : (after s).pc = s.ix.next := rfl
@[simp] theorem after_active (s : State) : (after s).active = s.w.cur.active := rfl
@[simp] theorem after_priv (s : State) : (after s).priv = s.w.cur.priv := rfl

/-! ### finishAt -/

@[simp] theorem finishAt_time (t : W64) (s : State) : (finishAt t s).time = s.time := rfl
@[simp] theorem finishAt_tick (t : W64) (s : State) : (finishAt t s).tick = s.tick := rfl
@[simp] theorem finishAt_nextId (t : W64) (s : State) : (finishAt t s).nextId = s.nextId := rfl
@[simp] theorem finishAt_agenda (t : W64) (s : State) : (finishAt t s).agenda = s.agenda := rfl
@[simp] theorem finishAt_last (t : W64) (s : State) : (finishAt t s).last = s.last := rfl
@[simp] theorem finishAt_core (t : W64) (s : State) : (finishAt t s).core = s.core := rfl
@[simp] theorem finishAt_team (t : W64) (s : State) : (finishAt t s).team = s.team := rfl
@[simp] theorem finishAt_ctx (t : W64) (s : State) : (finishAt t s).ctx = s.ctx := rfl
@[simp] theorem finishAt_ws (t : W64) (s : State) : (finishAt t s).ws = s.ws := rfl
@[simp] theorem finishAt_cores (t : W64) (s : State) : (finishAt t s).cores = s.cores := rfl
@[simp] theorem finishAt_teams (t : W64) (s : State) : (finishAt t s).teams = s.teams := rfl
@[simp] theorem finishAt_ctxs (t : W64) (s : State) : (finishAt t s).ctxs = s.ctxs := rfl
@[simp] theorem finishAt_parts (t : W64) (s : State) : (finishAt t s).parts = s.parts := rfl
@[simp] theorem finishAt_mem (t : W64) (s : State) : (finishAt t s).mem = s.mem := rfl
@[simp] theorem finishAt_mp (t : W64) (s : State) : (finishAt t s).mp = s.mp := rfl
@[simp] theorem finishAt_lexp (t : W64) (s : State) : (finishAt t s).lexp = s.lexp := rfl
@[simp] theorem finishAt_writes (t : W64) (s : State) : (finishAt t s).writes = s.writes := rfl
@[simp] theorem finishAt_walkQ (t : W64) (s : State) : (finishAt t s).walkQ = s.walkQ := rfl
@[simp] theorem finishAt_shoots (t : W64) (s : State) : (finishAt t s).shoots = s.shoots := rfl
@[simp] theorem finishAt_chips (t : W64) (s : State) : (finishAt t s).chips = s.chips := rfl
@[simp] theorem finishAt_orrs (t : W64) (s : State) : (finishAt t s).orrs = s.orrs := rfl
@[simp] theorem finishAt_saves (t : W64) (s : State) : (finishAt t s).saves = s.saves := rfl
@[simp] theorem finishAt_attns (t : W64) (s : State) : (finishAt t s).attns = s.attns := rfl
@[simp] theorem finishAt_colls (t : W64) (s : State) : (finishAt t s).colls = s.colls := rfl
@[simp] theorem finishAt_launches (t : W64) (s : State) : (finishAt t s).launches = s.launches := rfl
@[simp] theorem finishAt_queues (t : W64) (s : State) : (finishAt t s).queues = s.queues := rfl
@[simp] theorem finishAt_ablas (t : W64) (s : State) : (finishAt t s).ablas = s.ablas := rfl
@[simp] theorem finishAt_snaps (t : W64) (s : State) : (finishAt t s).snaps = s.snaps := rfl
@[simp] theorem finishAt_dev (t : W64) (s : State) : (finishAt t s).dev = s.dev := rfl
@[simp] theorem finishAt_corrected (t : W64) (s : State) : (finishAt t s).corrected = s.corrected := rfl
@[simp] theorem finishAt_uncorrected (t : W64) (s : State) : (finishAt t s).uncorrected = s.uncorrected := rfl
@[simp] theorem finishAt_meridian (t : W64) (s : State) : (finishAt t s).meridian = s.meridian := rfl
@[simp] theorem finishAt_dtlb0 (t : W64) (s : State) : (finishAt t s).dtlb0 = s.dtlb0 := rfl
@[simp] theorem finishAt_dtlb1 (t : W64) (s : State) : (finishAt t s).dtlb1 = s.dtlb1 := rfl
@[simp] theorem finishAt_dbgs (t : W64) (s : State) : (finishAt t s).dbgs = s.dbgs := rfl
@[simp] theorem finishAt_errLog (t : W64) (s : State) : (finishAt t s).errLog = s.errLog := rfl
@[simp] theorem finishAt_dbgLog (t : W64) (s : State) : (finishAt t s).dbgLog = s.dbgLog := rfl

/-! ### parkHere -/

@[simp] theorem parkHere_time (s : State) : (parkHere s).time = s.time := rfl
@[simp] theorem parkHere_tick (s : State) : (parkHere s).tick = s.tick := rfl
@[simp] theorem parkHere_nextId (s : State) : (parkHere s).nextId = s.nextId := rfl
@[simp] theorem parkHere_agenda (s : State) : (parkHere s).agenda = s.agenda := rfl
@[simp] theorem parkHere_last (s : State) : (parkHere s).last = s.last := rfl
@[simp] theorem parkHere_ix (s : State) : (parkHere s).ix = s.ix := rfl
@[simp] theorem parkHere_core (s : State) : (parkHere s).core = s.core := rfl
@[simp] theorem parkHere_team (s : State) : (parkHere s).team = s.team := rfl
@[simp] theorem parkHere_ctx (s : State) : (parkHere s).ctx = s.ctx := rfl
@[simp] theorem parkHere_ws (s : State) : (parkHere s).ws = s.ws := rfl
@[simp] theorem parkHere_cores (s : State) : (parkHere s).cores = s.cores := rfl
@[simp] theorem parkHere_teams (s : State) : (parkHere s).teams = s.teams := rfl
@[simp] theorem parkHere_ctxs (s : State) : (parkHere s).ctxs = s.ctxs := rfl
@[simp] theorem parkHere_parts (s : State) : (parkHere s).parts = s.parts := rfl
@[simp] theorem parkHere_mem (s : State) : (parkHere s).mem = s.mem := rfl
@[simp] theorem parkHere_mp (s : State) : (parkHere s).mp = s.mp := rfl
@[simp] theorem parkHere_lexp (s : State) : (parkHere s).lexp = s.lexp := rfl
@[simp] theorem parkHere_writes (s : State) : (parkHere s).writes = s.writes := rfl
@[simp] theorem parkHere_walkQ (s : State) : (parkHere s).walkQ = s.walkQ := rfl
@[simp] theorem parkHere_shoots (s : State) : (parkHere s).shoots = s.shoots := rfl
@[simp] theorem parkHere_chips (s : State) : (parkHere s).chips = s.chips := rfl
@[simp] theorem parkHere_orrs (s : State) : (parkHere s).orrs = s.orrs := rfl
@[simp] theorem parkHere_saves (s : State) : (parkHere s).saves = s.saves := rfl
@[simp] theorem parkHere_attns (s : State) : (parkHere s).attns = s.attns := rfl
@[simp] theorem parkHere_colls (s : State) : (parkHere s).colls = s.colls := rfl
@[simp] theorem parkHere_launches (s : State) : (parkHere s).launches = s.launches := rfl
@[simp] theorem parkHere_queues (s : State) : (parkHere s).queues = s.queues := rfl
@[simp] theorem parkHere_ablas (s : State) : (parkHere s).ablas = s.ablas := rfl
@[simp] theorem parkHere_snaps (s : State) : (parkHere s).snaps = s.snaps := rfl
@[simp] theorem parkHere_dev (s : State) : (parkHere s).dev = s.dev := rfl
@[simp] theorem parkHere_corrected (s : State) : (parkHere s).corrected = s.corrected := rfl
@[simp] theorem parkHere_uncorrected (s : State) : (parkHere s).uncorrected = s.uncorrected := rfl
@[simp] theorem parkHere_meridian (s : State) : (parkHere s).meridian = s.meridian := rfl
@[simp] theorem parkHere_dtlb0 (s : State) : (parkHere s).dtlb0 = s.dtlb0 := rfl
@[simp] theorem parkHere_dtlb1 (s : State) : (parkHere s).dtlb1 = s.dtlb1 := rfl
@[simp] theorem parkHere_dbgs (s : State) : (parkHere s).dbgs = s.dbgs := rfl
@[simp] theorem parkHere_errLog (s : State) : (parkHere s).errLog = s.errLog := rfl
@[simp] theorem parkHere_dbgLog (s : State) : (parkHere s).dbgLog = s.dbgLog := rfl

/-! ### putS -/

@[simp] theorem putS_time {n : Nat} (d : BitVec n) (x : W64) (s : State) : (putS d x s).time = s.time := rfl
@[simp] theorem putS_tick {n : Nat} (d : BitVec n) (x : W64) (s : State) : (putS d x s).tick = s.tick := rfl
@[simp] theorem putS_nextId {n : Nat} (d : BitVec n) (x : W64) (s : State) : (putS d x s).nextId = s.nextId := rfl
@[simp] theorem putS_agenda {n : Nat} (d : BitVec n) (x : W64) (s : State) : (putS d x s).agenda = s.agenda := rfl
@[simp] theorem putS_last {n : Nat} (d : BitVec n) (x : W64) (s : State) : (putS d x s).last = s.last := rfl
@[simp] theorem putS_core {n : Nat} (d : BitVec n) (x : W64) (s : State) : (putS d x s).core = s.core := rfl
@[simp] theorem putS_team {n : Nat} (d : BitVec n) (x : W64) (s : State) : (putS d x s).team = s.team := rfl
@[simp] theorem putS_ctx {n : Nat} (d : BitVec n) (x : W64) (s : State) : (putS d x s).ctx = s.ctx := rfl
@[simp] theorem putS_ws {n : Nat} (d : BitVec n) (x : W64) (s : State) : (putS d x s).ws = s.ws := rfl
@[simp] theorem putS_cores {n : Nat} (d : BitVec n) (x : W64) (s : State) : (putS d x s).cores = s.cores := rfl
@[simp] theorem putS_teams {n : Nat} (d : BitVec n) (x : W64) (s : State) : (putS d x s).teams = s.teams := rfl
@[simp] theorem putS_ctxs {n : Nat} (d : BitVec n) (x : W64) (s : State) : (putS d x s).ctxs = s.ctxs := rfl
@[simp] theorem putS_parts {n : Nat} (d : BitVec n) (x : W64) (s : State) : (putS d x s).parts = s.parts := rfl
@[simp] theorem putS_mem {n : Nat} (d : BitVec n) (x : W64) (s : State) : (putS d x s).mem = s.mem := rfl
@[simp] theorem putS_mp {n : Nat} (d : BitVec n) (x : W64) (s : State) : (putS d x s).mp = s.mp := rfl
@[simp] theorem putS_lexp {n : Nat} (d : BitVec n) (x : W64) (s : State) : (putS d x s).lexp = s.lexp := rfl
@[simp] theorem putS_writes {n : Nat} (d : BitVec n) (x : W64) (s : State) : (putS d x s).writes = s.writes := rfl
@[simp] theorem putS_walkQ {n : Nat} (d : BitVec n) (x : W64) (s : State) : (putS d x s).walkQ = s.walkQ := rfl
@[simp] theorem putS_shoots {n : Nat} (d : BitVec n) (x : W64) (s : State) : (putS d x s).shoots = s.shoots := rfl
@[simp] theorem putS_chips {n : Nat} (d : BitVec n) (x : W64) (s : State) : (putS d x s).chips = s.chips := rfl
@[simp] theorem putS_orrs {n : Nat} (d : BitVec n) (x : W64) (s : State) : (putS d x s).orrs = s.orrs := rfl
@[simp] theorem putS_saves {n : Nat} (d : BitVec n) (x : W64) (s : State) : (putS d x s).saves = s.saves := rfl
@[simp] theorem putS_attns {n : Nat} (d : BitVec n) (x : W64) (s : State) : (putS d x s).attns = s.attns := rfl
@[simp] theorem putS_colls {n : Nat} (d : BitVec n) (x : W64) (s : State) : (putS d x s).colls = s.colls := rfl
@[simp] theorem putS_launches {n : Nat} (d : BitVec n) (x : W64) (s : State) : (putS d x s).launches = s.launches := rfl
@[simp] theorem putS_queues {n : Nat} (d : BitVec n) (x : W64) (s : State) : (putS d x s).queues = s.queues := rfl
@[simp] theorem putS_ablas {n : Nat} (d : BitVec n) (x : W64) (s : State) : (putS d x s).ablas = s.ablas := rfl
@[simp] theorem putS_snaps {n : Nat} (d : BitVec n) (x : W64) (s : State) : (putS d x s).snaps = s.snaps := rfl
@[simp] theorem putS_dev {n : Nat} (d : BitVec n) (x : W64) (s : State) : (putS d x s).dev = s.dev := rfl
@[simp] theorem putS_corrected {n : Nat} (d : BitVec n) (x : W64) (s : State) : (putS d x s).corrected = s.corrected := rfl
@[simp] theorem putS_uncorrected {n : Nat} (d : BitVec n) (x : W64) (s : State) : (putS d x s).uncorrected = s.uncorrected := rfl
@[simp] theorem putS_meridian {n : Nat} (d : BitVec n) (x : W64) (s : State) : (putS d x s).meridian = s.meridian := rfl
@[simp] theorem putS_dtlb0 {n : Nat} (d : BitVec n) (x : W64) (s : State) : (putS d x s).dtlb0 = s.dtlb0 := rfl
@[simp] theorem putS_dtlb1 {n : Nat} (d : BitVec n) (x : W64) (s : State) : (putS d x s).dtlb1 = s.dtlb1 := rfl
@[simp] theorem putS_dbgs {n : Nat} (d : BitVec n) (x : W64) (s : State) : (putS d x s).dbgs = s.dbgs := rfl
@[simp] theorem putS_errLog {n : Nat} (d : BitVec n) (x : W64) (s : State) : (putS d x s).errLog = s.errLog := rfl
@[simp] theorem putS_dbgLog {n : Nat} (d : BitVec n) (x : W64) (s : State) : (putS d x s).dbgLog = s.dbgLog := rfl

@[simp] theorem putS_ix {n : Nat} (d : BitVec n) (x : W64) (s : State) : (putS d x s).ix = { s.ix with retired := true } := rfl
@[simp] theorem putS_w {n : Nat} (d : BitVec n) (x : W64) (s : State) :
    (putS d x s).w = { s.w.sSet d.toNat x with cur := { (s.w.sSet d.toNat x).cur with
      pc := s.ix.next, fresh := [], since := none, place := none, deadline := none, arg := [], skip := false, xlat := 0 } } := rfl

/-! ### Warp.sSet -/

@[simp] theorem Warp.sSet_uid (w : Warp) (n : Nat) (x : W64) : (w.sSet n x).uid = w.uid := by unfold Warp.sSet; split <;> rfl
@[simp] theorem Warp.sSet_core (w : Warp) (n : Nat) (x : W64) : (w.sSet n x).core = w.core := by unfold Warp.sSet; split <;> rfl
@[simp] theorem Warp.sSet_slot (w : Warp) (n : Nat) (x : W64) : (w.sSet n x).slot = w.slot := by unfold Warp.sSet; split <;> rfl
@[simp] theorem Warp.sSet_lane (w : Warp) (n : Nat) (x : W64) : (w.sSet n x).lane = w.lane := by unfold Warp.sSet; split <;> rfl
@[simp] theorem Warp.sSet_saved (w : Warp) (n : Nat) (x : W64) : (w.sSet n x).saved = w.saved := by unfold Warp.sSet; split <;> rfl
@[simp] theorem Warp.sSet_team (w : Warp) (n : Nat) (x : W64) : (w.sSet n x).team = w.team := by unfold Warp.sSet; split <;> rfl
@[simp] theorem Warp.sSet_wid (w : Warp) (n : Nat) (x : W64) : (w.sSet n x).wid = w.wid := by unfold Warp.sSet; split <;> rfl
@[simp] theorem Warp.sSet_dawn (w : Warp) (n : Nat) (x : W64) : (w.sSet n x).dawn = w.dawn := by unfold Warp.sSet; split <;> rfl
@[simp] theorem Warp.sSet_ended (w : Warp) (n : Nat) (x : W64) : (w.sSet n x).ended = w.ended := by unfold Warp.sSet; split <;> rfl
@[simp] theorem Warp.sSet_slotHeld (w : Warp) (n : Nat) (x : W64) : (w.sSet n x).slotHeld = w.slotHeld := by unfold Warp.sSet; split <;> rfl
@[simp] theorem Warp.sSet_cur (w : Warp) (n : Nat) (x : W64) : (w.sSet n x).cur = w.cur := by unfold Warp.sSet; split <;> rfl
@[simp] theorem Warp.sSet_others (w : Warp) (n : Nat) (x : W64) : (w.sSet n x).others = w.others := by unfold Warp.sSet; split <;> rfl
@[simp] theorem Warp.sSet_lastSplit (w : Warp) (n : Nat) (x : W64) : (w.sSet n x).lastSplit = w.lastSplit := by unfold Warp.sSet; split <;> rfl
@[simp] theorem Warp.sSet_lastIssue (w : Warp) (n : Nat) (x : W64) : (w.sSet n x).lastIssue = w.lastIssue := by unfold Warp.sSet; split <;> rfl
@[simp] theorem Warp.sSet_stack (w : Warp) (n : Nat) (x : W64) : (w.sSet n x).stack = w.stack := by unfold Warp.sSet; split <;> rfl
@[simp] theorem Warp.sSet_v (w : Warp) (n : Nat) (x : W64) : (w.sSet n x).v = w.v := by unfold Warp.sSet; split <;> rfl
@[simp] theorem Warp.sSet_vp (w : Warp) (n : Nat) (x : W64) : (w.sSet n x).vp = w.vp := by unfold Warp.sSet; split <;> rfl
@[simp] theorem Warp.sSet_bound (w : Warp) (n : Nat) (x : W64) : (w.sSet n x).bound = w.bound := by unfold Warp.sSet; split <;> rfl
@[simp] theorem Warp.sSet_spilled (w : Warp) (n : Nat) (x : W64) : (w.sSet n x).spilled = w.spilled := by unfold Warp.sSet; split <;> rfl
@[simp] theorem Warp.sSet_k (w : Warp) (n : Nat) (x : W64) : (w.sSet n x).k = w.k := by unfold Warp.sSet; split <;> rfl
@[simp] theorem Warp.sSet_td (w : Warp) (n : Nat) (x : W64) : (w.sSet n x).td = w.td := by unfold Warp.sSet; split <;> rfl
@[simp] theorem Warp.sSet_fz (w : Warp) (n : Nat) (x : W64) : (w.sSet n x).fz = w.fz := by unfold Warp.sSet; split <;> rfl
@[simp] theorem Warp.sSet_fn (w : Warp) (n : Nat) (x : W64) : (w.sSet n x).fn = w.fn := by unfold Warp.sSet; split <;> rfl
@[simp] theorem Warp.sSet_fc (w : Warp) (n : Nat) (x : W64) : (w.sSet n x).fc = w.fc := by unfold Warp.sSet; split <;> rfl
@[simp] theorem Warp.sSet_fv (w : Warp) (n : Nat) (x : W64) : (w.sSet n x).fv = w.fv := by unfold Warp.sSet; split <;> rfl
@[simp] theorem Warp.sSet_blocks (w : Warp) (n : Nat) (x : W64) : (w.sSet n x).blocks = w.blocks := by unfold Warp.sSet; split <;> rfl
@[simp] theorem Warp.sSet_part (w : Warp) (n : Nat) (x : W64) : (w.sSet n x).part = w.part := by unfold Warp.sSet; split <;> rfl
@[simp] theorem Warp.sSet_rnd (w : Warp) (n : Nat) (x : W64) : (w.sSet n x).rnd = w.rnd := by unfold Warp.sSet; split <;> rfl
@[simp] theorem Warp.sSet_flush (w : Warp) (n : Nat) (x : W64) : (w.sSet n x).flush = w.flush := by unfold Warp.sSet; split <;> rfl
@[simp] theorem Warp.sSet_fpx (w : Warp) (n : Nat) (x : W64) : (w.sSet n x).fpx = w.fpx := by unfold Warp.sSet; split <;> rfl
@[simp] theorem Warp.sSet_fpe (w : Warp) (n : Nat) (x : W64) : (w.sSet n x).fpe = w.fpe := by unfold Warp.sSet; split <;> rfl
@[simp] theorem Warp.sSet_tvec (w : Warp) (n : Nat) (x : W64) : (w.sSet n x).tvec = w.tvec := by unfold Warp.sSet; split <;> rfl
@[simp] theorem Warp.sSet_trap (w : Warp) (n : Nat) (x : W64) : (w.sSet n x).trap = w.trap := by unfold Warp.sSet; split <;> rfl
@[simp] theorem Warp.sSet_frame (w : Warp) (n : Nat) (x : W64) : (w.sSet n x).frame = w.frame := by unfold Warp.sSet; split <;> rfl
@[simp] theorem Warp.sSet_ah (w : Warp) (n : Nat) (x : W64) : (w.sSet n x).ah = w.ah := by unfold Warp.sSet; split <;> rfl
@[simp] theorem Warp.sSet_wmax (w : Warp) (n : Nat) (x : W64) : (w.sSet n x).wmax = w.wmax := by unfold Warp.sSet; split <;> rfl
@[simp] theorem Warp.sSet_mon (w : Warp) (n : Nat) (x : W64) : (w.sSet n x).mon = w.mon := by unfold Warp.sSet; split <;> rfl
@[simp] theorem Warp.sSet_ops (w : Warp) (n : Nat) (x : W64) : (w.sSet n x).ops = w.ops := by unfold Warp.sSet; split <;> rfl
@[simp] theorem Warp.sSet_issued (w : Warp) (n : Nat) (x : W64) : (w.sSet n x).issued = w.issued := by unfold Warp.sSet; split <;> rfl
@[simp] theorem Warp.sSet_fails (w : Warp) (n : Nat) (x : W64) : (w.sSet n x).fails = w.fails := by unfold Warp.sSet; split <;> rfl
@[simp] theorem Warp.sSet_watchEvents (w : Warp) (n : Nat) (x : W64) : (w.sSet n x).watchEvents = w.watchEvents := by unfold Warp.sSet; split <;> rfl
@[simp] theorem Warp.sSet_latch (w : Warp) (n : Nat) (x : W64) : (w.sSet n x).latch = w.latch := by unfold Warp.sSet; split <;> rfl
@[simp] theorem Warp.sSet_upcall (w : Warp) (n : Nat) (x : W64) : (w.sSet n x).upcall = w.upcall := by unfold Warp.sSet; split <;> rfl
@[simp] theorem Warp.sSet_walks (w : Warp) (n : Nat) (x : W64) : (w.sSet n x).walks = w.walks := by unfold Warp.sSet; split <;> rfl
@[simp] theorem Warp.sSet_cancels (w : Warp) (n : Nat) (x : W64) : (w.sSet n x).cancels = w.cancels := by unfold Warp.sSet; split <;> rfl
@[simp] theorem Warp.sSet_collNo (w : Warp) (n : Nat) (x : W64) : (w.sSet n x).collNo = w.collNo := by unfold Warp.sSet; split <;> rfl

/-! ### Warp.kSet -/

@[simp] theorem Warp.kSet_uid (w : Warp) (n : Nat) (m x : W32) : (w.kSet n m x).uid = w.uid := by unfold Warp.kSet; split <;> rfl
@[simp] theorem Warp.kSet_core (w : Warp) (n : Nat) (m x : W32) : (w.kSet n m x).core = w.core := by unfold Warp.kSet; split <;> rfl
@[simp] theorem Warp.kSet_slot (w : Warp) (n : Nat) (m x : W32) : (w.kSet n m x).slot = w.slot := by unfold Warp.kSet; split <;> rfl
@[simp] theorem Warp.kSet_lane (w : Warp) (n : Nat) (m x : W32) : (w.kSet n m x).lane = w.lane := by unfold Warp.kSet; split <;> rfl
@[simp] theorem Warp.kSet_saved (w : Warp) (n : Nat) (m x : W32) : (w.kSet n m x).saved = w.saved := by unfold Warp.kSet; split <;> rfl
@[simp] theorem Warp.kSet_team (w : Warp) (n : Nat) (m x : W32) : (w.kSet n m x).team = w.team := by unfold Warp.kSet; split <;> rfl
@[simp] theorem Warp.kSet_wid (w : Warp) (n : Nat) (m x : W32) : (w.kSet n m x).wid = w.wid := by unfold Warp.kSet; split <;> rfl
@[simp] theorem Warp.kSet_dawn (w : Warp) (n : Nat) (m x : W32) : (w.kSet n m x).dawn = w.dawn := by unfold Warp.kSet; split <;> rfl
@[simp] theorem Warp.kSet_ended (w : Warp) (n : Nat) (m x : W32) : (w.kSet n m x).ended = w.ended := by unfold Warp.kSet; split <;> rfl
@[simp] theorem Warp.kSet_slotHeld (w : Warp) (n : Nat) (m x : W32) : (w.kSet n m x).slotHeld = w.slotHeld := by unfold Warp.kSet; split <;> rfl
@[simp] theorem Warp.kSet_cur (w : Warp) (n : Nat) (m x : W32) : (w.kSet n m x).cur = w.cur := by unfold Warp.kSet; split <;> rfl
@[simp] theorem Warp.kSet_others (w : Warp) (n : Nat) (m x : W32) : (w.kSet n m x).others = w.others := by unfold Warp.kSet; split <;> rfl
@[simp] theorem Warp.kSet_lastSplit (w : Warp) (n : Nat) (m x : W32) : (w.kSet n m x).lastSplit = w.lastSplit := by unfold Warp.kSet; split <;> rfl
@[simp] theorem Warp.kSet_lastIssue (w : Warp) (n : Nat) (m x : W32) : (w.kSet n m x).lastIssue = w.lastIssue := by unfold Warp.kSet; split <;> rfl
@[simp] theorem Warp.kSet_stack (w : Warp) (n : Nat) (m x : W32) : (w.kSet n m x).stack = w.stack := by unfold Warp.kSet; split <;> rfl
@[simp] theorem Warp.kSet_v (w : Warp) (n : Nat) (m x : W32) : (w.kSet n m x).v = w.v := by unfold Warp.kSet; split <;> rfl
@[simp] theorem Warp.kSet_vp (w : Warp) (n : Nat) (m x : W32) : (w.kSet n m x).vp = w.vp := by unfold Warp.kSet; split <;> rfl
@[simp] theorem Warp.kSet_bound (w : Warp) (n : Nat) (m x : W32) : (w.kSet n m x).bound = w.bound := by unfold Warp.kSet; split <;> rfl
@[simp] theorem Warp.kSet_spilled (w : Warp) (n : Nat) (m x : W32) : (w.kSet n m x).spilled = w.spilled := by unfold Warp.kSet; split <;> rfl
@[simp] theorem Warp.kSet_s (w : Warp) (n : Nat) (m x : W32) : (w.kSet n m x).s = w.s := by unfold Warp.kSet; split <;> rfl
@[simp] theorem Warp.kSet_td (w : Warp) (n : Nat) (m x : W32) : (w.kSet n m x).td = w.td := by unfold Warp.kSet; split <;> rfl
@[simp] theorem Warp.kSet_fz (w : Warp) (n : Nat) (m x : W32) : (w.kSet n m x).fz = w.fz := by unfold Warp.kSet; split <;> rfl
@[simp] theorem Warp.kSet_fn (w : Warp) (n : Nat) (m x : W32) : (w.kSet n m x).fn = w.fn := by unfold Warp.kSet; split <;> rfl
@[simp] theorem Warp.kSet_fc (w : Warp) (n : Nat) (m x : W32) : (w.kSet n m x).fc = w.fc := by unfold Warp.kSet; split <;> rfl
@[simp] theorem Warp.kSet_fv (w : Warp) (n : Nat) (m x : W32) : (w.kSet n m x).fv = w.fv := by unfold Warp.kSet; split <;> rfl
@[simp] theorem Warp.kSet_blocks (w : Warp) (n : Nat) (m x : W32) : (w.kSet n m x).blocks = w.blocks := by unfold Warp.kSet; split <;> rfl
@[simp] theorem Warp.kSet_part (w : Warp) (n : Nat) (m x : W32) : (w.kSet n m x).part = w.part := by unfold Warp.kSet; split <;> rfl
@[simp] theorem Warp.kSet_rnd (w : Warp) (n : Nat) (m x : W32) : (w.kSet n m x).rnd = w.rnd := by unfold Warp.kSet; split <;> rfl
@[simp] theorem Warp.kSet_flush (w : Warp) (n : Nat) (m x : W32) : (w.kSet n m x).flush = w.flush := by unfold Warp.kSet; split <;> rfl
@[simp] theorem Warp.kSet_fpx (w : Warp) (n : Nat) (m x : W32) : (w.kSet n m x).fpx = w.fpx := by unfold Warp.kSet; split <;> rfl
@[simp] theorem Warp.kSet_fpe (w : Warp) (n : Nat) (m x : W32) : (w.kSet n m x).fpe = w.fpe := by unfold Warp.kSet; split <;> rfl
@[simp] theorem Warp.kSet_tvec (w : Warp) (n : Nat) (m x : W32) : (w.kSet n m x).tvec = w.tvec := by unfold Warp.kSet; split <;> rfl
@[simp] theorem Warp.kSet_trap (w : Warp) (n : Nat) (m x : W32) : (w.kSet n m x).trap = w.trap := by unfold Warp.kSet; split <;> rfl
@[simp] theorem Warp.kSet_frame (w : Warp) (n : Nat) (m x : W32) : (w.kSet n m x).frame = w.frame := by unfold Warp.kSet; split <;> rfl
@[simp] theorem Warp.kSet_ah (w : Warp) (n : Nat) (m x : W32) : (w.kSet n m x).ah = w.ah := by unfold Warp.kSet; split <;> rfl
@[simp] theorem Warp.kSet_wmax (w : Warp) (n : Nat) (m x : W32) : (w.kSet n m x).wmax = w.wmax := by unfold Warp.kSet; split <;> rfl
@[simp] theorem Warp.kSet_mon (w : Warp) (n : Nat) (m x : W32) : (w.kSet n m x).mon = w.mon := by unfold Warp.kSet; split <;> rfl
@[simp] theorem Warp.kSet_ops (w : Warp) (n : Nat) (m x : W32) : (w.kSet n m x).ops = w.ops := by unfold Warp.kSet; split <;> rfl
@[simp] theorem Warp.kSet_issued (w : Warp) (n : Nat) (m x : W32) : (w.kSet n m x).issued = w.issued := by unfold Warp.kSet; split <;> rfl
@[simp] theorem Warp.kSet_fails (w : Warp) (n : Nat) (m x : W32) : (w.kSet n m x).fails = w.fails := by unfold Warp.kSet; split <;> rfl
@[simp] theorem Warp.kSet_watchEvents (w : Warp) (n : Nat) (m x : W32) : (w.kSet n m x).watchEvents = w.watchEvents := by unfold Warp.kSet; split <;> rfl
@[simp] theorem Warp.kSet_latch (w : Warp) (n : Nat) (m x : W32) : (w.kSet n m x).latch = w.latch := by unfold Warp.kSet; split <;> rfl
@[simp] theorem Warp.kSet_upcall (w : Warp) (n : Nat) (m x : W32) : (w.kSet n m x).upcall = w.upcall := by unfold Warp.kSet; split <;> rfl
@[simp] theorem Warp.kSet_walks (w : Warp) (n : Nat) (m x : W32) : (w.kSet n m x).walks = w.walks := by unfold Warp.kSet; split <;> rfl
@[simp] theorem Warp.kSet_cancels (w : Warp) (n : Nat) (m x : W32) : (w.kSet n m x).cancels = w.cancels := by unfold Warp.kSet; split <;> rfl
@[simp] theorem Warp.kSet_collNo (w : Warp) (n : Nat) (m x : W32) : (w.kSet n m x).collNo = w.collNo := by unfold Warp.kSet; split <;> rfl

/-! ### Warp.vSet -/

@[simp] theorem Warp.vSet_uid (w : Warp) (r : Nat) (m : W32) (x : Nat → W32) (p : W32) : (w.vSet r m x p).uid = w.uid := rfl
@[simp] theorem Warp.vSet_core (w : Warp) (r : Nat) (m : W32) (x : Nat → W32) (p : W32) : (w.vSet r m x p).core = w.core := rfl
@[simp] theorem Warp.vSet_slot (w : Warp) (r : Nat) (m : W32) (x : Nat → W32) (p : W32) : (w.vSet r m x p).slot = w.slot := rfl
@[simp] theorem Warp.vSet_lane (w : Warp) (r : Nat) (m : W32) (x : Nat → W32) (p : W32) : (w.vSet r m x p).lane = w.lane := rfl
@[simp] theorem Warp.vSet_saved (w : Warp) (r : Nat) (m : W32) (x : Nat → W32) (p : W32) : (w.vSet r m x p).saved = w.saved := rfl
@[simp] theorem Warp.vSet_team (w : Warp) (r : Nat) (m : W32) (x : Nat → W32) (p : W32) : (w.vSet r m x p).team = w.team := rfl
@[simp] theorem Warp.vSet_wid (w : Warp) (r : Nat) (m : W32) (x : Nat → W32) (p : W32) : (w.vSet r m x p).wid = w.wid := rfl
@[simp] theorem Warp.vSet_dawn (w : Warp) (r : Nat) (m : W32) (x : Nat → W32) (p : W32) : (w.vSet r m x p).dawn = w.dawn := rfl
@[simp] theorem Warp.vSet_ended (w : Warp) (r : Nat) (m : W32) (x : Nat → W32) (p : W32) : (w.vSet r m x p).ended = w.ended := rfl
@[simp] theorem Warp.vSet_slotHeld (w : Warp) (r : Nat) (m : W32) (x : Nat → W32) (p : W32) : (w.vSet r m x p).slotHeld = w.slotHeld := rfl
@[simp] theorem Warp.vSet_cur (w : Warp) (r : Nat) (m : W32) (x : Nat → W32) (p : W32) : (w.vSet r m x p).cur = w.cur := rfl
@[simp] theorem Warp.vSet_others (w : Warp) (r : Nat) (m : W32) (x : Nat → W32) (p : W32) : (w.vSet r m x p).others = w.others := rfl
@[simp] theorem Warp.vSet_lastSplit (w : Warp) (r : Nat) (m : W32) (x : Nat → W32) (p : W32) : (w.vSet r m x p).lastSplit = w.lastSplit := rfl
@[simp] theorem Warp.vSet_lastIssue (w : Warp) (r : Nat) (m : W32) (x : Nat → W32) (p : W32) : (w.vSet r m x p).lastIssue = w.lastIssue := rfl
@[simp] theorem Warp.vSet_stack (w : Warp) (r : Nat) (m : W32) (x : Nat → W32) (p : W32) : (w.vSet r m x p).stack = w.stack := rfl
@[simp] theorem Warp.vSet_spilled (w : Warp) (r : Nat) (m : W32) (x : Nat → W32) (p : W32) : (w.vSet r m x p).spilled = w.spilled := rfl
@[simp] theorem Warp.vSet_s (w : Warp) (r : Nat) (m : W32) (x : Nat → W32) (p : W32) : (w.vSet r m x p).s = w.s := rfl
@[simp] theorem Warp.vSet_k (w : Warp) (r : Nat) (m : W32) (x : Nat → W32) (p : W32) : (w.vSet r m x p).k = w.k := rfl
@[simp] theorem Warp.vSet_td (w : Warp) (r : Nat) (m : W32) (x : Nat → W32) (p : W32) : (w.vSet r m x p).td = w.td := rfl
@[simp] theorem Warp.vSet_fz (w : Warp) (r : Nat) (m : W32) (x : Nat → W32) (p : W32) : (w.vSet r m x p).fz = w.fz := rfl
@[simp] theorem Warp.vSet_fn (w : Warp) (r : Nat) (m : W32) (x : Nat → W32) (p : W32) : (w.vSet r m x p).fn = w.fn := rfl
@[simp] theorem Warp.vSet_fc (w : Warp) (r : Nat) (m : W32) (x : Nat → W32) (p : W32) : (w.vSet r m x p).fc = w.fc := rfl
@[simp] theorem Warp.vSet_fv (w : Warp) (r : Nat) (m : W32) (x : Nat → W32) (p : W32) : (w.vSet r m x p).fv = w.fv := rfl
@[simp] theorem Warp.vSet_blocks (w : Warp) (r : Nat) (m : W32) (x : Nat → W32) (p : W32) : (w.vSet r m x p).blocks = w.blocks := rfl
@[simp] theorem Warp.vSet_part (w : Warp) (r : Nat) (m : W32) (x : Nat → W32) (p : W32) : (w.vSet r m x p).part = w.part := rfl
@[simp] theorem Warp.vSet_rnd (w : Warp) (r : Nat) (m : W32) (x : Nat → W32) (p : W32) : (w.vSet r m x p).rnd = w.rnd := rfl
@[simp] theorem Warp.vSet_flush (w : Warp) (r : Nat) (m : W32) (x : Nat → W32) (p : W32) : (w.vSet r m x p).flush = w.flush := rfl
@[simp] theorem Warp.vSet_fpx (w : Warp) (r : Nat) (m : W32) (x : Nat → W32) (p : W32) : (w.vSet r m x p).fpx = w.fpx := rfl
@[simp] theorem Warp.vSet_fpe (w : Warp) (r : Nat) (m : W32) (x : Nat → W32) (p : W32) : (w.vSet r m x p).fpe = w.fpe := rfl
@[simp] theorem Warp.vSet_tvec (w : Warp) (r : Nat) (m : W32) (x : Nat → W32) (p : W32) : (w.vSet r m x p).tvec = w.tvec := rfl
@[simp] theorem Warp.vSet_trap (w : Warp) (r : Nat) (m : W32) (x : Nat → W32) (p : W32) : (w.vSet r m x p).trap = w.trap := rfl
@[simp] theorem Warp.vSet_frame (w : Warp) (r : Nat) (m : W32) (x : Nat → W32) (p : W32) : (w.vSet r m x p).frame = w.frame := rfl
@[simp] theorem Warp.vSet_ah (w : Warp) (r : Nat) (m : W32) (x : Nat → W32) (p : W32) : (w.vSet r m x p).ah = w.ah := rfl
@[simp] theorem Warp.vSet_wmax (w : Warp) (r : Nat) (m : W32) (x : Nat → W32) (p : W32) : (w.vSet r m x p).wmax = w.wmax := rfl
@[simp] theorem Warp.vSet_mon (w : Warp) (r : Nat) (m : W32) (x : Nat → W32) (p : W32) : (w.vSet r m x p).mon = w.mon := rfl
@[simp] theorem Warp.vSet_issued (w : Warp) (r : Nat) (m : W32) (x : Nat → W32) (p : W32) : (w.vSet r m x p).issued = w.issued := rfl
@[simp] theorem Warp.vSet_fails (w : Warp) (r : Nat) (m : W32) (x : Nat → W32) (p : W32) : (w.vSet r m x p).fails = w.fails := rfl
@[simp] theorem Warp.vSet_watchEvents (w : Warp) (r : Nat) (m : W32) (x : Nat → W32) (p : W32) : (w.vSet r m x p).watchEvents = w.watchEvents := rfl
@[simp] theorem Warp.vSet_latch (w : Warp) (r : Nat) (m : W32) (x : Nat → W32) (p : W32) : (w.vSet r m x p).latch = w.latch := rfl
@[simp] theorem Warp.vSet_upcall (w : Warp) (r : Nat) (m : W32) (x : Nat → W32) (p : W32) : (w.vSet r m x p).upcall = w.upcall := rfl
@[simp] theorem Warp.vSet_walks (w : Warp) (r : Nat) (m : W32) (x : Nat → W32) (p : W32) : (w.vSet r m x p).walks = w.walks := rfl
@[simp] theorem Warp.vSet_cancels (w : Warp) (r : Nat) (m : W32) (x : Nat → W32) (p : W32) : (w.vSet r m x p).cancels = w.cancels := rfl
@[simp] theorem Warp.vSet_collNo (w : Warp) (r : Nat) (m : W32) (x : Nat → W32) (p : W32) : (w.vSet r m x p).collNo = w.collNo := rfl

/-! ### Warp.tdSet -/

@[simp] theorem Warp.tdSet_uid (w : Warp) (n : Nat) (x : Desc) : (w.tdSet n x).uid = w.uid := rfl
@[simp] theorem Warp.tdSet_core (w : Warp) (n : Nat) (x : Desc) : (w.tdSet n x).core = w.core := rfl
@[simp] theorem Warp.tdSet_slot (w : Warp) (n : Nat) (x : Desc) : (w.tdSet n x).slot = w.slot := rfl
@[simp] theorem Warp.tdSet_lane (w : Warp) (n : Nat) (x : Desc) : (w.tdSet n x).lane = w.lane := rfl
@[simp] theorem Warp.tdSet_saved (w : Warp) (n : Nat) (x : Desc) : (w.tdSet n x).saved = w.saved := rfl
@[simp] theorem Warp.tdSet_team (w : Warp) (n : Nat) (x : Desc) : (w.tdSet n x).team = w.team := rfl
@[simp] theorem Warp.tdSet_wid (w : Warp) (n : Nat) (x : Desc) : (w.tdSet n x).wid = w.wid := rfl
@[simp] theorem Warp.tdSet_dawn (w : Warp) (n : Nat) (x : Desc) : (w.tdSet n x).dawn = w.dawn := rfl
@[simp] theorem Warp.tdSet_ended (w : Warp) (n : Nat) (x : Desc) : (w.tdSet n x).ended = w.ended := rfl
@[simp] theorem Warp.tdSet_slotHeld (w : Warp) (n : Nat) (x : Desc) : (w.tdSet n x).slotHeld = w.slotHeld := rfl
@[simp] theorem Warp.tdSet_cur (w : Warp) (n : Nat) (x : Desc) : (w.tdSet n x).cur = w.cur := rfl
@[simp] theorem Warp.tdSet_others (w : Warp) (n : Nat) (x : Desc) : (w.tdSet n x).others = w.others := rfl
@[simp] theorem Warp.tdSet_lastSplit (w : Warp) (n : Nat) (x : Desc) : (w.tdSet n x).lastSplit = w.lastSplit := rfl
@[simp] theorem Warp.tdSet_lastIssue (w : Warp) (n : Nat) (x : Desc) : (w.tdSet n x).lastIssue = w.lastIssue := rfl
@[simp] theorem Warp.tdSet_stack (w : Warp) (n : Nat) (x : Desc) : (w.tdSet n x).stack = w.stack := rfl
@[simp] theorem Warp.tdSet_v (w : Warp) (n : Nat) (x : Desc) : (w.tdSet n x).v = w.v := rfl
@[simp] theorem Warp.tdSet_vp (w : Warp) (n : Nat) (x : Desc) : (w.tdSet n x).vp = w.vp := rfl
@[simp] theorem Warp.tdSet_bound (w : Warp) (n : Nat) (x : Desc) : (w.tdSet n x).bound = w.bound := rfl
@[simp] theorem Warp.tdSet_spilled (w : Warp) (n : Nat) (x : Desc) : (w.tdSet n x).spilled = w.spilled := rfl
@[simp] theorem Warp.tdSet_s (w : Warp) (n : Nat) (x : Desc) : (w.tdSet n x).s = w.s := rfl
@[simp] theorem Warp.tdSet_k (w : Warp) (n : Nat) (x : Desc) : (w.tdSet n x).k = w.k := rfl
@[simp] theorem Warp.tdSet_fz (w : Warp) (n : Nat) (x : Desc) : (w.tdSet n x).fz = w.fz := rfl
@[simp] theorem Warp.tdSet_fn (w : Warp) (n : Nat) (x : Desc) : (w.tdSet n x).fn = w.fn := rfl
@[simp] theorem Warp.tdSet_fc (w : Warp) (n : Nat) (x : Desc) : (w.tdSet n x).fc = w.fc := rfl
@[simp] theorem Warp.tdSet_fv (w : Warp) (n : Nat) (x : Desc) : (w.tdSet n x).fv = w.fv := rfl
@[simp] theorem Warp.tdSet_blocks (w : Warp) (n : Nat) (x : Desc) : (w.tdSet n x).blocks = w.blocks := rfl
@[simp] theorem Warp.tdSet_part (w : Warp) (n : Nat) (x : Desc) : (w.tdSet n x).part = w.part := rfl
@[simp] theorem Warp.tdSet_rnd (w : Warp) (n : Nat) (x : Desc) : (w.tdSet n x).rnd = w.rnd := rfl
@[simp] theorem Warp.tdSet_flush (w : Warp) (n : Nat) (x : Desc) : (w.tdSet n x).flush = w.flush := rfl
@[simp] theorem Warp.tdSet_fpx (w : Warp) (n : Nat) (x : Desc) : (w.tdSet n x).fpx = w.fpx := rfl
@[simp] theorem Warp.tdSet_fpe (w : Warp) (n : Nat) (x : Desc) : (w.tdSet n x).fpe = w.fpe := rfl
@[simp] theorem Warp.tdSet_tvec (w : Warp) (n : Nat) (x : Desc) : (w.tdSet n x).tvec = w.tvec := rfl
@[simp] theorem Warp.tdSet_trap (w : Warp) (n : Nat) (x : Desc) : (w.tdSet n x).trap = w.trap := rfl
@[simp] theorem Warp.tdSet_frame (w : Warp) (n : Nat) (x : Desc) : (w.tdSet n x).frame = w.frame := rfl
@[simp] theorem Warp.tdSet_ah (w : Warp) (n : Nat) (x : Desc) : (w.tdSet n x).ah = w.ah := rfl
@[simp] theorem Warp.tdSet_wmax (w : Warp) (n : Nat) (x : Desc) : (w.tdSet n x).wmax = w.wmax := rfl
@[simp] theorem Warp.tdSet_mon (w : Warp) (n : Nat) (x : Desc) : (w.tdSet n x).mon = w.mon := rfl
@[simp] theorem Warp.tdSet_ops (w : Warp) (n : Nat) (x : Desc) : (w.tdSet n x).ops = w.ops := rfl
@[simp] theorem Warp.tdSet_issued (w : Warp) (n : Nat) (x : Desc) : (w.tdSet n x).issued = w.issued := rfl
@[simp] theorem Warp.tdSet_fails (w : Warp) (n : Nat) (x : Desc) : (w.tdSet n x).fails = w.fails := rfl
@[simp] theorem Warp.tdSet_watchEvents (w : Warp) (n : Nat) (x : Desc) : (w.tdSet n x).watchEvents = w.watchEvents := rfl
@[simp] theorem Warp.tdSet_latch (w : Warp) (n : Nat) (x : Desc) : (w.tdSet n x).latch = w.latch := rfl
@[simp] theorem Warp.tdSet_upcall (w : Warp) (n : Nat) (x : Desc) : (w.tdSet n x).upcall = w.upcall := rfl
@[simp] theorem Warp.tdSet_walks (w : Warp) (n : Nat) (x : Desc) : (w.tdSet n x).walks = w.walks := rfl
@[simp] theorem Warp.tdSet_cancels (w : Warp) (n : Nat) (x : Desc) : (w.tdSet n x).cancels = w.cancels := rfl
@[simp] theorem Warp.tdSet_collNo (w : Warp) (n : Nat) (x : Desc) : (w.tdSet n x).collNo = w.collNo := rfl

/-! ### Taking a trap -/

/-- Bytes written at home change memory and wake monitors. -/
theorem putHome_rest (pa : Nat) (bs : List Byte) (s : State) : ∃ w ws,
    putHome pa bs s = { s with mem := memPut s.mem pa bs, w := w, ws := ws } := by
  have h : ∀ (l : List Nat) (t : State), ∃ w ws, l.foldl (fun s x => wakeMonitors x s) t = { t with w := w, ws := ws } := by
    intro l
    induction l with
    | nil => exact fun t => ⟨_, _, rfl⟩
    | cons x l ih =>
      intro t
      obtain ⟨w, ws, e⟩ := ih (wakeMonitors x t)
      exact ⟨w, ws, e⟩
  exact h _ _

/-- Saving the user frame changes memory and the warps. -/
theorem saveFrame_rest (r : TrapRegs) (s : State) : ∃ mem w ws, saveFrame r s = { s with mem := mem, w := w, ws := ws } := by
  unfold saveFrame
  dsimp only
  split
  · obtain ⟨w, ws, e⟩ := putHome_rest _ _ _
    exact ⟨_, w, ws, e⟩
  · exact ⟨_, _, _, rfl⟩

/-- What a delivery can change at most: the warps, the dawn slot, the two logs and the issue's own record; and memory, where a
user handler's trap registers go to the user frame. -/
theorem deliver_rest (c : Cause) (p : W64) (a : Bool) (s : State) :
    ∃ mem w ws core errLog dbgLog ix, deliver c p a s =
        { s with mem := mem, w := w, ws := ws, core := core, errLog := errLog, dbgLog := dbgLog, ix := ix }
      ∧ (s.w.cur.userH = false → mem = s.mem) := by
  unfold deliver
  split
  · exact ⟨_, _, _, _, _, _, _, rfl, fun _ => rfl⟩
  · split
    · exact ⟨_, _, _, _, _, _, _, rfl, fun _ => rfl⟩
    · split
      · unfold toDebugger
        dsimp only
        split_ifs <;> exact ⟨_, _, _, _, _, _, _, rfl, fun _ => rfl⟩
      · exact ⟨_, _, _, _, _, _, _, rfl, fun _ => rfl⟩
      · exact ⟨_, _, _, _, _, _, _, rfl, fun _ => rfl⟩
      · dsimp only
        split
        · next h =>
          obtain ⟨m, w, ws, e⟩ := saveFrame_rest s.w.trap s
          rw [e]
          exact ⟨_, _, _, _, _, _, _, rfl, fun h' => absurd h (by simp [h'])⟩
        · exact ⟨_, _, _, _, _, _, _, rfl, fun _ => rfl⟩

@[simp] theorem deliver_time (c : Cause) (p : W64) (a : Bool) (s : State) : (deliver c p a s).time = s.time := by
  obtain ⟨_, _, _, _, _, _, _, h, _⟩ := deliver_rest c p a s; rw [h]
@[simp] theorem deliver_tick (c : Cause) (p : W64) (a : Bool) (s : State) : (deliver c p a s).tick = s.tick := by
  obtain ⟨_, _, _, _, _, _, _, h, _⟩ := deliver_rest c p a s; rw [h]
@[simp] theorem deliver_nextId (c : Cause) (p : W64) (a : Bool) (s : State) : (deliver c p a s).nextId = s.nextId := by
  obtain ⟨_, _, _, _, _, _, _, h, _⟩ := deliver_rest c p a s; rw [h]
@[simp] theorem deliver_agenda (c : Cause) (p : W64) (a : Bool) (s : State) : (deliver c p a s).agenda = s.agenda := by
  obtain ⟨_, _, _, _, _, _, _, h, _⟩ := deliver_rest c p a s; rw [h]
@[simp] theorem deliver_last (c : Cause) (p : W64) (a : Bool) (s : State) : (deliver c p a s).last = s.last := by
  obtain ⟨_, _, _, _, _, _, _, h, _⟩ := deliver_rest c p a s; rw [h]
@[simp] theorem deliver_team (c : Cause) (p : W64) (a : Bool) (s : State) : (deliver c p a s).team = s.team := by
  obtain ⟨_, _, _, _, _, _, _, h, _⟩ := deliver_rest c p a s; rw [h]
@[simp] theorem deliver_ctx (c : Cause) (p : W64) (a : Bool) (s : State) : (deliver c p a s).ctx = s.ctx := by
  obtain ⟨_, _, _, _, _, _, _, h, _⟩ := deliver_rest c p a s; rw [h]
@[simp] theorem deliver_cores (c : Cause) (p : W64) (a : Bool) (s : State) : (deliver c p a s).cores = s.cores := by
  obtain ⟨_, _, _, _, _, _, _, h, _⟩ := deliver_rest c p a s; rw [h]
@[simp] theorem deliver_teams (c : Cause) (p : W64) (a : Bool) (s : State) : (deliver c p a s).teams = s.teams := by
  obtain ⟨_, _, _, _, _, _, _, h, _⟩ := deliver_rest c p a s; rw [h]
@[simp] theorem deliver_ctxs (c : Cause) (p : W64) (a : Bool) (s : State) : (deliver c p a s).ctxs = s.ctxs := by
  obtain ⟨_, _, _, _, _, _, _, h, _⟩ := deliver_rest c p a s; rw [h]
@[simp] theorem deliver_parts (c : Cause) (p : W64) (a : Bool) (s : State) : (deliver c p a s).parts = s.parts := by
  obtain ⟨_, _, _, _, _, _, _, h, _⟩ := deliver_rest c p a s; rw [h]
theorem deliver_mem (c : Cause) (p : W64) (a : Bool) (s : State) (hu : s.w.cur.userH = false) : (deliver c p a s).mem = s.mem := by
  obtain ⟨_, _, _, _, _, _, _, h, e⟩ := deliver_rest c p a s; rw [h]; exact e hu
@[simp] theorem deliver_mp (c : Cause) (p : W64) (a : Bool) (s : State) : (deliver c p a s).mp = s.mp := by
  obtain ⟨_, _, _, _, _, _, _, h, _⟩ := deliver_rest c p a s; rw [h]
@[simp] theorem deliver_lexp (c : Cause) (p : W64) (a : Bool) (s : State) : (deliver c p a s).lexp = s.lexp := by
  obtain ⟨_, _, _, _, _, _, _, h, _⟩ := deliver_rest c p a s; rw [h]
@[simp] theorem deliver_writes (c : Cause) (p : W64) (a : Bool) (s : State) : (deliver c p a s).writes = s.writes := by
  obtain ⟨_, _, _, _, _, _, _, h, _⟩ := deliver_rest c p a s; rw [h]
@[simp] theorem deliver_walkQ (c : Cause) (p : W64) (a : Bool) (s : State) : (deliver c p a s).walkQ = s.walkQ := by
  obtain ⟨_, _, _, _, _, _, _, h, _⟩ := deliver_rest c p a s; rw [h]
@[simp] theorem deliver_shoots (c : Cause) (p : W64) (a : Bool) (s : State) : (deliver c p a s).shoots = s.shoots := by
  obtain ⟨_, _, _, _, _, _, _, h, _⟩ := deliver_rest c p a s; rw [h]
@[simp] theorem deliver_chips (c : Cause) (p : W64) (a : Bool) (s : State) : (deliver c p a s).chips = s.chips := by
  obtain ⟨_, _, _, _, _, _, _, h, _⟩ := deliver_rest c p a s; rw [h]
@[simp] theorem deliver_orrs (c : Cause) (p : W64) (a : Bool) (s : State) : (deliver c p a s).orrs = s.orrs := by
  obtain ⟨_, _, _, _, _, _, _, h, _⟩ := deliver_rest c p a s; rw [h]
@[simp] theorem deliver_saves (c : Cause) (p : W64) (a : Bool) (s : State) : (deliver c p a s).saves = s.saves := by
  obtain ⟨_, _, _, _, _, _, _, h, _⟩ := deliver_rest c p a s; rw [h]
@[simp] theorem deliver_attns (c : Cause) (p : W64) (a : Bool) (s : State) : (deliver c p a s).attns = s.attns := by
  obtain ⟨_, _, _, _, _, _, _, h, _⟩ := deliver_rest c p a s; rw [h]
@[simp] theorem deliver_colls (c : Cause) (p : W64) (a : Bool) (s : State) : (deliver c p a s).colls = s.colls := by
  obtain ⟨_, _, _, _, _, _, _, h, _⟩ := deliver_rest c p a s; rw [h]
@[simp] theorem deliver_launches (c : Cause) (p : W64) (a : Bool) (s : State) : (deliver c p a s).launches = s.launches := by
  obtain ⟨_, _, _, _, _, _, _, h, _⟩ := deliver_rest c p a s; rw [h]
@[simp] theorem deliver_queues (c : Cause) (p : W64) (a : Bool) (s : State) : (deliver c p a s).queues = s.queues := by
  obtain ⟨_, _, _, _, _, _, _, h, _⟩ := deliver_rest c p a s; rw [h]
@[simp] theorem deliver_ablas (c : Cause) (p : W64) (a : Bool) (s : State) : (deliver c p a s).ablas = s.ablas := by
  obtain ⟨_, _, _, _, _, _, _, h, _⟩ := deliver_rest c p a s; rw [h]
@[simp] theorem deliver_snaps (c : Cause) (p : W64) (a : Bool) (s : State) : (deliver c p a s).snaps = s.snaps := by
  obtain ⟨_, _, _, _, _, _, _, h, _⟩ := deliver_rest c p a s; rw [h]
@[simp] theorem deliver_dev (c : Cause) (p : W64) (a : Bool) (s : State) : (deliver c p a s).dev = s.dev := by
  obtain ⟨_, _, _, _, _, _, _, h, _⟩ := deliver_rest c p a s; rw [h]
@[simp] theorem deliver_corrected (c : Cause) (p : W64) (a : Bool) (s : State) : (deliver c p a s).corrected = s.corrected := by
  obtain ⟨_, _, _, _, _, _, _, h, _⟩ := deliver_rest c p a s; rw [h]
@[simp] theorem deliver_uncorrected (c : Cause) (p : W64) (a : Bool) (s : State) : (deliver c p a s).uncorrected = s.uncorrected := by
  obtain ⟨_, _, _, _, _, _, _, h, _⟩ := deliver_rest c p a s; rw [h]
@[simp] theorem deliver_meridian (c : Cause) (p : W64) (a : Bool) (s : State) : (deliver c p a s).meridian = s.meridian := by
  obtain ⟨_, _, _, _, _, _, _, h, _⟩ := deliver_rest c p a s; rw [h]
@[simp] theorem deliver_dtlb0 (c : Cause) (p : W64) (a : Bool) (s : State) : (deliver c p a s).dtlb0 = s.dtlb0 := by
  obtain ⟨_, _, _, _, _, _, _, h, _⟩ := deliver_rest c p a s; rw [h]
@[simp] theorem deliver_dtlb1 (c : Cause) (p : W64) (a : Bool) (s : State) : (deliver c p a s).dtlb1 = s.dtlb1 := by
  obtain ⟨_, _, _, _, _, _, _, h, _⟩ := deliver_rest c p a s; rw [h]
@[simp] theorem deliver_dbgs (c : Cause) (p : W64) (a : Bool) (s : State) : (deliver c p a s).dbgs = s.dbgs := by
  obtain ⟨_, _, _, _, _, _, _, h, _⟩ := deliver_rest c p a s; rw [h]
@[simp] theorem takeTrap_time (c : Cause) (s : State) : (takeTrap c s).time = s.time := deliver_time _ _ _ s
@[simp] theorem takeTrap_tick (c : Cause) (s : State) : (takeTrap c s).tick = s.tick := deliver_tick _ _ _ s
@[simp] theorem takeTrap_nextId (c : Cause) (s : State) : (takeTrap c s).nextId = s.nextId := deliver_nextId _ _ _ s
@[simp] theorem takeTrap_agenda (c : Cause) (s : State) : (takeTrap c s).agenda = s.agenda := deliver_agenda _ _ _ s
@[simp] theorem takeTrap_last (c : Cause) (s : State) : (takeTrap c s).last = s.last := deliver_last _ _ _ s
@[simp] theorem takeTrap_team (c : Cause) (s : State) : (takeTrap c s).team = s.team := deliver_team _ _ _ s
@[simp] theorem takeTrap_ctx (c : Cause) (s : State) : (takeTrap c s).ctx = s.ctx := deliver_ctx _ _ _ s
@[simp] theorem takeTrap_cores (c : Cause) (s : State) : (takeTrap c s).cores = s.cores := deliver_cores _ _ _ s
@[simp] theorem takeTrap_teams (c : Cause) (s : State) : (takeTrap c s).teams = s.teams := deliver_teams _ _ _ s
@[simp] theorem takeTrap_ctxs (c : Cause) (s : State) : (takeTrap c s).ctxs = s.ctxs := deliver_ctxs _ _ _ s
@[simp] theorem takeTrap_parts (c : Cause) (s : State) : (takeTrap c s).parts = s.parts := deliver_parts _ _ _ s
theorem takeTrap_mem (c : Cause) (s : State) (hu : s.w.cur.userH = false) : (takeTrap c s).mem = s.mem := deliver_mem _ _ _ s hu
@[simp] theorem takeTrap_mp (c : Cause) (s : State) : (takeTrap c s).mp = s.mp := deliver_mp _ _ _ s
@[simp] theorem takeTrap_lexp (c : Cause) (s : State) : (takeTrap c s).lexp = s.lexp := deliver_lexp _ _ _ s
@[simp] theorem takeTrap_writes (c : Cause) (s : State) : (takeTrap c s).writes = s.writes := deliver_writes _ _ _ s
@[simp] theorem takeTrap_walkQ (c : Cause) (s : State) : (takeTrap c s).walkQ = s.walkQ := deliver_walkQ _ _ _ s
@[simp] theorem takeTrap_shoots (c : Cause) (s : State) : (takeTrap c s).shoots = s.shoots := deliver_shoots _ _ _ s
@[simp] theorem takeTrap_chips (c : Cause) (s : State) : (takeTrap c s).chips = s.chips := deliver_chips _ _ _ s
@[simp] theorem takeTrap_orrs (c : Cause) (s : State) : (takeTrap c s).orrs = s.orrs := deliver_orrs _ _ _ s
@[simp] theorem takeTrap_saves (c : Cause) (s : State) : (takeTrap c s).saves = s.saves := deliver_saves _ _ _ s
@[simp] theorem takeTrap_attns (c : Cause) (s : State) : (takeTrap c s).attns = s.attns := deliver_attns _ _ _ s
@[simp] theorem takeTrap_colls (c : Cause) (s : State) : (takeTrap c s).colls = s.colls := deliver_colls _ _ _ s
@[simp] theorem takeTrap_launches (c : Cause) (s : State) : (takeTrap c s).launches = s.launches := deliver_launches _ _ _ s
@[simp] theorem takeTrap_queues (c : Cause) (s : State) : (takeTrap c s).queues = s.queues := deliver_queues _ _ _ s
@[simp] theorem takeTrap_ablas (c : Cause) (s : State) : (takeTrap c s).ablas = s.ablas := deliver_ablas _ _ _ s
@[simp] theorem takeTrap_snaps (c : Cause) (s : State) : (takeTrap c s).snaps = s.snaps := deliver_snaps _ _ _ s
@[simp] theorem takeTrap_dev (c : Cause) (s : State) : (takeTrap c s).dev = s.dev := deliver_dev _ _ _ s
@[simp] theorem takeTrap_corrected (c : Cause) (s : State) : (takeTrap c s).corrected = s.corrected := deliver_corrected _ _ _ s
@[simp] theorem takeTrap_uncorrected (c : Cause) (s : State) : (takeTrap c s).uncorrected = s.uncorrected := deliver_uncorrected _ _ _ s
@[simp] theorem takeTrap_meridian (c : Cause) (s : State) : (takeTrap c s).meridian = s.meridian := deliver_meridian _ _ _ s
@[simp] theorem takeTrap_dtlb0 (c : Cause) (s : State) : (takeTrap c s).dtlb0 = s.dtlb0 := deliver_dtlb0 _ _ _ s
@[simp] theorem takeTrap_dtlb1 (c : Cause) (s : State) : (takeTrap c s).dtlb1 = s.dtlb1 := deliver_dtlb1 _ _ _ s
@[simp] theorem takeTrap_dbgs (c : Cause) (s : State) : (takeTrap c s).dbgs = s.dbgs := deliver_dbgs _ _ _ s
@[simp] theorem illegal_time (n : Nat) (s : State) : (illegal n s).time = s.time := deliver_time _ _ _ s
@[simp] theorem illegal_tick (n : Nat) (s : State) : (illegal n s).tick = s.tick := deliver_tick _ _ _ s
@[simp] theorem illegal_nextId (n : Nat) (s : State) : (illegal n s).nextId = s.nextId := deliver_nextId _ _ _ s
@[simp] theorem illegal_agenda (n : Nat) (s : State) : (illegal n s).agenda = s.agenda := deliver_agenda _ _ _ s
@[simp] theorem illegal_last (n : Nat) (s : State) : (illegal n s).last = s.last := deliver_last _ _ _ s
@[simp] theorem illegal_team (n : Nat) (s : State) : (illegal n s).team = s.team := deliver_team _ _ _ s
@[simp] theorem illegal_ctx (n : Nat) (s : State) : (illegal n s).ctx = s.ctx := deliver_ctx _ _ _ s
@[simp] theorem illegal_cores (n : Nat) (s : State) : (illegal n s).cores = s.cores := deliver_cores _ _ _ s
@[simp] theorem illegal_teams (n : Nat) (s : State) : (illegal n s).teams = s.teams := deliver_teams _ _ _ s
@[simp] theorem illegal_ctxs (n : Nat) (s : State) : (illegal n s).ctxs = s.ctxs := deliver_ctxs _ _ _ s
@[simp] theorem illegal_parts (n : Nat) (s : State) : (illegal n s).parts = s.parts := deliver_parts _ _ _ s
theorem illegal_mem (n : Nat) (s : State) (hu : s.w.cur.userH = false) : (illegal n s).mem = s.mem := deliver_mem _ _ _ s hu
@[simp] theorem illegal_mp (n : Nat) (s : State) : (illegal n s).mp = s.mp := deliver_mp _ _ _ s
@[simp] theorem illegal_lexp (n : Nat) (s : State) : (illegal n s).lexp = s.lexp := deliver_lexp _ _ _ s
@[simp] theorem illegal_writes (n : Nat) (s : State) : (illegal n s).writes = s.writes := deliver_writes _ _ _ s
@[simp] theorem illegal_walkQ (n : Nat) (s : State) : (illegal n s).walkQ = s.walkQ := deliver_walkQ _ _ _ s
@[simp] theorem illegal_shoots (n : Nat) (s : State) : (illegal n s).shoots = s.shoots := deliver_shoots _ _ _ s
@[simp] theorem illegal_chips (n : Nat) (s : State) : (illegal n s).chips = s.chips := deliver_chips _ _ _ s
@[simp] theorem illegal_orrs (n : Nat) (s : State) : (illegal n s).orrs = s.orrs := deliver_orrs _ _ _ s
@[simp] theorem illegal_saves (n : Nat) (s : State) : (illegal n s).saves = s.saves := deliver_saves _ _ _ s
@[simp] theorem illegal_attns (n : Nat) (s : State) : (illegal n s).attns = s.attns := deliver_attns _ _ _ s
@[simp] theorem illegal_colls (n : Nat) (s : State) : (illegal n s).colls = s.colls := deliver_colls _ _ _ s
@[simp] theorem illegal_launches (n : Nat) (s : State) : (illegal n s).launches = s.launches := deliver_launches _ _ _ s
@[simp] theorem illegal_queues (n : Nat) (s : State) : (illegal n s).queues = s.queues := deliver_queues _ _ _ s
@[simp] theorem illegal_ablas (n : Nat) (s : State) : (illegal n s).ablas = s.ablas := deliver_ablas _ _ _ s
@[simp] theorem illegal_snaps (n : Nat) (s : State) : (illegal n s).snaps = s.snaps := deliver_snaps _ _ _ s
@[simp] theorem illegal_dev (n : Nat) (s : State) : (illegal n s).dev = s.dev := deliver_dev _ _ _ s
@[simp] theorem illegal_corrected (n : Nat) (s : State) : (illegal n s).corrected = s.corrected := deliver_corrected _ _ _ s
@[simp] theorem illegal_uncorrected (n : Nat) (s : State) : (illegal n s).uncorrected = s.uncorrected := deliver_uncorrected _ _ _ s
@[simp] theorem illegal_meridian (n : Nat) (s : State) : (illegal n s).meridian = s.meridian := deliver_meridian _ _ _ s
@[simp] theorem illegal_dtlb0 (n : Nat) (s : State) : (illegal n s).dtlb0 = s.dtlb0 := deliver_dtlb0 _ _ _ s
@[simp] theorem illegal_dtlb1 (n : Nat) (s : State) : (illegal n s).dtlb1 = s.dtlb1 := deliver_dtlb1 _ _ _ s
@[simp] theorem illegal_dbgs (n : Nat) (s : State) : (illegal n s).dbgs = s.dbgs := deliver_dbgs _ _ _ s
@[simp] theorem privTrap_time (s : State) : (privTrap s).time = s.time := deliver_time _ _ _ s
@[simp] theorem privTrap_tick (s : State) : (privTrap s).tick = s.tick := deliver_tick _ _ _ s
@[simp] theorem privTrap_nextId (s : State) : (privTrap s).nextId = s.nextId := deliver_nextId _ _ _ s
@[simp] theorem privTrap_agenda (s : State) : (privTrap s).agenda = s.agenda := deliver_agenda _ _ _ s
@[simp] theorem privTrap_last (s : State) : (privTrap s).last = s.last := deliver_last _ _ _ s
@[simp] theorem privTrap_team (s : State) : (privTrap s).team = s.team := deliver_team _ _ _ s
@[simp] theorem privTrap_ctx (s : State) : (privTrap s).ctx = s.ctx := deliver_ctx _ _ _ s
@[simp] theorem privTrap_cores (s : State) : (privTrap s).cores = s.cores := deliver_cores _ _ _ s
@[simp] theorem privTrap_teams (s : State) : (privTrap s).teams = s.teams := deliver_teams _ _ _ s
@[simp] theorem privTrap_ctxs (s : State) : (privTrap s).ctxs = s.ctxs := deliver_ctxs _ _ _ s
@[simp] theorem privTrap_parts (s : State) : (privTrap s).parts = s.parts := deliver_parts _ _ _ s
theorem privTrap_mem (s : State) (hu : s.w.cur.userH = false) : (privTrap s).mem = s.mem := deliver_mem _ _ _ s hu
@[simp] theorem privTrap_mp (s : State) : (privTrap s).mp = s.mp := deliver_mp _ _ _ s
@[simp] theorem privTrap_lexp (s : State) : (privTrap s).lexp = s.lexp := deliver_lexp _ _ _ s
@[simp] theorem privTrap_writes (s : State) : (privTrap s).writes = s.writes := deliver_writes _ _ _ s
@[simp] theorem privTrap_walkQ (s : State) : (privTrap s).walkQ = s.walkQ := deliver_walkQ _ _ _ s
@[simp] theorem privTrap_shoots (s : State) : (privTrap s).shoots = s.shoots := deliver_shoots _ _ _ s
@[simp] theorem privTrap_chips (s : State) : (privTrap s).chips = s.chips := deliver_chips _ _ _ s
@[simp] theorem privTrap_orrs (s : State) : (privTrap s).orrs = s.orrs := deliver_orrs _ _ _ s
@[simp] theorem privTrap_saves (s : State) : (privTrap s).saves = s.saves := deliver_saves _ _ _ s
@[simp] theorem privTrap_attns (s : State) : (privTrap s).attns = s.attns := deliver_attns _ _ _ s
@[simp] theorem privTrap_colls (s : State) : (privTrap s).colls = s.colls := deliver_colls _ _ _ s
@[simp] theorem privTrap_launches (s : State) : (privTrap s).launches = s.launches := deliver_launches _ _ _ s
@[simp] theorem privTrap_queues (s : State) : (privTrap s).queues = s.queues := deliver_queues _ _ _ s
@[simp] theorem privTrap_ablas (s : State) : (privTrap s).ablas = s.ablas := deliver_ablas _ _ _ s
@[simp] theorem privTrap_snaps (s : State) : (privTrap s).snaps = s.snaps := deliver_snaps _ _ _ s
@[simp] theorem privTrap_dev (s : State) : (privTrap s).dev = s.dev := deliver_dev _ _ _ s
@[simp] theorem privTrap_corrected (s : State) : (privTrap s).corrected = s.corrected := deliver_corrected _ _ _ s
@[simp] theorem privTrap_uncorrected (s : State) : (privTrap s).uncorrected = s.uncorrected := deliver_uncorrected _ _ _ s
@[simp] theorem privTrap_meridian (s : State) : (privTrap s).meridian = s.meridian := deliver_meridian _ _ _ s
@[simp] theorem privTrap_dtlb0 (s : State) : (privTrap s).dtlb0 = s.dtlb0 := deliver_dtlb0 _ _ _ s
@[simp] theorem privTrap_dtlb1 (s : State) : (privTrap s).dtlb1 = s.dtlb1 := deliver_dtlb1 _ _ _ s
@[simp] theorem privTrap_dbgs (s : State) : (privTrap s).dbgs = s.dbgs := deliver_dbgs _ _ _ s
@[simp] theorem alignTrap_time (x : W64) (m : W32) (s : State) : (alignTrap x m s).time = s.time := deliver_time _ _ _ s
@[simp] theorem alignTrap_tick (x : W64) (m : W32) (s : State) : (alignTrap x m s).tick = s.tick := deliver_tick _ _ _ s
@[simp] theorem alignTrap_nextId (x : W64) (m : W32) (s : State) : (alignTrap x m s).nextId = s.nextId := deliver_nextId _ _ _ s
@[simp] theorem alignTrap_agenda (x : W64) (m : W32) (s : State) : (alignTrap x m s).agenda = s.agenda := deliver_agenda _ _ _ s
@[simp] theorem alignTrap_last (x : W64) (m : W32) (s : State) : (alignTrap x m s).last = s.last := deliver_last _ _ _ s
@[simp] theorem alignTrap_team (x : W64) (m : W32) (s : State) : (alignTrap x m s).team = s.team := deliver_team _ _ _ s
@[simp] theorem alignTrap_ctx (x : W64) (m : W32) (s : State) : (alignTrap x m s).ctx = s.ctx := deliver_ctx _ _ _ s
@[simp] theorem alignTrap_cores (x : W64) (m : W32) (s : State) : (alignTrap x m s).cores = s.cores := deliver_cores _ _ _ s
@[simp] theorem alignTrap_teams (x : W64) (m : W32) (s : State) : (alignTrap x m s).teams = s.teams := deliver_teams _ _ _ s
@[simp] theorem alignTrap_ctxs (x : W64) (m : W32) (s : State) : (alignTrap x m s).ctxs = s.ctxs := deliver_ctxs _ _ _ s
@[simp] theorem alignTrap_parts (x : W64) (m : W32) (s : State) : (alignTrap x m s).parts = s.parts := deliver_parts _ _ _ s
theorem alignTrap_mem (x : W64) (m : W32) (s : State) (hu : s.w.cur.userH = false) : (alignTrap x m s).mem = s.mem := deliver_mem _ _ _ s hu
@[simp] theorem alignTrap_mp (x : W64) (m : W32) (s : State) : (alignTrap x m s).mp = s.mp := deliver_mp _ _ _ s
@[simp] theorem alignTrap_lexp (x : W64) (m : W32) (s : State) : (alignTrap x m s).lexp = s.lexp := deliver_lexp _ _ _ s
@[simp] theorem alignTrap_writes (x : W64) (m : W32) (s : State) : (alignTrap x m s).writes = s.writes := deliver_writes _ _ _ s
@[simp] theorem alignTrap_walkQ (x : W64) (m : W32) (s : State) : (alignTrap x m s).walkQ = s.walkQ := deliver_walkQ _ _ _ s
@[simp] theorem alignTrap_shoots (x : W64) (m : W32) (s : State) : (alignTrap x m s).shoots = s.shoots := deliver_shoots _ _ _ s
@[simp] theorem alignTrap_chips (x : W64) (m : W32) (s : State) : (alignTrap x m s).chips = s.chips := deliver_chips _ _ _ s
@[simp] theorem alignTrap_orrs (x : W64) (m : W32) (s : State) : (alignTrap x m s).orrs = s.orrs := deliver_orrs _ _ _ s
@[simp] theorem alignTrap_saves (x : W64) (m : W32) (s : State) : (alignTrap x m s).saves = s.saves := deliver_saves _ _ _ s
@[simp] theorem alignTrap_attns (x : W64) (m : W32) (s : State) : (alignTrap x m s).attns = s.attns := deliver_attns _ _ _ s
@[simp] theorem alignTrap_colls (x : W64) (m : W32) (s : State) : (alignTrap x m s).colls = s.colls := deliver_colls _ _ _ s
@[simp] theorem alignTrap_launches (x : W64) (m : W32) (s : State) : (alignTrap x m s).launches = s.launches := deliver_launches _ _ _ s
@[simp] theorem alignTrap_queues (x : W64) (m : W32) (s : State) : (alignTrap x m s).queues = s.queues := deliver_queues _ _ _ s
@[simp] theorem alignTrap_ablas (x : W64) (m : W32) (s : State) : (alignTrap x m s).ablas = s.ablas := deliver_ablas _ _ _ s
@[simp] theorem alignTrap_snaps (x : W64) (m : W32) (s : State) : (alignTrap x m s).snaps = s.snaps := deliver_snaps _ _ _ s
@[simp] theorem alignTrap_dev (x : W64) (m : W32) (s : State) : (alignTrap x m s).dev = s.dev := deliver_dev _ _ _ s
@[simp] theorem alignTrap_corrected (x : W64) (m : W32) (s : State) : (alignTrap x m s).corrected = s.corrected := deliver_corrected _ _ _ s
@[simp] theorem alignTrap_uncorrected (x : W64) (m : W32) (s : State) : (alignTrap x m s).uncorrected = s.uncorrected := deliver_uncorrected _ _ _ s
@[simp] theorem alignTrap_meridian (x : W64) (m : W32) (s : State) : (alignTrap x m s).meridian = s.meridian := deliver_meridian _ _ _ s
@[simp] theorem alignTrap_dtlb0 (x : W64) (m : W32) (s : State) : (alignTrap x m s).dtlb0 = s.dtlb0 := deliver_dtlb0 _ _ _ s
@[simp] theorem alignTrap_dtlb1 (x : W64) (m : W32) (s : State) : (alignTrap x m s).dtlb1 = s.dtlb1 := deliver_dtlb1 _ _ _ s
@[simp] theorem alignTrap_dbgs (x : W64) (m : W32) (s : State) : (alignTrap x m s).dbgs = s.dbgs := deliver_dbgs _ _ _ s

/-! ### Register files: a read after a write -/

/-- s0 reads 0. -/
@[simp] theorem Warp.sGet_zero (w : Warp) : w.sGet 0 = 0 := rfl

/-- A scalar after a write to it. -/
theorem Warp.sGet_sSet_self (w : Warp) (n : Nat) (x : W64) : (w.sSet n x).sGet n = if n = 0 then 0 else x := by
  unfold Warp.sGet Warp.sSet
  split <;> simp

/-- A scalar after a write to another. -/
theorem Warp.sGet_sSet_ne (w : Warp) {n m : Nat} (x : W64) (h : m ≠ n) : (w.sSet n x).sGet m = w.sGet m := by
  unfold Warp.sGet Warp.sSet
  by_cases hn : n = 0
  · simp [hn]
  · simp only [hn, if_false, tabGet_tabSet_ne 0 x w.s h]

/-- k0 reads all ones. -/
@[simp] theorem Warp.kGet_zero (w : Warp) : w.kGet 0 = 0xFFFFFFFF := rfl

/-- A mask after a write to another. -/
theorem Warp.kGet_kSet_ne (w : Warp) {n j : Nat} (m x : W32) (h : j ≠ n) : (w.kSet n m x).kGet j = w.kGet j := by
  unfold Warp.kGet Warp.kSet
  by_cases hn : n = 0
  · simp [hn]
  · simp only [hn, if_false, tabGet_tabSet_ne 0 _ w.k h]

/-- A mask after a write to it: the bits of m change, the others stay. -/
theorem Warp.kGet_kSet_self (w : Warp) (n : Nat) (m x : W32) :
    (w.kSet n m x).kGet n = if n = 0 then 0xFFFFFFFF else (w.kGet n &&& ~~~m) ||| (x &&& m) := by
  unfold Warp.kGet Warp.kSet
  split <;> simp

end Sys2Proof.Machine
end

