-- ==== Sys2Proof/Laws/Vectors.lean ====
section
/-! SUPPORT. The vector file and lane instructions: a read after a write, sets of threads, and what a lane instruction does
when its registers are there. -/

namespace Sys2Proof.Machine

open Sys2Proof

/-! ### Threads and masks -/

theorem mem_maskThreads (m : W32) (n : Nat) : n ∈ maskThreads m ↔ n < 32 ∧ inMask m n = true := by
  simp [maskThreads, threads]

theorem maskThreads_nodup (m : W32) : (maskThreads m).Nodup := List.Nodup.filter _ List.nodup_range

/-- The bits of a sum of distinct powers of two. -/
theorem testBit_maskSum (p : Nat → Bool) (l k n : Nat) :
    ((List.range' k l).foldr (fun t acc => bitOf (p t) * 2 ^ t + acc) 0).testBit n
      = (decide (k ≤ n) && decide (n < k + l) && p n) := by
  induction l generalizing k with
  | zero => simp
  | succ l ih =>
    rw [List.range'_succ, List.foldr_cons]
    have hd : ∀ j, 2 ^ (k + 1) ∣ (List.range' (k + 1) j).foldr (fun t acc => bitOf (p t) * 2 ^ t + acc) 0 := by
      intro j
      have : ∀ q, k + 1 ≤ q → 2 ^ (k + 1) ∣ (List.range' q j).foldr (fun t acc => bitOf (p t) * 2 ^ t + acc) 0 := by
        induction j with
        | zero => intro q _; simp
        | succ j ihj =>
          intro q hq
          rw [List.range'_succ, List.foldr_cons]
          exact Nat.dvd_add (Dvd.dvd.mul_left (pow_dvd_pow 2 hq) _) (ihj (q + 1) (by omega))
      exact this (k + 1) (le_refl _)
    obtain ⟨c, hc⟩ := hd l
    have ihn := ih (k + 1)
    rw [hc] at ihn ⊢
    have e : bitOf (p k) * 2 ^ k + 2 ^ (k + 1) * c = 2 ^ k * (2 * c + bitOf (p k)) := by rw [pow_succ]; ring
    rw [e, Nat.testBit_two_pow_mul]
    rw [Nat.testBit_two_pow_mul] at ihn
    by_cases h1 : k ≤ n
    · by_cases h2 : n = k
      · subst h2; cases hp : p n <;> simp [bitOf, Nat.testBit_zero]
      · have h3 : k + 1 ≤ n := by omega
        simp only [h1, h3, decide_true, Bool.true_and] at ihn ⊢
        have : n - k = (n - (k + 1)) + 1 := by omega
        rw [this, Nat.testBit_succ]
        have : (2 * c + bitOf (p k)) / 2 = c := by cases p k <;> simp [bitOf]; omega
        rw [this, ihn]
        congr 2; simp; omega
    · simp [h1]

/-- A thread belongs to the mask of a predicate exactly when it is below 32 and satisfies it. -/
theorem inMask_maskOf (p : Nat → Bool) (n : Nat) : inMask (maskOf p) n = (decide (n < 32) && p n) := by
  have := testBit_maskSum p 32 0 n
  rw [← List.range_eq_range'] at this
  simp only [inMask, maskOf, threads, BitVec.getLsbD_ofNat, this]
  cases p n <;> simp

/-- The lowest thread of a mask. -/
theorem lowest_eq_none (m : W32) : lowest m = none ↔ m = 0 := by
  simp only [lowest, List.find?_eq_none, threads, List.mem_range]
  constructor
  · intro h; apply BitVec.eq_of_getLsbD_eq; intro i hi; simpa [inMask] using h i hi
  · rintro rfl; simp [inMask]

/-! ### The vector file -/

theorem tabGet_fold_in {α : Type} [DecidableEq α] (d : α) (l : List Nat) (r : Nat) (x : Nat → α) (n : Nat)
    (hl : l.Nodup) (h : n ∈ l) (v : List (Nat × α)) :
    tabGet d (32 * r + n) (l.foldl (fun v t => tabSet d (32 * r + t) (x t) v) v) = x n := by
  induction l generalizing v with
  | nil => simp at h
  | cons a l ih =>
    rw [List.foldl_cons]
    rcases List.mem_cons.1 h with rfl | h'
    · have hn : n ∉ l := (List.nodup_cons.1 hl).1
      have : ∀ (l : List Nat) (w : List (Nat × α)), n ∉ l →
          tabGet d (32 * r + n) (l.foldl (fun v t => tabSet d (32 * r + t) (x t) v) w) = tabGet d (32 * r + n) w := by
        intro l
        induction l with
        | nil => intro w _; rfl
        | cons b l ihb =>
          intro w hb
          rw [List.foldl_cons, ihb _ (fun h => hb (by simp [h])), tabGet_tabSet_ne]
          have : n ≠ b := fun h => hb (by simp [h])
          omega
      rw [this l _ hn, tabGet_tabSet_self]
    · exact ih (List.nodup_cons.1 hl).2 h' _

theorem tabGet_fold_out {α : Type} [DecidableEq α] (d : α) (l : List Nat) (r : Nat) (x : Nat → α) (k : Nat)
    (h : ∀ t ∈ l, k ≠ 32 * r + t) (v : List (Nat × α)) :
    tabGet d k (l.foldl (fun v t => tabSet d (32 * r + t) (x t) v) v) = tabGet d k v := by
  induction l generalizing v with
  | nil => rfl
  | cons a l ih =>
    rw [List.foldl_cons, ih (fun t ht => h t (by simp [ht])), tabGet_tabSet_ne _ _ _ (h a (by simp))]

/-- A thread's value after a write of v[r]. -/
theorem Warp.vGet_vSet_self (w : Warp) (r : Nat) (m : W32) (x : Nat → W32) (p : W32) {n : Nat} (hn : n < 32) :
    (w.vSet r m x p).vGet r n = if inMask m n then x n else w.vGet r n := by
  unfold Warp.vGet Warp.vSet vPut
  split
  · exact tabGet_fold_in _ _ _ _ _ (maskThreads_nodup m) ((mem_maskThreads m n).2 ⟨hn, by assumption⟩) _
  · refine tabGet_fold_out _ _ _ _ _ (fun t ht h => ?_) _
    rw [mem_maskThreads] at ht
    have : n = t := by omega
    subst this; simp_all

/-- A thread's value of another register. -/
theorem Warp.vGet_vSet_ne (w : Warp) {r q : Nat} (m : W32) (x : Nat → W32) (p : W32) {n : Nat} (hn : n < 32) (h : q ≠ r) :
    (w.vSet r m x p).vGet q n = w.vGet q n := by
  unfold Warp.vGet Warp.vSet vPut
  refine tabGet_fold_out _ _ _ _ _ (fun t ht e => ?_) _
  rw [mem_maskThreads] at ht
  omega

theorem Warp.vPois_vSet_self (w : Warp) (r : Nat) (m : W32) (x : Nat → W32) (p : W32) :
    (w.vSet r m x p).vPois r = (w.vPois r &&& ~~~m) ||| (p &&& m) := by
  simp [Warp.vPois, Warp.vSet]

theorem Warp.vPois_vSet_ne (w : Warp) {r q : Nat} (m : W32) (x : Nat → W32) (p : W32) (h : q ≠ r) :
    (w.vSet r m x p).vPois q = w.vPois q := by
  simp [Warp.vPois, Warp.vSet, tabGet_tabSet_ne _ _ _ h]

/-- A thread's poison bit after a write of v[r]. -/
theorem Warp.pGet_vSet_self (w : Warp) (r : Nat) (m : W32) (x : Nat → W32) (p : W32) {n : Nat} (hn : n < 32) :
    (w.vSet r m x p).pGet r n = if inMask m n then inMask p n else w.pGet r n := by
  simp only [Warp.pGet, Warp.vPois_vSet_self, inMask]
  rw [BitVec.getLsbD_or, BitVec.getLsbD_and, BitVec.getLsbD_and, BitVec.getLsbD_not]
  rw [BitVec.getLsbD_eq_getElem hn] at *
  by_cases h : m[n] = true <;> simp [h, hn]

theorem Warp.pGet_vSet_ne (w : Warp) {r q : Nat} (m : W32) (x : Nat → W32) (p : W32) (n : Nat) (h : q ≠ r) :
    (w.vSet r m x p).pGet q n = w.pGet q n := by
  simp [Warp.pGet, Warp.vPois_vSet_ne w m x p h]

theorem mem_setIns (k x : Nat) (l : List Nat) : x ∈ setIns k l ↔ x = k ∨ x ∈ l := by
  induction l with
  | nil => simp [setIns]
  | cons a l ih =>
    simp only [setIns]
    split
    · simp
    · split
      · subst_vars; simp
      · simp [ih]; tauto

@[simp] theorem Warp.vSet_bound (w : Warp) (r : Nat) (m : W32) (x : Nat → W32) (p : W32) :
    (w.vSet r m x p).bound = setIns r w.bound := rfl

/-- A register write leaves the outstanding operations, but for the registers they still fill. -/
theorem Warp.vSet_ops_kept (w : Warp) (r : Nat) (m : W32) (x : Nat → W32) (p : W32) :
    (w.vSet r m x p).ops.map (fun o => { o with dests := [] }) = w.ops.map (fun o => { o with dests := [] }) := by
  simp [Warp.vSet, dropDest]

/-! ### Registers that are there, and lane instructions -/

/-- Where every register named is held and not spilled, and none that is read awaits data, the instruction is performed. -/
theorem withRegs_ready {reads writes : List Nat} {s : State} {k : State → State}
    (h1 : ∀ r ∈ reads ++ writes, s.w.holds r = true ∧ r ∉ s.w.spilled) (h2 : ∀ r ∈ reads, s.w.awaits r = false) :
    withRegs reads writes s k = k s := by
  unfold withRegs
  have e1 : (reads ++ writes).all s.w.holds = true := by
    rw [List.all_eq_true]; exact fun r hr => (h1 r hr).1
  have e2 : s.w.anyAwaits reads = false := by
    simp only [Warp.anyAwaits, List.any_eq_false]; intro r hr; simp [h2 r hr]
  have e3 : toReload s.w (reads ++ writes) = [] := by
    simp only [toReload, List.filter_eq_nil_iff]
    intro r hr hc
    exact (h1 r (by simpa using hc)).2 hr
  simp [e1, e2, e3]

theorem heldRegs_ready {rs : List Nat} {s : State} {k : State → State} (h : ∀ r ∈ rs, s.w.holds r = true) :
    heldRegs rs s k = k s := by
  unfold heldRegs; rw [if_pos (by rw [List.all_eq_true]; exact h)]

@[simp] theorem inRange_true (s : State) (k : State → State) : inRange true s k = k s := rfl
theorem inRange_pos {b : Bool} {s : State} {k : State → State} (h : b = true) : inRange b s k = k s := by subst h; rfl
theorem inRange_neg {b : Bool} {s : State} {k : State → State} (h : b = false) : inRange b s k = illegal 3 s := by
  subst h; rfl
theorem notDawn_neg {s : State} {k : State → State} (h : s.w.dawn = false) : notDawn s k = k s := by
  unfold notDawn; rw [if_neg (by simp [h])]
theorem privileged_pos {s : State} {k : State → State} (h : s.w.cur.priv = true) : privileged s k = k s := by
  unfold privileged; rw [if_pos h]
theorem privileged_neg {s : State} {k : State → State} (h : s.w.cur.priv = false) : privileged s k = privTrap s := by
  unfold privileged; rw [if_neg (by simp [h])]

/-- A table listed by a function of its keys. -/
theorem tabGet_map {α : Type} (d : α) (l : List Nat) (f : Nat → α) (n : Nat) (h : n ∈ l) :
    tabGet d n (l.map (fun t => (t, f t))) = f n := by
  induction l with
  | nil => simp at h
  | cons a l ih =>
    simp only [List.map_cons, tabGet]
    split
    · subst_vars; rfl
    · rename_i hne
      rcases List.mem_cons.1 h with rfl | h
      · exact absurd rfl hne
      · exact ih h

/-- The bits of a union of exceptions. -/
theorem getLsbD_joinExc (l : List Exc) (b : Nat) : (joinExc l).getLsbD b = true ↔ ∃ e ∈ l, e.getLsbD b = true := by
  have : ∀ (l : List Exc) (a : Exc), (l.foldl (· ||| ·) a).getLsbD b = true ↔ a.getLsbD b = true ∨ ∃ e ∈ l, e.getLsbD b = true := by
    intro l
    induction l with
    | nil => simp
    | cons x l ih => intro a; simp [ih, or_assoc]
  simpa [joinExc] using this l 0

/-- A lane instruction whose registers are there and that raises no enabled exception: its state afterwards. -/
theorem laneInstr_next {srcs : List Src} {d : Nat} {f : LaneOp} {a b c : Src} {s : State}
    (h1 : ∀ r ∈ srcs.flatMap Src.regs ++ [d], s.w.holds r = true ∧ r ∉ s.w.spilled)
    (h2 : ∀ r ∈ srcs.flatMap Src.regs, s.w.awaits r = false)
    (h3 : ∀ n, n < 32 → inMask (laneSel s) n = true →
      (f (laneEnv s) (a.val s.w n) (b.val s.w n) (c.val s.w n)).2 &&& s.w.enables = 0) :
    laneInstr srcs d f a b c s =
      let res := laneResults s f a b c
      let w1 := s.w.vSet d (laneSel s) (fun t => (tabGet (0, 0) t res).1) (srcs.foldl (fun m x => m ||| x.pois s.w) 0)
      let w2 := if laneZero s = 0 then w1 else w1.vSet d (laneZero s) (fun _ => 0) 0
      finish { s with w := orFpx (joinExc (res.map (·.2.2))) w2 } := by
  unfold laneInstr
  rw [withRegs_ready h1 h2]
  have : (trapping s.w.enables (laneResults s f a b c)).isEmpty = true := by
    rw [List.isEmpty_iff, trapping, List.filter_eq_nil_iff]
    intro r hr
    simp only [laneResults, List.mem_map] at hr
    obtain ⟨n, hn, rfl⟩ := hr
    rw [mem_maskThreads] at hn
    simp [h3 n hn.1 hn.2]
  simp only [this, if_true]

/-- A lane instruction that raises an enabled exception traps with nothing written. -/
theorem laneInstr_trap {srcs : List Src} {d : Nat} {f : LaneOp} {a b c : Src} {s : State}
    (h1 : ∀ r ∈ srcs.flatMap Src.regs ++ [d], s.w.holds r = true ∧ r ∉ s.w.spilled)
    (h2 : ∀ r ∈ srcs.flatMap Src.regs, s.w.awaits r = false)
    (h3 : trapping s.w.enables (laneResults s f a b c) ≠ []) :
    laneInstr srcs d f a b c s =
      let bad := trapping s.w.enables (laneResults s f a b c)
      takeTrap (arithCause (maskOf (fun t => bad.any (fun r => r.1 == t))) (joinExc (bad.map (fun r => r.2.2 &&& s.w.enables)))) s := by
  unfold laneInstr
  rw [withRegs_ready h1 h2]
  have : (trapping s.w.enables (laneResults s f a b c)).isEmpty = false := by simpa using h3
  simp only [this]
  rfl

end Sys2Proof.Machine
end

