-- ==== Sys2Proof/Safety.lean ====
section
/-! DEFINITION. What a safe run is: a run no step of which ends in a fault or a refusal. -/

namespace Sys2Proof

open Sys2Proof.Machine

/-- n steps from a state all answer a next state. -/
def safeFor : Nat → State → Prop
  | 0, _ => True
  | n + 1, s => ∃ t, step s = .next t ∧ safeFor n t

/-- Every run from a state goes on for ever. -/
def Safe (s : State) : Prop := ∀ n, safeFor n s

end Sys2Proof
end

