-- ==== Sys2Proof/Tests/Slice0.lean ====
section
/-! SUPPORT. The model's own tests: words of every constructor decoded, ill-formed terms refused, single steps with the
results that the spec's text and tables give, and states that meet the hypotheses of the statements. -/

namespace Sys2Proof.Tests

open Sys2Proof Sys2Proof.Machine Sys2Proof.Claims

/-! ## Small states -/

/-- A user split with all threads active, at 0x1000 in the one warp of a team whose context has KTVEC 0x2000. -/
def user : State := { State.reset with
  time := 100, nextId := 10
  w := { uid := 1, team := 1, cur := { pc := 0x1000, active := 0xFFFFFFFF } }
  team := { uid := 1, launch := 2, nwarp := 1, ssize := 4096 }
  ctx := { live := true, asid := 1, ktvec := 0x2000, root := 0x10000 }
  ix := { addr := 0x1000, next := 0x1004 } }

/-- user with scalars. -/
def withS (l : List (Nat × W64)) (s : State) : State :=
  { s with w := l.foldl (fun w p => w.sSet p.1 p.2) s.w }
/-- A state with the same value in every active thread of a vector register. -/
def withV (r : Nat) (x : W32) (s : State) : State := { s with w := s.w.vSet r s.w.cur.active (fun _ => x) 0 }

/-- The leaf of the one mapped page: frame 1, R, W, X, U, SC 1 (03 R38). -/
def leaf0 : W64 := 0x10101F

/-- user with threads 0 and 1 active. -/
def pair : State := { user with w := { user.w with cur := { user.w.cur with active := 3 } } }

/-- user with virtual page 0 mapped to frame 1 (physical 0x40000), in the tables and in the core's TLB. -/
def mapped : State := { user with
  mem := [(0x10000, 1), (0x10002, 2), (0x20000, 1), (0x20002, 3), (0x30000, 0x1F), (0x30001, 0x10), (0x30002, 0x10)]
  core := { user.core with tlb := [⟨1, 0, 18, leaf0⟩] } }

/-- The next state of an instruction, where it has one. -/
noncomputable def after (i : Instr) (s : State) : Option State := match exec i s with
  | .next t => some t
  | _ => none
/-- A scalar register after an instruction. -/
noncomputable def sAfter (i : Instr) (s : State) (n : Nat) : Option W64 := (after i s).map (fun t => t.w.sGet n)
/-- A vector register's thread after an instruction. -/
noncomputable def vAfter (i : Instr) (s : State) (r n : Nat) : Option W32 := (after i s).map (fun t => t.w.vGet r n)
/-- TCAUSE's code, TSUB and INFO's WHY after an instruction. -/
noncomputable def trapAfter (i : Instr) (s : State) : Option (Nat × Nat × Nat) :=
  (after i s).map (fun t => (bits t.w.trap.tcause.toNat 7 0, t.w.trap.tsub.toNat, bits t.w.trap.tinfo.toNat 35 32))

/-! ## Decoding: a word of every constructor, its fields placed as spec/opcode_table.json places them -/

theorem test_decode_major_01_0 :
    decodeWord 0x108D5803 = .ok (.sadd 43 6 33)
    ∧ decodeWord 0x108D5883 = .ok (.ssub 43 6 33)
    ∧ decodeWord 0x108D5903 = .ok (.smul 43 6 33)
    ∧ decodeWord 0x1623B183 = .ok (.smulh 54 17 44)
    ∧ decodeWord 0x1BB80A03 = .ok (.smulhn 1 28 55)
    ∧ decodeWord 0x108D5A83 = .ok (.sdiv 43 6 33)
    ∧ decodeWord 0x1623B303 = .ok (.sdivn 54 17 44)
    ∧ decodeWord 0x108D5B83 = .ok (.srem 43 6 33)
    ∧ decodeWord 0x1623B403 = .ok (.sremn 54 17 44)
    ∧ decodeWord 0x108D5C83 = .ok (.sand 43 6 33)
    ∧ decodeWord 0x0B770503 = .ok (.sor 32 59 22)
    ∧ decodeWord 0x108D5D83 = .ok (.sxor 43 6 33) := by decide

theorem test_decode_major_01_1 :
    decodeWord 0x1623B603 = .ok (.sandn 54 17 44)
    ∧ decodeWord 0x108D5E83 = .ok (.sshl 43 6 33)
    ∧ decodeWord 0x108D5F03 = .ok (.sshr 43 6 33)
    ∧ decodeWord 0x108D5F83 = .ok (.ssra 43 6 33)
    ∧ decodeWord 0x308D5803 = .ok (.smin 43 6 33)
    ∧ decodeWord 0x308D5883 = .ok (.smax 43 6 33)
    ∧ decodeWord 0x3623B103 = .ok (.sminn 54 17 44)
    ∧ decodeWord 0x3623B183 = .ok (.smaxn 54 17 44)
    ∧ decodeWord 0x308C0203 = .ok (.scmp 6 33)
    ∧ decodeWord 0x20423283 = .ok (.sclz 6 33)
    ∧ decodeWord 0x20588B03 = .ok (.spopc 17 44)
    ∧ decodeWord 0x20423383 = .ok (.smov 6 33) := by decide

theorem test_decode_major_02 :
    decodeWord 0x7623B005 = .ok (.saddi 54 17 236)
    ∧ decodeWord 0x7623B085 = .ok (.sandi 54 17 236)
    ∧ decodeWord 0x708D5905 = .ok (.sori 43 6 225)
    ∧ decodeWord 0x7623B185 = .ok (.sxori 54 17 236)
    ∧ decodeWord 0x7623B205 = .ok (.sshli 54 17 236)
    ∧ decodeWord 0x7623B285 = .ok (.sshri 54 17 236)
    ∧ decodeWord 0x7623B305 = .ok (.ssrai 54 17 236)
    ∧ decodeWord 0x76220385 = .ok (.scmpi 17 236)
    ∧ decodeWord 0x7623B405 = .ok (.smuli 54 17 236) := by decide

theorem test_decode_major_03 :
    decodeWord 0x05ADD807 = .ok (.sli 59 726)
    ∧ decodeWord 0x05C23087 = .ok (.slis 6 737) := by decide

theorem test_decode_major_04 :
    decodeWord 0x6B01D809 = .ok (.mfs 59 214)
    ∧ decodeWord 0x6B760089 = .ok (.mts 59 214) := by decide

theorem test_decode_major_05 :
    decodeWord 0x708D580B = .ok (.sldw 43 6 225)
    ∧ decodeWord 0x708D588B = .ok (.sldd 43 6 225)
    ∧ decodeWord 0x708D590B = .ok (.sstw 43 6 225)
    ∧ decodeWord 0x708D598B = .ok (.sstd 43 6 225)
    ∧ decodeWord 0x7623B20B = .ok (.sldda 54 17 236)
    ∧ decodeWord 0x7623B28B = .ok (.sstdl 54 17 236) := by decide

theorem test_decode_major_08 :
    decodeWord 0x0016B591 = .ok (.bra 11 726) := by decide

theorem test_decode_major_09 :
    decodeWord 0x00017093 = .ok (.call 737) := by decide

theorem test_decode_major_0A_0 :
    decodeWord 0x002C0015 = .ok (.jmp 22)
    ∧ decodeWord 0x00580095 = .ok (.callr 44)
    ∧ decodeWord 0x00000115 = .ok .ret
    ∧ decodeWord 0x00000195 = .ok .exit
    ∧ decodeWord 0x00000215 = .ok .yield
    ∧ decodeWord 0x00000295 = .ok .nop
    ∧ decodeWord 0x00000315 = .ok .rcv
    ∧ decodeWord 0x70800395 = .ok (.bkpt 225)
    ∧ decodeWord 0x70800415 = .ok (.trap 225)
    ∧ decodeWord 0x00000495 = .ok .eret
    ∧ decodeWord 0x002C0515 = .ok (.mon 22)
    ∧ decodeWord 0x00580595 = .ok (.mwait 44) := by decide

theorem test_decode_major_0A_1 :
    decodeWord 0x00000615 = .ok .tcommit
    ∧ decodeWord 0x00000695 = .ok .tdiscard
    ∧ decodeWord 0x00300715 = .ok (.tlbiPage 24)
    ∧ decodeWord 0x00800715 = .ok .tlbiAsid
    ∧ decodeWord 0x00000795 = .ok .mspill := by decide

theorem test_decode_major_0B :
    decodeWord 0x0016B497 = .ok (.brd 1 1 726) := by decide

theorem test_decode_major_10_0 :
    decodeWord 0xC2195821 = .ok (.vadd 43 6 97)
    ∧ decodeWord 0xC21958A1 = .ok (.vsub 43 6 97)
    ∧ decodeWord 0xC2195921 = .ok (.vmul 43 6 97)
    ∧ decodeWord 0xD845B1A1 = .ok (.vmulh 54 17 108)
    ∧ decodeWord 0xEE720A21 = .ok (.vmulhn 65 28 119)
    ∧ decodeWord 0xC2195AA1 = .ok (.vmad 43 6 97)
    ∧ decodeWord 0xC2195B21 = .ok (.vmin 43 6 97)
    ∧ decodeWord 0xC2195BA1 = .ok (.vmax 43 6 97)
    ∧ decodeWord 0xD845B421 = .ok (.vminn 54 17 108)
    ∧ decodeWord 0xD845B4A1 = .ok (.vmaxn 54 17 108)
    ∧ decodeWord 0xC2195D21 = .ok (.vand 43 6 97)
    ∧ decodeWord 0xADED05A1 = .ok (.vor 32 123 86) := by decide

theorem test_decode_major_10_1 :
    decodeWord 0xC2195E21 = .ok (.vxor 43 6 97)
    ∧ decodeWord 0xD845B6A1 = .ok (.vandn 54 17 108)
    ∧ decodeWord 0xC2195F21 = .ok (.vshl 43 6 97)
    ∧ decodeWord 0xC2195FA1 = .ok (.vshr 43 6 97) := by decide

theorem test_decode_major_11_0 :
    decodeWord 0xC2195823 = .ok (.vsra 43 6 97)
    ∧ decodeWord 0xC21958A3 = .ok (.vrot 43 6 97)
    ∧ decodeWord 0xD845B123 = .ok (.vabsd 54 17 108)
    ∧ decodeWord 0xD845B1A3 = .ok (.vadds 54 17 108)
    ∧ decodeWord 0xD845B223 = .ok (.vsubs 54 17 108)
    ∧ decodeWord 0xC2195AA3 = .ok (.vavg 43 6 97)
    ∧ decodeWord 0xC2195B23 = .ok (.vbfx 43 6 97)
    ∧ decodeWord 0xC2195BA3 = .ok (.vbfi 43 6 97)
    ∧ decodeWord 0xD845B423 = .ok (.vpack 54 17 108)
    ∧ decodeWord 0xEE720CA3 = .ok (.vpermb 65 28 119)
    ∧ decodeWord 0x01843523 = .ok (.vclz 6 97)
    ∧ decodeWord 0x01B08DA3 = .ok (.vpopc 17 108) := by decide

theorem test_decode_major_11_1 :
    decodeWord 0x01B08E23 = .ok (.vbrev 17 108)
    ∧ decodeWord 0x018436A3 = .ok (.vnot 6 97)
    ∧ decodeWord 0x01843723 = .ok (.vabs 6 97)
    ∧ decodeWord 0x018437A3 = .ok (.vneg 6 97) := by decide

theorem test_decode_major_12 :
    decodeWord 0xC21818A5 = .ok (.vcmp 1 3 6 97) := by decide

theorem test_decode_major_13 :
    decodeWord 0xC2195827 = .ok (.fadd 43 6 97)
    ∧ decodeWord 0xC21958A7 = .ok (.fsub 43 6 97)
    ∧ decodeWord 0xC2195927 = .ok (.fmul 43 6 97)
    ∧ decodeWord 0xC21959A7 = .ok (.ffma 43 6 97)
    ∧ decodeWord 0xC2195A27 = .ok (.fmin 43 6 97)
    ∧ decodeWord 0xC2195AA7 = .ok (.fmax 43 6 97)
    ∧ decodeWord 0x01843327 = .ok (.fabs 6 97)
    ∧ decodeWord 0x018433A7 = .ok (.fneg 6 97)
    ∧ decodeWord 0xEE720C27 = .ok (.fscale 65 28 119)
    ∧ decodeWord 0x018434A7 = .ok (.frnd 6 97)
    ∧ decodeWord 0x01DCE527 = .ok (.fclass 28 119)
    ∧ decodeWord 0xEE720DA7 = .ok (.fcopys 65 28 119) := by decide

theorem test_decode_major_14_0 :
    decodeWord 0x5D4FC029 = .ok (.faddBf16x2 120 83 46)
    ∧ decodeWord 0x5D4FC0A9 = .ok (.fsubBf16x2 120 83 46)
    ∧ decodeWord 0x5D4FC129 = .ok (.fmulBf16x2 120 83 46)
    ∧ decodeWord 0x5D4FC1A9 = .ok (.ffmaBf16x2 120 83 46)
    ∧ decodeWord 0x5D4FC229 = .ok (.fminBf16x2 120 83 46)
    ∧ decodeWord 0x5D4FC2A9 = .ok (.fmaxBf16x2 120 83 46)
    ∧ decodeWord 0x00BA9B29 = .ok (.fabsBf16x2 83 46)
    ∧ decodeWord 0x00BA9BA9 = .ok (.fnegBf16x2 83 46)
    ∧ decodeWord 0x89A47429 = .ok (.fscaleBf16x2 14 105 68)
    ∧ decodeWord 0x00BA9CA9 = .ok (.frndBf16x2 83 46)
    ∧ decodeWord 0x01134D29 = .ok (.fclassBf16x2 105 68)
    ∧ decodeWord 0x89A475A9 = .ok (.fcopysBf16x2 14 105 68) := by decide

theorem test_decode_major_14_1 :
    decodeWord 0x73781E29 = .ok (.fdot2Bf16x2 3 94 57) := by decide

theorem test_decode_major_15_0 :
    decodeWord 0x4723682B = .ok (.faddF16x2 109 72 35)
    ∧ decodeWord 0x472368AB = .ok (.fsubF16x2 109 72 35)
    ∧ decodeWord 0x4723692B = .ok (.fmulF16x2 109 72 35)
    ∧ decodeWord 0x472369AB = .ok (.ffmaF16x2 109 72 35)
    ∧ decodeWord 0x47236A2B = .ok (.fminF16x2 109 72 35)
    ∧ decodeWord 0x47236AAB = .ok (.fmaxF16x2 109 72 35)
    ∧ decodeWord 0x008E432B = .ok (.fabsF16x2 72 35)
    ∧ decodeWord 0x008E43AB = .ok (.fnegF16x2 72 35)
    ∧ decodeWord 0x73781C2B = .ok (.fscaleF16x2 3 94 57)
    ∧ decodeWord 0x008E44AB = .ok (.frndF16x2 72 35)
    ∧ decodeWord 0x00E6F52B = .ok (.fclassF16x2 94 57)
    ∧ decodeWord 0x73781DAB = .ok (.fcopysF16x2 3 94 57) := by decide

theorem test_decode_major_15_1 :
    decodeWord 0x5D4FC62B = .ok (.fdot2F16x2 120 83 46) := by decide

theorem test_decode_major_16 :
    decodeWord 0x2CAE82AD = .ok (.fcvt 5 80 43 6 1) := by decide

theorem test_decode_compact_0 :
    decodeWord 0xCF80 = .ok (.vmovCompact 30 25)
    ∧ decodeWord 0xCF84 = .ok (.vaddCompact 30 25)
    ∧ decodeWord 0xCF88 = .ok (.vsubCompact 30 25)
    ∧ decodeWord 0xCF8C = .ok (.vandCompact 30 25)
    ∧ decodeWord 0x74D0 = .ok (.vorCompact 19 14)
    ∧ decodeWord 0xCF94 = .ok (.vxorCompact 30 25)
    ∧ decodeWord 0xCF98 = .ok (.vshlCompact 30 25)
    ∧ decodeWord 0xCF9C = .ok (.vshrCompact 30 25)
    ∧ decodeWord 0xCFA0 = .ok (.vminCompact 30 25)
    ∧ decodeWord 0xCFA4 = .ok (.vmaxCompact 30 25)
    ∧ decodeWord 0xCFA8 = .ok (.faddCompact 30 25)
    ∧ decodeWord 0xCFAC = .ok (.fsubCompact 30 25) := by decide

theorem test_decode_compact_1 :
    decodeWord 0xCFB0 = .ok (.fmulCompact 30 25)
    ∧ decodeWord 0xCFB4 = .ok (.fminCompact 30 25)
    ∧ decodeWord 0xCFB8 = .ok (.fmaxCompact 30 25)
    ∧ decodeWord 0xCFBC = .ok (.vmulCompact 30 25)
    ∧ decodeWord 0x0B86 = .ok (.dict 737)
    ∧ decodeWord 0x1002 = .ok .nop16 := by decide

theorem test_decode_major_17 :
    decodeWord 0x0245B02F = .ok (.fexp2 54 17 1)
    ∧ decodeWord 0x0245B0AF = .ok (.flog2 54 17 1)
    ∧ decodeWord 0x0219592F = .ok (.frcp 43 6 1)
    ∧ decodeWord 0x021959AF = .ok (.frsq 43 6 1)
    ∧ decodeWord 0x0245B22F = .ok (.fsqrt 54 17 1)
    ∧ decodeWord 0x06720AAF = .ok (.fsinpi 65 28 3)
    ∧ decodeWord 0x06720B2F = .ok (.fcospi 65 28 3)
    ∧ decodeWord 0x0245B3AF = .ok (.ftanh 54 17 1)
    ∧ decodeWord 0x0245B42F = .ok (.fsigm 54 17 1)
    ∧ decodeWord 0x0245B4AF = .ok (.fgelu 54 17 1)
    ∧ decodeWord 0x02195D2F = .ok (.ferf 43 6 1) := by decide

theorem test_decode_major_18_0 :
    decodeWord 0xD845B031 = .ok (.shfli 54 17 108)
    ∧ decodeWord 0xD845B0B1 = .ok (.shflu 54 17 108)
    ∧ decodeWord 0xD845B131 = .ok (.shfld 54 17 108)
    ∧ decodeWord 0xD845B1B1 = .ok (.shflx 54 17 108)
    ∧ decodeWord 0x00093A31 = .ok (.voteany 39 2)
    ∧ decodeWord 0x00093AB1 = .ok (.voteall 39 2)
    ∧ decodeWord 0xEE720B31 = .ok (.ballot 65 28 119)
    ∧ decodeWord 0x01DCE3B1 = .ok (.redadd 28 119)
    ∧ decodeWord 0x01DCE431 = .ok (.redmin 28 119)
    ∧ decodeWord 0x01DCE4B1 = .ok (.redmax 28 119)
    ∧ decodeWord 0x01DCE531 = .ok (.redand 28 119)
    ∧ decodeWord 0x01B08DB1 = .ok (.redor 17 108) := by decide

theorem test_decode_major_18_1 :
    decodeWord 0x01DCE631 = .ok (.redxor 28 119)
    ∧ decodeWord 0x00093EB1 = .ok (.scanadd 39 2)
    ∧ decodeWord 0x1845B731 = .ok (.bcast 54 17 12)
    ∧ decodeWord 0x01B08FB1 = .ok (.matchLanes 17 108) := by decide

theorem test_decode_major_19 :
    decodeWord 0x00093833 = .ok (.redfadd 39 2)
    ∧ decodeWord 0x000938B3 = .ok (.redfmax 39 2)
    ∧ decodeWord 0x00093933 = .ok (.redfmin 39 2)
    ∧ decodeWord 0x003591B3 = .ok (.scanfadd 50 13)
    ∧ decodeWord 0x00036233 = .ok (.vlane 108)
    ∧ decodeWord 0x00030AB3 = .ok (.vthr 97)
    ∧ decodeWord 0xC2195B33 = .ok (.vsel 43 6 97)
    ∧ decodeWord 0xA201B3B3 = .ok (.vmovs 54 17 1) := by decide

theorem test_decode_major_1A_0 :
    decodeWord 0xA7E0E835 = .ok (.vaddScalar 29 120 19 1)
    ∧ decodeWord 0xA7E0E8B5 = .ok (.vsubScalar 29 120 19 1)
    ∧ decodeWord 0xA7E0E935 = .ok (.vmulScalar 29 120 19 1)
    ∧ decodeWord 0xBC0D41B5 = .ok (.vmulhScalar 40 3 30 1)
    ∧ decodeWord 0xD2399A35 = .ok (.vmulhnScalar 51 14 41 1)
    ∧ decodeWord 0xA7E0EAB5 = .ok (.vmadScalar 29 120 19 1)
    ∧ decodeWord 0xA7E0EB35 = .ok (.vminScalar 29 120 19 1)
    ∧ decodeWord 0xA7E0EBB5 = .ok (.vmaxScalar 29 120 19 1)
    ∧ decodeWord 0xBC0D4435 = .ok (.vminnScalar 40 3 30 1)
    ∧ decodeWord 0xBC0D44B5 = .ok (.vmaxnScalar 40 3 30 1)
    ∧ decodeWord 0xA7E0ED35 = .ok (.vandScalar 29 120 19 1)
    ∧ decodeWord 0x91B495B5 = .ok (.vorScalar 18 109 8 1) := by decide

theorem test_decode_major_1A_1 :
    decodeWord 0xA7E0EE35 = .ok (.vxorScalar 29 120 19 1)
    ∧ decodeWord 0xBC0D46B5 = .ok (.vandnScalar 40 3 30 1)
    ∧ decodeWord 0xA7E0EF35 = .ok (.vshlScalar 29 120 19 1)
    ∧ decodeWord 0xA7E0EFB5 = .ok (.vshrScalar 29 120 19 1) := by decide

theorem test_decode_major_1B :
    decodeWord 0xA7E0E837 = .ok (.faddScalar 29 120 19 1)
    ∧ decodeWord 0xA7E0E8B7 = .ok (.fsubScalar 29 120 19 1)
    ∧ decodeWord 0xA7E0E937 = .ok (.fmulScalar 29 120 19 1)
    ∧ decodeWord 0xA7E0E9B7 = .ok (.ffmaScalar 29 120 19 1)
    ∧ decodeWord 0xA7E0EA37 = .ok (.fminScalar 29 120 19 1)
    ∧ decodeWord 0xA7E0EAB7 = .ok (.fmaxScalar 29 120 19 1)
    ∧ decodeWord 0xD2399C37 = .ok (.fscaleScalar 51 14 41 1)
    ∧ decodeWord 0xD2399DB7 = .ok (.fcopysScalar 51 14 41 1) := by decide

theorem test_decode_major_1C :
    decodeWord 0xD845B039 = .ok (.vaddi 54 17 108)
    ∧ decodeWord 0xD845B0B9 = .ok (.vandi 54 17 108)
    ∧ decodeWord 0xC2195939 = .ok (.vori 43 6 97)
    ∧ decodeWord 0xD845B1B9 = .ok (.vxori 54 17 108)
    ∧ decodeWord 0xD845B239 = .ok (.vshli 54 17 108)
    ∧ decodeWord 0xD845B2B9 = .ok (.vshri 54 17 108)
    ∧ decodeWord 0xD845B339 = .ok (.vsrai 54 17 108)
    ∧ decodeWord 0xD845B3B9 = .ok (.vmuli 54 17 108) := by decide

theorem test_decode_major_1D :
    decodeWord 0x0B5BD83B = .ok (.vli 123 726)
    ∧ decodeWord 0x0B8430BB = .ok (.vlis 6 737) := by decide

theorem test_decode_major_1E :
    decodeWord 0x6E72083D = .ok (.bdecZ 65 28 55)
    ∧ decodeWord 0x6E7208BD = .ok (.bdecS 65 28 55)
    ∧ decodeWord 0x1ACAB93D = .ok (.lutxB32 87 50 13)
    ∧ decodeWord 0x1ACAB9BD = .ok (.lutxB16 87 50 13) := by decide

theorem test_decode_major_1F :
    decodeWord 0x0004303F = .ok (.qpop 6 1)
    ∧ decodeWord 0x000488BF = .ok (.qpeek 17 1)
    ∧ decodeWord 0x01B0093F = .ok (.qpush 1 108)
    ∧ decodeWord 0x01B089BF = .ok (.vkill 17 108)
    ∧ decodeWord 0x0184323F = .ok (.vmov 6 97) := by decide

theorem test_decode_major_20 :
    decodeWord 0xFB822841 = .ok (.ldb 69 32 123 1)
    ∧ decodeWord 0x86AE80C1 = .ok (.ldbs 80 43 6 1)
    ∧ decodeWord 0xFB822941 = .ok (.ldh 69 32 123 1)
    ∧ decodeWord 0x86AE81C1 = .ok (.ldhs 80 43 6 1)
    ∧ decodeWord 0xFB822A41 = .ok (.ldw 69 32 123 1)
    ∧ decodeWord 0xFB822AC1 = .ok (.ldd 69 32 123 1)
    ∧ decodeWord 0xFB822B41 = .ok (.ldq 69 32 123 1)
    ∧ decodeWord 0x61195BC1 = .ok (.ldwa 43 6 97)
    ∧ decodeWord 0x61195C41 = .ok (.ldda 43 6 97) := by decide

theorem test_decode_major_21 :
    decodeWord 0x56ED0043 = .ok (.stb 32 59 86)
    ∧ decodeWord 0x56ED00C3 = .ok (.sth 32 59 86)
    ∧ decodeWord 0x56ED0143 = .ok (.stw 32 59 86)
    ∧ decodeWord 0x56ED01C3 = .ok (.std 32 59 86)
    ∧ decodeWord 0x56ED0243 = .ok (.stq 32 59 86)
    ∧ decodeWord 0x61195AC3 = .ok (.stwl 43 6 97)
    ∧ decodeWord 0x61195B43 = .ok (.stdl 43 6 97) := by decide

theorem test_decode_major_22 :
    decodeWord 0x61195845 = .ok (.ldsb 43 6 97)
    ∧ decodeWord 0x6C45B0C5 = .ok (.ldsbs 54 17 108)
    ∧ decodeWord 0x61195945 = .ok (.ldsh 43 6 97)
    ∧ decodeWord 0x6C45B1C5 = .ok (.ldshs 54 17 108)
    ∧ decodeWord 0x61195A45 = .ok (.ldsw 43 6 97)
    ∧ decodeWord 0x61195AC5 = .ok (.ldsd 43 6 97)
    ∧ decodeWord 0x61195B45 = .ok (.ldsq 43 6 97)
    ∧ decodeWord 0x61195BC5 = .ok (.stsb 43 6 97)
    ∧ decodeWord 0x61195C45 = .ok (.stsh 43 6 97)
    ∧ decodeWord 0x61195CC5 = .ok (.stsw 43 6 97)
    ∧ decodeWord 0x61195D45 = .ok (.stsd 43 6 97)
    ∧ decodeWord 0x61195DC5 = .ok (.stsq 43 6 97) := by decide

theorem test_decode_major_23_0 :
    decodeWord 0x61195847 = .ok (.aadd 43 6 97)
    ∧ decodeWord 0x611958C7 = .ok (.amin 43 6 97)
    ∧ decodeWord 0x61195947 = .ok (.amax 43 6 97)
    ∧ decodeWord 0x6C45B1C7 = .ok (.aminn 54 17 108)
    ∧ decodeWord 0x6C45B247 = .ok (.amaxn 54 17 108)
    ∧ decodeWord 0x61195AC7 = .ok (.aand 43 6 97)
    ∧ decodeWord 0x56ED0347 = .ok (.aor 32 59 86)
    ∧ decodeWord 0x61195BC7 = .ok (.axor 43 6 97)
    ∧ decodeWord 0x61195C47 = .ok (.axch 43 6 97)
    ∧ decodeWord 0x61195CC7 = .ok (.acas 43 6 97)
    ∧ decodeWord 0x6C45B547 = .ok (.afadd 54 17 108)
    ∧ decodeWord 0x77720DC7 = .ok (.afaddp 65 28 119) := by decide

theorem test_decode_major_23_1 :
    decodeWord 0x61195E47 = .ok (.ainc 43 6 97)
    ∧ decodeWord 0x61195EC7 = .ok (.adec 43 6 97) := by decide

theorem test_decode_major_24 :
    decodeWord 0x61195849 = .ok (.gadd 43 6 97)
    ∧ decodeWord 0x611958C9 = .ok (.gmin 43 6 97)
    ∧ decodeWord 0x61195949 = .ok (.gmax 43 6 97)
    ∧ decodeWord 0x6C45B1C9 = .ok (.gminn 54 17 108)
    ∧ decodeWord 0x6C45B249 = .ok (.gmaxn 54 17 108)
    ∧ decodeWord 0x61195AC9 = .ok (.gand 43 6 97)
    ∧ decodeWord 0x56ED0349 = .ok (.gor 32 59 86)
    ∧ decodeWord 0x61195BC9 = .ok (.gxor 43 6 97)
    ∧ decodeWord 0x6C45B449 = .ok (.gfadd 54 17 108)
    ∧ decodeWord 0x77720CC9 = .ok (.gfaddp 65 28 119) := by decide

theorem test_decode_major_25_0 :
    decodeWord 0x7772084B = .ok (.aaddS 65 28 119)
    ∧ decodeWord 0x777208CB = .ok (.aminS 65 28 119)
    ∧ decodeWord 0x7772094B = .ok (.amaxS 65 28 119)
    ∧ decodeWord 0x029E61CB = .ok (.aminnS 76 39 2)
    ∧ decodeWord 0x029E624B = .ok (.amaxnS 76 39 2)
    ∧ decodeWord 0x77720ACB = .ok (.aandS 65 28 119)
    ∧ decodeWord 0x6C45B34B = .ok (.aorS 54 17 108)
    ∧ decodeWord 0x77720BCB = .ok (.axorS 65 28 119)
    ∧ decodeWord 0x77720C4B = .ok (.axchS 65 28 119)
    ∧ decodeWord 0x77720CCB = .ok (.acasS 65 28 119)
    ∧ decodeWord 0x029E654B = .ok (.afaddS 76 39 2)
    ∧ decodeWord 0x0DCABDCB = .ok (.afaddpS 87 50 13) := by decide

theorem test_decode_major_25_1 :
    decodeWord 0x77720E4B = .ok (.aincS 65 28 119)
    ∧ decodeWord 0x77720ECB = .ok (.adecS 65 28 119) := by decide

theorem test_decode_major_26 :
    decodeWord 0x6119584D = .ok (.ldpw 43 6 97)
    ∧ decodeWord 0x611958CD = .ok (.stpw 43 6 97)
    ∧ decodeWord 0x6C45B14D = .ok (.apadd 54 17 108)
    ∧ decodeWord 0x611959CD = .ok (.ldxw 43 6 97)
    ∧ decodeWord 0x61195A4D = .ok (.stxw 43 6 97)
    ∧ decodeWord 0x6C45B2CD = .ok (.nxadd 54 17 108)
    ∧ decodeWord 0x77720B4D = .ok (.nxfadd 65 28 119)
    ∧ decodeWord 0x61195BCD = .ok (.ldxd 43 6 97)
    ∧ decodeWord 0x61195C4D = .ok (.stxd 43 6 97) := by decide

theorem test_decode_major_27 :
    decodeWord 0x0200004F = .ok (.fence 4)
    ∧ decodeWord 0x708C00CF = .ok (.pref 6 225)
    ∧ decodeWord 0x0058014F = .ok (.invl1 44) := by decide

theorem test_decode_major_28 :
    decodeWord 0x646DB0D1 = .ok (.waitc 1 27 22 17 12) := by decide

theorem test_decode_major_29 :
    decodeWord 0x1623B053 = .ok (.waitr 54 17 44)
    ∧ decodeWord 0x708030D3 = .ok (.bara 6 225)
    ∧ decodeWord 0x708D5953 = .ok (.barw 43 6 225)
    ∧ decodeWord 0x708031D3 = .ok (.bart 6 225)
    ∧ decodeWord 0x76008A53 = .ok (.bjoin 17 236)
    ∧ decodeWord 0x7B80E2D3 = .ok (.bleave 28 247)
    ∧ decodeWord 0x7623B353 = .ok (.binit 54 17 236)
    ∧ decodeWord 0x708003D3 = .ok (.xacq 225)
    ∧ decodeWord 0x70803453 = .ok (.xtry 6 225)
    ∧ decodeWord 0x708004D3 = .ok (.xrel 225) := by decide

theorem test_decode_major_30 :
    decodeWord 0xBB360861 = .ok (.cpush 1 27 54 1 1)
    ∧ decodeWord 0xBB3608E1 = .ok (.opost 1 27 54 1 1)
    ∧ decodeWord 0x10803161 = .ok (.cseq 6 33)
    ∧ decodeWord 0xC05681E1 = .ok (.attn 16 43 2 1) := by decide

theorem test_decode_major_31 :
    decodeWord 0x10803063 = .ok (.tdld 6 33)
    ∧ decodeWord 0x108300E3 = .ok (.tdst 6 33)
    ∧ decodeWord 0x160B5963 = .ok (.tdset 11 6 1 44)
    ∧ decodeWord 0x200359E3 = .ok (.tcpy 11 6 1)
    ∧ decodeWord 0x200B5A63 = .ok (.tcpyq 11 6 1 1)
    ∧ decodeWord 0x2000B2E3 = .ok (.tcpyx 6 1 1)
    ∧ decodeWord 0x1600B363 = .ok (.tdoff 6 1 44) := by decide

theorem test_decode_major_32 :
    decodeWord 0x00423065 = .ok (.hreg 6 33)
    ∧ decodeWord 0x00B1E865 = .ok (.hregFree 61 24)
    ∧ decodeWord 0x7623B0E5 = .ok (.hwait 54 17 236)
    ∧ decodeWord 0x70800165 = .ok (.hret 225)
    ∧ decodeWord 0x005801E5 = .ok (.hseal 44)
    ∧ decodeWord 0x00588A65 = .ok (.ostat 17 44)
    ∧ decodeWord 0x00053AE5 = .ok (.ocancel 39 2)
    ∧ decodeWord 0x00588B65 = .ok (.rtreg 17 44)
    ∧ decodeWord 0x006EE3E5 = .ok (.rtfree 28 55) := by decide

theorem test_decode_major_33 :
    decodeWord 0x01DC0067 = .ok (.hstage 119)
    ∧ decodeWord 0x0003B8E7 = .ok (.hdrain 119) := by decide

theorem test_decode_major_34 :
    decodeWord 0x2358A869 = .ok (.fold 5 1 11 6 1)
    ∧ decodeWord 0x2358A8E9 = .ok (.scan 5 1 11 6 1)
    ∧ decodeWord 0x5D8AD169 = .ok (.zip 10 5 1 59 2)
    ∧ decodeWord 0x28B589E9 = .ok (.outer 1 11 6 17 1) := by decide

theorem test_decode_major_35 :
    decodeWord 0x00B8086B = .ok (.epsnap 1 28 1)
    ∧ decodeWord 0x006EE0EB = .ok (.eprest 28 55)
    ∧ decodeWord 0x001B916B = .ok (.epcommit 50 13)
    ∧ decodeWord 0x005889EB = .ok (.epmap 17 44)
    ∧ decodeWord 0x00B80A6B = .ok (.kvslot 1 28 1)
    ∧ decodeWord 0x006EE2EB = .ok (.kvtent 28 55)
    ∧ decodeWord 0x001B936B = .ok (.kvcommit 50 13)
    ∧ decodeWord 0x006EE3EB = .ok (.kvroll 28 55)
    ∧ decodeWord 0x006EE46B = .ok (.kvfork 28 55)
    ∧ decodeWord 0x00588CEB = .ok (.kvlen 17 44) := by decide

theorem test_decode_major_36 :
    decodeWord 0x2305886D = .ok (.coll 1 11 6 1) := by decide

theorem test_decode_major_37 :
    decodeWord 0x7BB8086F = .ok (.abinit 1 28 247)
    ∧ decodeWord 0x005888EF = .ok (.abarr 17 44)
    ∧ decodeWord 0x006EE16F = .ok (.abwait 28 55)
    ∧ decodeWord 0x006EE1EF = .ok (.abtest 28 55)
    ∧ decodeWord 0x00588A6F = .ok (.absig 17 44) := by decide

theorem test_decode_major_38 :
    decodeWord 0x006EE071 = .ok (.dawnld 28 55)
    ∧ decodeWord 0x006EE0F1 = .ok (.dawngo 28 55)
    ∧ decodeWord 0x00006971 = .ok (.dawnstop 13)
    ∧ decodeWord 0x0001B9F1 = .ok (.jcdeal 55) := by decide

theorem test_decode_major_3E :
    decodeWord 0x00E82BFD = .ok (.pfx 7 2 1 32 3 1) := by decide

/-! ## Ill-formed terms (02 R22, WHY 3) -/

theorem test_wf_shift_counts : Instr.wf (.sshli 1 2 64) = false ∧ Instr.wf (.sshri 1 2 511) = false ∧ Instr.wf (.ssrai 1 2 64) = false
    ∧ Instr.wf (.vshli 1 2 32) = false ∧ Instr.wf (.vshri 1 2 127) = false ∧ Instr.wf (.vsrai 1 2 32) = false
    ∧ Instr.wf (.sshli 1 2 63) = true ∧ Instr.wf (.vsrai 1 2 31) = true := by decide

theorem test_wf_special_numbers : Instr.wf (.mfs 1 0x00B) = false ∧ Instr.wf (.mts 1 0x1FF) = false ∧ Instr.wf (.mfs 1 0x033) = true := by decide

theorem test_wf_types : Instr.wf (.fcvt 14 1 2 0 0) = false ∧ Instr.wf (.fcvt 0 1 2 15 0) = false ∧ Instr.wf (.fcvt 0 1 2 7 1) = false
    ∧ Instr.wf (.fcvt 13 1 2 1 0) = false ∧ Instr.wf (.fcvt 3 2 1 0 3) = true
    ∧ ([Instr.fexp2 1 2 3, .flog2 1 2 3, .frcp 1 2 3, .frsq 1 2 3, .fsqrt 1 2 3, .fsinpi 1 2 3, .fcospi 1 2 3, .ftanh 1 2 3, .fsigm 1 2 3,
      .fgelu 1 2 3, .ferf 1 2 3].all (fun i => !i.wf)) = true := by decide

theorem test_wf_register_groups : ([Instr.ldd 1 2 3 0, .ldda 1 2 3, .std 1 2 3, .stdl 1 2 3, .ldsd 1 2 3, .stsd 1 2 3, .acas 1 2 3,
      .acasS 1 2 3, .ldxd 1 2 3, .stxd 1 2 3, .ldq 2 2 3 0, .stq 2 2 3, .ldsq 2 2 3, .stsq 6 2 3, .vkill 4 3, .cpush 1 4 0 0 0,
      .opost 1 4 0 0 0, .attn 1 4 0 0].all (fun i => !i.wf)) = true ∧ Instr.wf (.ldq 4 2 3 0) = true ∧ Instr.wf (.vkill 3 3) = true := by
  decide

theorem test_wf_ranges : ([Instr.fence 7, .pfx 0 6 0 0 0 0, .opost 1 8 5 0 0, .tdset 1 2 9 3, .hwait 1 2 256, .hret 4, .hstage 97, .hdrain 97,
      .fold 1 2 3 62 0, .scan 1 2 3 62 0, .zip 1 2 3 62 0, .outer 1 2 3 62 0, .coll 1 2 63 0, .bara 1 272, .bart 1 272, .bjoin 1 272,
      .bleave 1 272, .barw 1 2 272, .binit 1 2 272, .xacq 0, .xacq 7, .xrel 0, .xrel 7, .xtry 1 0, .xtry 1 7, .abinit 1 2 0,
      .abinit 1 2 257, .abwait 1 63, .abtest 1 63, .epsnap 1 63 0, .kvslot 1 63 0, .eprest 1 63, .epcommit 1 63, .kvtent 1 63,
      .kvcommit 1 63, .kvroll 1 63, .kvfork 1 62, .kvlen 63 1, .jcdeal 63].all (fun i => !i.wf)) = true
    ∧ ([Instr.fence 6, .hret 3, .hstage 96, .bara 1 271, .xacq 6, .abinit 1 2 256, .jcdeal 62].all (·.wf)) = true := by decide

section
set_option Elab.async false

/-! ## Scalars (07 R154 to R158; 01) -/

/-- Division by zero (07 R155's table). -/
theorem test_sdiv_by_zero : sAfter (.sdiv 3 1 2) (withS [(1, 7)] user) 3 = some 0xFFFFFFFFFFFFFFFF := by decide +kernel
/-- −2^63 / −1 (R155). -/
theorem test_sdiv_overflow : sAfter (.sdiv 3 1 2) (withS [(1, 0x8000000000000000), (2, 0xFFFFFFFFFFFFFFFF)] user) 3
    = some 0x8000000000000000 := by decide +kernel
/-- −7 rem 2 has the sign of the dividend. -/
theorem test_srem_sign : sAfter (.srem 3 1 2) (withS [(1, 0xFFFFFFFFFFFFFFF9), (2, 2)] user) 3 = some 0xFFFFFFFFFFFFFFFF := by decide +kernel
theorem test_sdivn_unsigned : sAfter (.sdivn 3 1 2) (withS [(1, 0xFFFFFFFFFFFFFFF9), (2, 2)] user) 3 = some 0x7FFFFFFFFFFFFFFC := by
  decide +kernel
theorem test_sremn_zero : sAfter (.sremn 3 1 2) (withS [(1, 0xFFFFFFFFFFFFFFF9)] user) 3 = some 0xFFFFFFFFFFFFFFF9 := by decide +kernel
/-- −1 × −1 has high half 0, and 2^64 − 2 unsigned. -/
theorem test_smulh : sAfter (.smulh 3 1 1) (withS [(1, 0xFFFFFFFFFFFFFFFF)] user) 3 = some 0 := by decide +kernel
theorem test_smulhn : sAfter (.smulhn 3 1 1) (withS [(1, 0xFFFFFFFFFFFFFFFF)] user) 3 = some 0xFFFFFFFFFFFFFFFE := by decide +kernel
/-- s0 ignores writes (R147). -/
theorem test_sadd_s0 : sAfter (.sadd 0 1 1) (withS [(1, 5)] user) 0 = some 0 := by decide +kernel
/-- Shift counts take eight bits; 64 and more give 0, or the sign for SSRA (R154). -/
theorem test_sshl_wide : sAfter (.sshl 3 1 2) (withS [(1, 5), (2, 64)] user) 3 = some 0 := by decide +kernel
theorem test_sshl_ignores_high_bits : sAfter (.sshl 3 1 2) (withS [(1, 5), (2, 0x101)] user) 3 = some 10 := by decide +kernel
theorem test_ssra_wide : sAfter (.ssra 3 1 2) (withS [(1, 0x8000000000000000), (2, 255)] user) 3 = some 0xFFFFFFFFFFFFFFFF := by decide +kernel
theorem test_sandn : sAfter (.sandn 3 1 2) (withS [(1, 0xFF), (2, 0x0F)] user) 3 = some 0xF0 := by decide +kernel
theorem test_sclz_zero : sAfter (.sclz 3 1) user 3 = some 64 := by decide +kernel
theorem test_smin_signed : sAfter (.smin 3 1 2) (withS [(1, 0xFFFFFFFFFFFFFFFF), (2, 1)] user) 3 = some 0xFFFFFFFFFFFFFFFF := by decide +kernel
theorem test_sminn_unsigned : sAfter (.sminn 3 1 2) (withS [(1, 0xFFFFFFFFFFFFFFFF), (2, 1)] user) 3 = some 1 := by decide +kernel
theorem test_saddi_negative : sAfter (.saddi 3 1 0x1FF) (withS [(1, 5)] user) 3 = some 4 := by decide +kernel
theorem test_sandi_sign_extends : sAfter (.sandi 3 1 0x1FF) (withS [(1, 0x123456789)] user) 3 = some 0x123456789 := by decide +kernel
theorem test_sshli_64 : trapAfter (.sshli 3 1 64) user = some (1, 0, 3) := by decide +kernel
/-- SLI −1, then SLIS appends fifteen bits (R158). -/
theorem test_sli : sAfter (.sli 3 0x7FFF) user 3 = some 0xFFFFFFFFFFFFFFFF := by decide +kernel
theorem test_slis : sAfter (.slis 3 0x7FFF) (withS [(3, 1)] user) 3 = some 0xFFFF := by decide +kernel
/-- 0 − 1: N, no Z, borrow so C clear, no V (R156). −2^63 − 1: C and V set, N clear. -/
theorem test_scmp_borrow : (after (.scmp 0 1) (withS [(1, 1)] user)).map (fun t => (t.w.fz, t.w.fn, t.w.fc, t.w.fv))
    = some (false, true, false, false) := by decide +kernel
theorem test_scmp_overflow : (after (.scmp 1 2) (withS [(1, 0x8000000000000000), (2, 1)] user)).map
    (fun t => (t.w.fz, t.w.fn, t.w.fc, t.w.fv)) = some (false, false, true, true) := by decide +kernel

/-! ## Special registers (07 R150) -/

theorem test_mfs_part : sAfter (.mfs 3 0x010) user 3 = some 32 := by decide +kernel
theorem test_mfs_splits : sAfter (.mfs 3 0x017) user 3 = some 1 := by decide +kernel
/-- An MTS to a register of access R: PRIV (code 2). -/
theorem test_mts_read_only : trapAfter (.mts 1 0x001) user = some (2, 0, 0) := by decide +kernel
/-- User code at a register of access P. -/
theorem test_mfs_privileged : (trapAfter (.mfs 1 0x031) user).map (·.1) = some 2 := by decide +kernel
/-- MODE 6 breaks RND's limits (04 R60): ILLEGAL, WHY 3, RND unchanged. -/
theorem test_mts_rnd_limit : trapAfter (.mts 1 0x011) (withS [(1, 6)] user) = some (1, 0, 3) := by decide +kernel
theorem test_mts_part : (after (.mts 1 0x010) (withS [(1, 8)] user)).map (·.w.part) = some 8 := by decide +kernel

/-! ## Control (01 R9; 02 R13; 07 R148; 16) -/

/-- BRA's offset counts parcels from the branch (02 R13). -/
theorem test_bra_back : (after (.bra 0 0x1FFFFE) user).map (·.w.cur.pc) = some 0xFFC := by decide +kernel
theorem test_bra_not_taken : (after (.bra 1 10) user).map (·.w.cur.pc) = some 0x1004 := by decide +kernel
theorem test_call : (after (.call 8) user).map (fun t => (t.w.cur.pc, t.w.sGet 63)) = some (0x1010, 0x1004) := by decide +kernel
/-- A target with bit 0 set raises ALIGN (02 R12) at the instruction. -/
theorem test_jmp_odd : (after (.jmp 1) (withS [(1, 0x2001)] user)).map (fun t => (bits t.w.trap.tcause.toNat 7 0, t.w.trap.tpc, t.w.trap.taddr))
    = some (3, 0x1000, 0x2001) := by decide +kernel
theorem test_ret : (after .ret (withS [(63, 0x4000)] user)).map (·.w.cur.pc) = some 0x4000 := by decide +kernel
/-- TRAP n: TSUB n, TPC the next instruction's address; BKPT n: TPC its own address. Both go to KTVEC without TVEC. -/
theorem test_trap : (after (.trap 0x123) user).map (fun t => (bits t.w.trap.tcause.toNat 7 0, t.w.trap.tsub, t.w.trap.tpc, t.w.cur.pc, t.w.cur.priv))
    = some (0x0A, 0x123, 0x1004, 0x2000, true) := by decide +kernel
theorem test_bkpt : (after (.bkpt 7) user).map (fun t => (bits t.w.trap.tcause.toNat 7 0, t.w.trap.tsub, t.w.trap.tpc)) = some (0x0B, 7, 0x1000) := by
  decide +kernel
/-- Privileged instructions in user mode. -/
theorem test_tlbi_user : (trapAfter .tlbiAsid user).map (·.1) = some 2 := by decide +kernel
theorem test_mspill_user : (trapAfter .mspill user).map (·.1) = some 2 := by decide +kernel
theorem test_exit_ends_warp : (after .exit user).map (·.w.ended) = some true := by decide +kernel
/-- BRD with k1 = 1: thread 0 branches off; the other threads go on (14 R308). -/
theorem test_brd_divides : (after (.brd 1 0 16) { user with w := user.w.kSet 1 0xFFFFFFFF 1 }).map
    (fun t => (t.w.splits.map (fun p => (p.active, p.pc)))) = some [(0xFFFFFFFE, 0x1004), (1, 0x1020)] := by decide +kernel

/-! ## Vector integers (07 R159 to R165) -/

theorem test_vadd_wraps : vAfter (.vadd 3 1 2) (withV 1 0xFFFFFFFF (withV 2 2 pair)) 3 1 = some 1 := by decide +kernel
/-- Threads outside the split keep their value. -/
theorem test_vadd_inactive : (after (.vadd 3 1 1) (withV 1 1 pair)).map (fun t => (t.w.vGet 3 1, t.w.vGet 3 2)) = some (2, 0) := by decide +kernel
theorem test_vmulh : vAfter (.vmulh 3 1 1) (withV 1 0x80000000 pair) 3 0 = some 0x40000000 := by decide +kernel
theorem test_vmad : vAfter (.vmad 3 1 2) (withV 1 3 (withV 2 5 (withV 3 7 pair))) 3 1 = some 22 := by decide +kernel
theorem test_vshl_32 : vAfter (.vshl 3 1 2) (withV 1 1 (withV 2 32 pair)) 3 0 = some 0 := by decide +kernel
/-- R162's examples. -/
theorem test_vbfx : vAfter (.vbfx 3 1 2) (withV 1 0x12345678 (withV 2 0x408 pair)) 3 0 = some 6 := by decide +kernel
theorem test_vbfi : vAfter (.vbfi 3 1 2) (withV 1 0xF (withV 2 0x408 pair)) 3 0 = some 0xF00 := by decide +kernel
/-- R163's examples. -/
theorem test_vpermb_reverse : vAfter (.vpermb 3 1 2) (withV 1 0x11223344 (withV 2 0x0123 pair)) 3 0 = some 0x44332211 := by decide +kernel
theorem test_vpermb_extend : vAfter (.vpermb 3 1 2) (withV 1 0x00008044 (withV 2 0x9910 pair)) 3 0 = some 0xFFFF8044 := by decide +kernel
theorem test_vabsd : vAfter (.vabsd 3 1 2) (withV 1 0x80000000 (withV 2 0x7FFFFFFF pair)) 3 0 = some 0xFFFFFFFF := by decide +kernel
theorem test_vadds : vAfter (.vadds 3 1 2) (withV 1 0x7FFFFFFF (withV 2 1 pair)) 3 0 = some 0x7FFFFFFF := by decide +kernel
/-- ⌊(−1 + 0) / 2⌋ = −1. -/
theorem test_vavg_floor : vAfter (.vavg 3 1 2) (withV 1 0xFFFFFFFF pair) 3 0 = some 0xFFFFFFFF := by decide +kernel
theorem test_vrot : vAfter (.vrot 3 1 2) (withV 1 0x80000001 (withV 2 33 pair)) 3 0 = some 3 := by decide +kernel
theorem test_vabs_min : vAfter (.vabs 3 1) (withV 1 0x80000000 pair) 3 0 = some 0x80000000 := by decide +kernel
theorem test_vpack : vAfter (.vpack 3 1 2) (withV 1 0xAAAA1234 (withV 2 0xBBBB5678 pair)) 3 0 = some 0x56781234 := by decide +kernel
/-- H selects the half of the scalar. -/
theorem test_vadd_scalar_high : vAfter (.vaddScalar 3 1 2 1) (withV 1 1 (withS [(2, 0x500000007)] pair)) 3 0 = some 6 := by decide +kernel
theorem test_vandi_sign_extends : vAfter (.vandi 3 1 0x40) (withV 1 0xFFFFFFFF pair) 3 0 = some 0xFFFFFFC0 := by decide +kernel
theorem test_vlis : vAfter (.vlis 3 0x3FFF) (withV 3 1 pair) 3 0 = some 0x7FFF := by decide +kernel
/-- Unsigned and signed comparison of −1 and 1. -/
theorem test_vcmp_ltn : (after (.vcmp 6 1 1 2) (withV 1 0xFFFFFFFF (withV 2 1 pair))).map (fun t => t.w.kGet 1) = some 0 := by decide +kernel
theorem test_vcmp_lt : (after (.vcmp 2 1 1 2) (withV 1 0xFFFFFFFF (withV 2 1 pair))).map (fun t => t.w.kGet 1) = some 3 := by decide +kernel
/-- FLT of a quiet NaN is false and raises NV. -/
theorem test_vcmp_nan : (after (.vcmp 12 1 1 2) (withV 1 0x7FC00000 pair)).map (fun t => (t.w.kGet 1, t.w.fpx)) = some (0, 1) := by decide +kernel
/-- Poison of an operand poisons the result (R145); a mask holds none, so a comparison raises POISON. -/
theorem test_poison_spreads : (after (.vadd 3 1 2) { pair with w := pair.w.vSet 1 1 (fun _ => 4) 1 }).map (fun t => t.w.vPois 3) = some 1 := by decide +kernel
theorem test_vcmp_poison : (after (.vcmp 1 1 1 2) { pair with w := pair.w.vSet 1 1 (fun _ => 4) 1 }).map
    (fun t => (bits t.w.trap.tcause.toNat 7 0, t.w.trap.tmask)) = some (6, 1) := by decide +kernel
/-- A block the warp does not hold: ILLEGAL, WHY 4. -/
theorem test_block_not_held : trapAfter (.vadd 32 1 2) user = some (1, 0, 4) := by decide +kernel
/-- The compact form has the effect of the 32-bit one (02 R16). -/
theorem test_compact_vsub : vAfter (.vsubCompact 3 1) (withV 1 1 pair) 3 0 = some 0xFFFFFFFF := by decide +kernel

/-! ## Floating point (04; 07 R166 to R170) -/

/-- The worked packed add of chapter 07: RNE. -/
theorem test_fadd_bf16x2 : (after (.faddBf16x2 3 1 2) (withV 1 0x3F807F7F (withV 2 0x3B807F7F pair))).map
    (fun t => (t.w.vGet 3 0, t.w.fpx)) = some (0x3F807F80, 0x14) := by decide +kernel
/-- The same with OF enabled in FPE: ARITH, TSUB the enabled exceptions raised, nothing written. -/
theorem test_fadd_trap : (after (.faddBf16x2 3 1 2) (withV 1 0x3F807F7F (withV 2 0x3B807F7F
      { pair with w := { pair.w with fpe := 4 } }))).map
    (fun t => (bits t.w.trap.tcause.toNat 7 0, t.w.trap.tsub, t.w.vGet 3 0, t.w.fpx)) = some (0x0C, 4, 0, 0) := by decide +kernel
/-- The same under prefixes .rup, .rtz and .sat. -/
theorem test_fadd_rup : vAfter (.faddBf16x2 3 1 2) (withV 1 0x3F807F7F (withV 2 0x3B807F7F { pair with ix := { pair.ix with pfx := some ⟨0, 4, false, 0, false⟩ } })) 3 0
    = some 0x3F817F80 := by decide +kernel
theorem test_fadd_sat : vAfter (.faddBf16x2 3 1 2) (withV 1 0x3F807F7F (withV 2 0x3B807F7F { pair with ix := { pair.ix with pfx := some ⟨0, 0, false, 0, true⟩ } })) 3 0
    = some 0x3F807F7F := by decide +kernel
/-- ∞ − ∞: the canonical NaN and NV. -/
theorem test_fsub_inf : (after (.fsub 3 1 1) (withV 1 0x7F800000 pair)).map (fun t => (t.w.vGet 3 0, t.w.fpx)) = some (0x7FC00000, 1) := by decide +kernel
/-- 1.5 × 1.5 + (−2.25) = +0 exactly. -/
theorem test_ffma_exact : (after (.ffma 3 1 1) (withV 1 0x3FC00000 (withV 3 0xC0100000 pair))).map (fun t => (t.w.vGet 3 0, t.w.fpx)) = some (0, 0) := by
  decide +kernel
/-- −0 is below +0, and one NaN gives the other operand. -/
theorem test_fmin_zero : vAfter (.fmin 3 1 2) (withV 1 0 (withV 2 0x80000000 pair)) 3 0 = some 0x80000000 := by decide +kernel
theorem test_fmax_nan : vAfter (.fmax 3 1 2) (withV 1 0x7FC00000 (withV 2 0x3F800000 pair)) 3 0 = some 0x3F800000 := by decide +kernel
/-- FSCALE of the smallest subnormal by 2^149 is 1. -/
theorem test_fscale : vAfter (.fscale 3 1 2) (withV 1 1 (withV 2 149 pair)) 3 0 = some 0x3F800000 := by decide +kernel
/-- 2.5 rounds to 2 (RNE), without NX. -/
theorem test_frnd : (after (.frnd 3 1) (withV 1 0x40200000 pair)).map (fun t => (t.w.vGet 3 0, t.w.fpx)) = some (0x40000000, 0) := by decide +kernel
theorem test_fclass : vAfter (.fclass 3 1) (withV 1 0x7F800001 pair) 3 0 = some 0x100 := by decide +kernel
/-- 1 + 1 × 1 + 1 × 1 in f16 (FDOT2). -/
theorem test_fdot2 : vAfter (.fdot2F16x2 3 1 1) (withV 1 0x3C003C00 (withV 3 0x3F800000 pair)) 3 0 = some 0x40400000 := by decide +kernel
/-- R179's table: f32 to e4 in position 3. -/
theorem test_fcvt_e4 : (after (.fcvt 3 2 1 0 3) (withV 1 0x43960000 pair)).map (fun t => (t.w.vGet 2 0, t.w.fpx)) = some (0x79000000, 0x10) := by decide +kernel
theorem test_fcvt_e4_overflow : (after (.fcvt 3 2 1 0 3) (withV 1 0x43FA0000 pair)).map (fun t => (t.w.vGet 2 0, t.w.fpx)) = some (0x7F000000, 0x14) := by
  decide +kernel
/-- n32 4,000,000,000 to f16 is +∞ under RNE (R178). -/
theorem test_fcvt_f16_n32 : vAfter (.fcvt 2 2 1 8 0) (withV 1 4000000000 pair) 2 0 = some 0x7C00 := by decide +kernel
/-- 2/3 to d8 is 0.625, 0x13 (04, a block quantised). -/
theorem test_fcvt_d8 : vAfter (.fcvt 5 2 1 0 0) (withV 1 0x3F2AAAAB pair) 2 0 = some 0x13 := by decide +kernel
theorem test_frcp_zero : (after (.frcp 3 1 0) (withV 1 0x80000000 pair)).map (fun t => (t.w.vGet 3 0, t.w.fpx)) = some (0xFF800000, 2) := by decide +kernel
theorem test_fexp2_exact : (after (.fexp2 3 1 0) (withV 1 0xC0400000 pair)).map (fun t => (t.w.vGet 3 0, t.w.fpx)) = some (0x3E000000, 0) := by decide +kernel
theorem test_flog2_exact : (after (.flog2 3 1 0) (withV 1 0x3E000000 pair)).map (fun t => (t.w.vGet 3 0, t.w.fpx)) = some (0xC0400000, 0) := by decide +kernel
theorem test_fsqrt_neg : (after (.fsqrt 3 1 0) (withV 1 0xBF800000 pair)).map (fun t => (t.w.vGet 3 0, t.w.fpx)) = some (0x7FC00000, 1) := by decide +kernel
theorem test_fsinpi_half : vAfter (.fsinpi 3 1 0) (withV 1 0x3FC00000 pair) 3 0 = some 0xBF800000 := by decide +kernel
theorem test_fsigm_zero : vAfter (.fsigm 3 1 0) pair 3 0 = some 0x3F000000 := by decide +kernel

/-! ## Across lanes: the tile at work of chapter 08, and the sums of 04 R74 and R75 -/

/-- PART 8, threads 10 and 13 inactive, v1(t) = t, v2 = 1, v6 = 0. -/
def tile : State := withV 2 1 { user with
  w := { user.w.vSet 1 0xFFFFFFFF (fun t => BitVec.ofNat 32 t) 0 with part := 8, cur := { user.w.cur with active := 0xFFFFDBFF } } }

theorem test_redadd : (after (.redadd 3 1) tile).map (fun t => ([8, 10, 13, 15].map (t.w.vGet 3))) = some [69, 0, 0, 69] := by decide +kernel
theorem test_scanadd : (after (.scanadd 3 1) tile).map (fun t => ([8, 9, 11, 12, 14, 15].map (t.w.vGet 3))) = some [8, 17, 28, 40, 54, 69] := by decide +kernel
theorem test_shflu : (after (.shflu 3 1 2) tile).map (fun t => ([8, 9, 11, 12, 14, 15].map (t.w.vGet 3))) = some [8, 8, 10, 11, 13, 14] := by decide +kernel
theorem test_ballot : (after (.ballot 5 1 6) tile).map (fun t => ([8, 10, 15].map (t.w.vGet 5))) = some [0x8A, 0, 0x8A] := by decide +kernel
theorem test_bcast : (after (.bcast 3 1 5) tile).map (fun t => ([8, 13, 15].map (t.w.vGet 3))) = some [13, 0, 13] := by decide +kernel

/-- PART 4, lanes 1, 2^−24, 2^−24, 2^−24. -/
def sums : State := { user with
  w := { user.w.vSet 1 0xFFFFFFFF (fun t => if t % 4 = 0 then 0x3F800000 else 0x33800000) 0 with part := 4, cur := { user.w.cur with active := 0xF } } }

theorem test_redfadd : (after (.redfadd 3 1) sums).map (fun t => ([0, 3].map (t.w.vGet 3), t.w.fpx)) = some ([0x3F800001, 0x3F800001], 0x10) := by decide +kernel
theorem test_scanfadd : (after (.scanfadd 3 1) sums).map (fun t => ([0, 1, 2, 3].map (t.w.vGet 3), t.w.fpx))
    = some ([0x3F800000, 0x3F800000, 0x3F800000, 0x3F800001], 0x10) := by decide +kernel
theorem test_vthr : vAfter (.vthr 3) { pair with w := { pair.w with wid := 2 } } 3 1 = some 65 := by decide +kernel
theorem test_vmovs_high : vAfter (.vmovs 3 2 1) (withS [(2, 0x700000001)] pair) 3 1 = some 7 := by decide +kernel
/-- BDEC's example of R184. -/
def packed : State := { withS [(2, 0x300000000)] (withV 1 10 pair) with core := { user.core with sram := [(3, 0x80), (4, 1)] } }
theorem test_bdec_z : vAfter (.bdecZ 3 1 2) packed 3 0 = some 6 := by decide +kernel
theorem test_bdec_s : vAfter (.bdecS 3 1 2) packed 3 0 = some 0xFFFFFFFE := by decide +kernel

/-! ## Memory (03; 06) -/

/-- A scalar load from the mapped page. -/
theorem test_sldd : sAfter (.sldd 3 1 0) { withS [(1, 0x100)] mapped with mem := mapped.mem ++ [(0x40100, 0x55)] } 3 = some 0x55 := by decide +kernel
/-- A misaligned address raises ALIGN (06 R118). -/
theorem test_sldd_align : (trapAfter (.sldd 3 1 0) (withS [(1, 0x104)] mapped)).map (·.1) = some 3 := by decide +kernel
/-- The bytes of a store to the scratchpad, little-endian. -/
theorem test_scratch_store : (after (.stsw 1 2 3) (withV 1 0xA1B2C3D4 (withV 3 4 { user with w := { user.w with cur := { user.w.cur with active := 1 } } }))).map
    (fun t => [4, 5, 6, 7].map (fun a => memRead t.core.sram a)) = some [0xD4, 0xC3, 0xB2, 0xA1] := by decide +kernel
theorem test_scratch_load : vAfter (.ldshs 3 2 1) { pair with core := { pair.core with sram := [(0, 0xFE), (1, 0xFF)] } } 3 0 = some 0xFFFFFFFE := by decide +kernel
/-- Outside the allocation: PROT, WHY 4 (06 R114). -/
theorem test_scratch_bound : (trapAfter (.ldsw 3 2 1) (withV 1 4096 pair)) = some (5, 0, 4) := by decide +kernel
/-- Each thread's add sees the threads before it (06 R122): old values 0, 1, 2 … -/
theorem test_scratch_atomic : (after (.aaddS 3 2 1) (withV 3 1 user)).map (fun t => ([0, 1, 31].map (t.w.vGet 3), memRead t.core.sram 0))
    = some ([0, 1, 31], 32) := by decide +kernel

/-! ## Blocks, barriers, fences -/

theorem test_xacq : (after (.xacq 2) user).map (·.w.blocks) = some 2 := by decide +kernel
theorem test_xrel_more : trapAfter (.xrel 1) user = some (1, 0, 3) := by decide +kernel
theorem test_fence_reserved : trapAfter (.fence 7) user = some (1, 0, 3) := by decide +kernel
theorem test_nop_next : (after .nop user).map (·.w.cur.pc) = some 0x1004 := by decide +kernel

/-! ## Descriptors, handles, the device -/

theorem test_jcdeal_63 : (trapAfter (.jcdeal 63) user) = some (1, 0, 3) := by decide +kernel
/-- A handle of the wrong kind raises HANDLE (12 R258). -/
theorem test_kvlen_handle : (trapAfter (.kvlen 1 3) user).map (·.1) = some 7 := by decide +kernel
/-- The doorbell of a queue that is not bound is dropped (17 R365). -/
theorem test_doorbell_dropped : (after (.hostDoorbell 5 0 []) State.reset).map (·.dev.dropped) = some 1 := by decide +kernel

end

/-! ## States that meet the hypotheses of the statements -/

section
set_option Elab.async false

theorem selected_plain (s : State) (h : s.ix.pfx = none) (n : Nat) : Selected s n ↔ s.w.cur.active.getLsbD n = true := by
  simp [Selected, h]

theorem witness_user : UserNoHandler user := by unfold UserNoHandler CanTrap; decide

theorem witness_ScalarResults : (0#9).toNat ≤ 63 ∧ (63#9).toNat ≤ 63 := by decide

theorem witness_ScalarDivision : (withS [(1, 7)] user).w.sGet 1 ≠ 0 ∧ user.w.sGet 1 = 0
    ∧ (withS [(1, 0x8000000000000000), (2, 0xFFFFFFFFFFFFFFFF)] user).w.sGet 1 = BitVec.ofInt 64 (-(2 ^ 63))
    ∧ (withS [(1, 0x8000000000000000), (2, 0xFFFFFFFFFFFFFFFF)] user).w.sGet 2 = -1 := by decide

theorem witness_IllegalOperands : UserNoHandler user ∧ 63 < (64#9).toNat ∧ 31 < (32#7).toNat ∧ specialValue user (0x00B#9).toNat = none
    ∧ specialValue user (0x001#9).toNat ≠ none ∧ ¬ accessRW (0x001#9).toNat ∧ accessP (0x030#9).toNat ∧ accessP (0x033#9).toNat
    ∧ accessRW (0x010#9).toNat ∧ accessRW (0x022#9).toNat ∧ ¬ keepsLimits (withS [(1, 6)] user) 0x011 ((withS [(1, 6)] user).w.sGet 1) := by
  refine ⟨witness_user, ?_⟩
  unfold accessRW accessP keepsLimits
  and_intros <;> decide +kernel

theorem witness_BranchesCallsAndNops : CondTrue (0#4).toNat user.w ∧ CondTrue (14#4).toNat user.w ∧ ¬ CondTrue (15#4).toNat user.w
    ∧ ¬ CondTrue (1#4).toNat user.w ∧ user.w.dawn = false ∧ (user.w.sGet 1).getLsbD 0 = false ∧ (user.w.sGet 63).getLsbD 0 = false
    ∧ UserNoHandler (withS [(1, 5), (63, 7)] user) ∧ ((withS [(1, 5), (63, 7)] user).w.sGet 1).getLsbD 0 = true
    ∧ ((withS [(1, 5), (63, 7)] user).w.sGet 63).getLsbD 0 = true := by
  unfold CondTrue UserNoHandler CanTrap
  and_intros <;> decide +kernel

/-- user in privileged mode. -/
def kernel : State := { user with w := { user.w with cur := { user.w.cur with priv := true } } }

theorem witness_SpecialRegisters : specialValue user (0x010#9).toNat = some 32 ∧ ¬ accessP (0x010#9).toNat
    ∧ specialValue kernel (0x033#9).toNat = some 0 ∧ kernel.w.cur.priv = true ∧ kernel.w.dawn = false
    ∧ (accessRW (0x010#9).toNat ∧ keepsLimits (withS [(1, 2)] user) 0x010 ((withS [(1, 2)] user).w.sGet 1))
    ∧ (accessRW (0x011#9).toNat ∧ keepsLimits (withS [(1, 5)] user) 0x011 ((withS [(1, 5)] user).w.sGet 1))
    ∧ (accessRW (0x020#9).toNat ∧ keepsLimits user 0x020 (user.w.sGet 1))
    ∧ (accessP (0x031#9).toNat ∧ keepsLimits kernel 0x031 (kernel.w.sGet 1))
    ∧ (accessP (0x033#9).toNat ∧ keepsLimits kernel 0x033 (kernel.w.sGet 1)) := by
  unfold accessRW accessP keepsLimits
  and_intros <;> decide +kernel

/-- user with k1 = 1 and a stack. -/
def stacked (st : List Entry) (ps : List Split) : State :=
  { user with w := { user.w.kSet 1 0xFFFFFFFF 1 with stack := st, others := ps } }
/-- A stack of 1,056 entries. -/
def full : State := stacked (List.replicate 1056 { members := 0xFFFFFFFF }) []

theorem witness_DivergentBranch : user.w.dawn = false ∧ user.ix.next = user.ix.addr + 4
    ∧ user.w.cur.active &&& user.w.kGet 1 = 0
    ∧ user.w.cur.active &&& user.w.kGet 0 ≠ 0 ∧ user.w.cur.active &&& ~~~(user.w.cur.active &&& user.w.kGet 0) = 0
    ∧ full.w.cur.active &&& full.w.kGet 1 ≠ 0 ∧ full.w.cur.active &&& ~~~(full.w.cur.active &&& full.w.kGet 1) ≠ 0
    ∧ full.w.stack.length = 1056 ∧ UserNoHandler full ∧ full.w.upcall = none
    ∧ (stacked [] []).w.stack.length < 1056 ∧ (stacked [] []).w.splits.length < 4
    ∧ 4 ≤ (stacked [] [{ num := 1, active := 1 }, { num := 2, active := 2 }, { num := 3, active := 4 }]).w.splits.length := by
  unfold UserNoHandler CanTrap
  decide +kernel

/-- The newest entry, whose members are the split's threads. -/
def top (e : Entry) : State := stacked [e, { members := 0xFFFFFFFF }] [{ num := 1, active := 0xF, rcv := true }]

theorem witness_ReconvergenceAndExit : user.w.dawn = false ∧ (∀ e ∈ user.w.stack, (user.w.cur.active &&& ~~~e.members) ≠ 0)
    ∧ (top { members := 0xFFFFFFFF, av := true, addr := 4 }).w.stack
        = [] ++ { members := 0xFFFFFFFF, av := true, addr := 4 } :: [{ members := 0xFFFFFFFF }]
    ∧ NewestWith 0xFFFFFFFF [] { members := 0xFFFFFFFF, av := true, addr := 4 } ∧ user.ix.addr ≠ 4
    ∧ NewestWith 0xFFFFFFFF [] { members := 0xFFFFFFFF, defer := 1 } ∧ ({ members := 0xFFFFFFFF, defer := 1 } : Entry).av = false
    ∧ ((0xFFFFFFFF : W32) &&& ~~~((0 : W32) ||| 0xF) ≠ 0) ∧ ((0xFFFFFFFF : W32) &&& ~~~((0 : W32) ||| 0xFFFFFFFF) = 0)
    ∧ user.w.upcall = none ∧ user.w.latch = none ∧ (∀ p ∈ user.w.others, (p.active &&& user.w.cur.active) = 0)
    ∧ ({ user with w := { user.w with cur := { user.w.cur with userH := true } } } : State).w.cur.userH = true := by
  unfold NewestWith
  decide +kernel

/-- The newest entry, of all threads; the split has threads 4 to 31, and the threads 0 to 3 are parked or deferred. -/
def upper (e : Entry) (ps : List Split) : State := let s := stacked [e] ps; { s with w := { s.w with cur := { s.w.cur with active := 0xFFFFFFF0 } } }
def parked1 : Split := { num := 1, active := 0xF, rcv := true }

theorem witness_Reconvergence : (let e : Entry := { members := 0xFFFFFFFF, defer := 1 }; NewestWith (top e).w.cur.active [] e
      ∧ (top e).ix.addr = (atRcv (top e) e).addr ∧ (atRcv (top e) e).defer ≠ 0)
    ∧ (let e : Entry := { members := 0xFFFFFFFF }; NewestWith (top e).w.cur.active [] e ∧ (top e).ix.addr = (atRcv (top e) e).addr
      ∧ (atRcv (top e) e).defer = 0 ∧ (atRcv (top e) e).members &&& ~~~((atRcv (top e) e).arrived ||| (top e).w.cur.active) = 0
      ∧ (top e).w.cur.active ≠ 0)
    ∧ (let e : Entry := { members := 0xFFFFFFFF, av := true, addr := 0x1000 }; let s := upper e [parked1];
      s.w.stack = [] ++ e :: [] ∧ NewestWith s.w.cur.active [] e ∧ s.ix.addr = (atRcv s e).addr ∧ (atRcv s e).defer = 0
      ∧ (atRcv s e).members &&& ~~~((atRcv s e).arrived ||| s.w.cur.active) ≠ 0) := by
  unfold NewestWith
  decide +kernel

theorem witness_Exit : ExitsPlainly user ∧ user.w.stack = []
    ∧ (let e : Entry := { members := 0xFFFFFFFF, defer := 0xF }; let s := upper e [];
      ExitsPlainly s ∧ s.w.stack = e :: [] ∧ (∀ p ∈ s.w.others, (p.active &&& s.w.cur.active) = 0)
      ∧ e.members &&& ~~~s.w.cur.active ≠ 0 ∧ e.defer &&& ~~~s.w.cur.active ≠ 0
      ∧ e.members &&& ~~~s.w.cur.active &&& ~~~e.defer &&& ~~~e.arrived = 0)
    ∧ (let e : Entry := { members := 0xFFFFFFFF, arrived := 0xF, av := true }; let s := upper e [parked1];
      ExitsPlainly s ∧ s.w.stack = e :: [] ∧ (∀ p ∈ s.w.others, (p.active &&& s.w.cur.active) = 0)
      ∧ e.members &&& ~~~s.w.cur.active ≠ 0 ∧ e.defer &&& ~~~s.w.cur.active = 0 ∧ e.members &&& ~~~s.w.cur.active &&& ~~~e.arrived = 0
      ∧ ∃ p ∈ s.w.others.filter (fun p => p.active != 0), Gathered (e.arrived &&& ~~~s.w.cur.active) p)
    ∧ ({ user with w := { user.w with dawn := true } } : State).w.dawn = true := by
  have plain : ∀ s : State, s.w.upcall = none → ExitsPlainly s := fun s h => .inr fun u hu => by rw [h] at hu; cases hu
  refine ⟨plain _ rfl, rfl, ⟨plain _ rfl, ?_⟩, ⟨plain _ rfl, ?_⟩, rfl⟩
  · decide
  · unfold Gathered
    decide

/-- user with a trap vector. -/
def vectored : State := { user with w := { user.w with tvec := 0x8000 } }
/-- A user handler active, with BUSY set. -/
def handling : State := { user with w := { user.w with tvec := 0x8001, cur := { user.w.cur with userH := true } } }

theorem witness_TrapEntry : UserNoHandler user ∧ tvecReady user.w.tvec = false
    ∧ CanTrap vectored ∧ vectored.w.cur.priv = false ∧ vectored.w.tvec.getLsbD 0 = false ∧ vectored.w.tvec &&& 0x01FFFFFFFFFFFFFE#64 ≠ 0
    ∧ CanTrap handling ∧ handling.w.cur.priv = false ∧ handling.w.cur.userH = true ∧ handling.w.tvec.getLsbD 0 = true
    ∧ handling.ctx.ktvec ≠ 0 ∧ handling.ctx.dbgctl.getLsbD 0 = false := by
  refine ⟨witness_user, ?_⟩
  unfold CanTrap
  decide +kernel

theorem witness_TrapsElsewhere : (stacked [] [{ num := 1, active := 1, userH := true }]).w.dawn = false
    ∧ (stacked [] [{ num := 1, active := 1, userH := true }]).w.others.any Split.handler = true
    ∧ CanTrap kernel ∧ kernel.ctx.dbgctl.getLsbD 0 = false ∧ kernel.w.cur.priv = true
    ∧ CanTrap { user with ctx := { user.ctx with ktvec := 0 } }
    ∧ CanTrap { user with ctx := { user.ctx with dbgctl := 1 }, dbgs := 1 }
    ∧ ({ user with ctx := { user.ctx with dbgctl := 1 }, dbgs := 2 } : State).ctx.dbgctl.getLsbD 0 = true := by
  unfold CanTrap
  decide +kernel

/-- A supervisor handler active after a core-store WATCH (cause 0x10, DEST 1). -/
def returning : State := { user with
  w := { user.w with trap := { tcause := 0x1010, tpc := 0x3000 }, cur := { user.w.cur with supH := true, priv := true, watchPc := some 0x3000 } } }

theorem witness_ReturnFromTrap : UserNoHandler user ∧ user.w.cur.supH = false
    ∧ ({ handling with w := { handling.w with trap := { tpc := 0x3001 } } } : State).w.trap.tpc.getLsbD 0 = true
    ∧ handling.w.cur.userH = true ∧ handling.w.cur.supH = false ∧ handling.w.cur.priv = false ∧ CanTrap handling ∧ handling.ctx.ktvec ≠ 0
    ∧ handling.w.trap.tpc.getLsbD 0 = false ∧ handling.w.trap.tcause.toNat / 2 ^ 12 % 4 = 0
    ∧ returning.w.dawn = false ∧ returning.w.trap.tpc.getLsbD 0 = false ∧ returning.w.cur.supH = true
    ∧ returning.w.trap.tcause.toNat / 2 ^ 12 % 4 = 1 := by
  refine ⟨witness_user, ?_⟩
  unfold CanTrap
  decide +kernel

/-- The registers of blocks that every warp holds are ready in user, and no exception of a thread is enabled. -/
theorem witness_VectorResults : RegsReady user [0, 31] [31] ∧ (31#7).toNat ≤ 31 ∧ Selected user 0 ∧ Selected user 31 ∧ ¬ Cleared user 0
    ∧ (∀ n, n < 32 → Selected user n → (0 : Exc) &&& user.w.fpe.setWidth 5 = 0) := by
  refine ⟨?_, by decide, (selected_plain _ rfl _).2 (by decide), (selected_plain _ rfl _).2 (by decide), ?_, fun _ _ _ => by decide⟩
  · unfold RegsReady; decide +kernel
  · rintro ⟨_, p, h, _⟩; cases h

theorem witness_FloatResults : RegsReady user [1, 2, 3] [3]
    ∧ ∀ n, n < 32 → Selected user n → (onF32 opAdd (floatEnv user) (user.w.vGet 1 n) (user.w.vGet 2 n) 0).2 &&& user.w.fpe.setWidth 5 = 0 := by
  refine ⟨by unfold RegsReady; decide +kernel, fun n _ _ => ?_⟩
  show _ &&& (0#5) = 0#5
  simp

theorem witness_ConvertAndSpecialResults : cvtOk (0#4).toNat (3#4).toNat (3#2).toNat = true ∧ typeWidth (0#4).toNat = 32
    ∧ cvtOk (3#4).toNat (0#4).toNat (3#2).toNat = true ∧ typeWidth (3#4).toNat ≠ 32
    ∧ RegsReady user [1, 3] [3] ∧ ∀ x : Exc, x &&& user.w.fpe.setWidth 5 = 0 := by
  refine ⟨by decide, by decide, by decide, by decide, by unfold RegsReady; decide +kernel, fun x => ?_⟩
  show x &&& (0#5) = 0#5
  simp

/-- Thread 0 active, v1 = +∞, and FPE enabling NV. -/
def trapping1 : State := { user with
  w := { user.w.vSet 1 1 (fun _ => 0x7F800000) 0 with fpe := 1, cur := { user.w.cur with active := 1 } } }

theorem witness_FloatTrapsAndSpecials : RegsReady trapping1 [1, 1] [3] ∧ UserNoHandler trapping1 ∧ tvecReady trapping1.w.tvec = false ∧ (1 : W32) ≠ 0
    ∧ (∀ n, n < 32 → ((1 : W32).getLsbD n = true ↔ Selected trapping1 n
        ∧ (onF32 opSub (floatEnv trapping1) (trapping1.w.vGet 1 n) (trapping1.w.vGet 1 n) 0).2 &&& trapping1.w.fpe.setWidth 5 ≠ 0))
    ∧ (∀ b, (1 : Exc).getLsbD b = true ↔ ∃ n, n < 32 ∧ Selected trapping1 n
        ∧ ((onF32 opSub (floatEnv trapping1) (trapping1.w.vGet 1 n) (trapping1.w.vGet 1 n) 0).2 &&& trapping1.w.fpe.setWidth 5).getLsbD b = true) := by
  have hs : ∀ n, Selected trapping1 n ↔ (1 : W32).getLsbD n = true := fun n => selected_plain _ rfl n
  have h0 : (onF32 opSub (floatEnv trapping1) (trapping1.w.vGet 1 0) (trapping1.w.vGet 1 0) 0).2 &&& trapping1.w.fpe.setWidth 5 = 1 := by
    decide +kernel
  have h1 : ∀ n, n < 32 → (1 : W32).getLsbD n = true → n = 0 := by decide
  refine ⟨by unfold RegsReady; decide +kernel, by unfold UserNoHandler CanTrap; decide, by decide, by decide, fun n hn => ?_, fun b => ?_⟩
  · rw [hs]
    refine ⟨fun h => ⟨h, ?_⟩, fun h => h.1⟩
    rw [h1 n hn h, h0]; decide
  · constructor
    · intro h; exact ⟨0, by decide, (hs 0).2 (by decide), by rw [h0]; exact h⟩
    · rintro ⟨n, hn, h, hb⟩
      rw [h1 n hn ((hs n).1 h), h0] at hb; exact hb

theorem witness_FloatSpecialOperands : (0x7FC00000 : W32).toNat / 2 ^ 23 % 2 ^ 8 = 255 ∧ (0x7FC00000 : W32).toNat % 2 ^ 23 ≠ 0
    ∧ (0x7F800001 : W32).getLsbD 22 = false ∧ (0x7F800001 : W32).toNat % 2 ^ 23 ≠ 0 := by decide

/-- Thread 0 active and poisoned in v1. -/
def poisoned1 : State := { user with w := { user.w.vSet 1 1 (fun _ => 4) 1 with cur := { user.w.cur with active := 1 } } }

theorem witness_CompareIntoMask : RegsReady user [1, 2] [] ∧ (∀ n, n < 32 → ¬ (user.w.pGet 1 n = true ∨ user.w.pGet 2 n = true))
    ∧ (∀ x : Exc, x &&& user.w.fpe.setWidth 5 = 0)
    ∧ RegsReady poisoned1 [1, 2] [] ∧ UserNoHandler poisoned1
    ∧ (∀ n, n < 32 → ((1 : W32).getLsbD n = true ↔ Selected poisoned1 n ∧ (poisoned1.w.pGet 1 n = true ∨ poisoned1.w.pGet 2 n = true)))
    ∧ (∀ n, n < 32 → ((1 : W32).getLsbD n = true ↔ Selected trapping1 n
        ∧ vcmpExc 12 (trapping1.w.vGet 2 n) 0x7FC00000 &&& trapping1.w.fpe.setWidth 5 ≠ 0))
    ∧ trapping1.w.fpe.setWidth 5 = (1 : Exc) := by
  refine ⟨by unfold RegsReady; decide +kernel, by decide +kernel, fun x => ?_, by unfold RegsReady; decide +kernel,
    by unfold UserNoHandler CanTrap; decide, fun n hn => ?_, fun n hn => ?_, by decide⟩
  · show x &&& (0#5) = 0#5
    simp
  · rw [selected_plain _ rfl]; revert n; decide +kernel
  · rw [selected_plain _ rfl]; revert n; decide +kernel

theorem witness_LanesMove : user.w.dawn = false ∧ RegsReady user [1, 2] [3] ∧ user.w.cur.active.getLsbD 31 = true := by
  unfold RegsReady; decide +kernel

theorem witness_VotesAndReductions : user.w.dawn = false ∧ RegsReady user [1, 2] [3] ∧ 31 ∈ tileOf user 0 ∧ 0 ∈ tileOf user 0 := by
  unfold RegsReady; decide +kernel
end

section
set_option Elab.async false

theorem witness_FloatReductions : user.w.dawn = false ∧ RegsReady user [1] [3]
    ∧ ∀ n, n < 32 → user.w.cur.active.getLsbD n = true → ∀ x : Exc, x &&& user.w.fpe.setWidth 5 = 0 := by
  refine ⟨by decide, by unfold RegsReady; decide +kernel, fun n _ _ x => ?_⟩
  show x &&& (0#5) = 0#5
  simp

theorem witness_PackedFieldsAndTables :
    let s := withS [(2, 0x1000000000), (3, 0x800000000)] user
    (1 ≤ (s.w.sGet 2).toNat / 2 ^ 32 % 2 ^ 5 ∧ (s.w.sGet 2).toNat / 2 ^ 32 % 2 ^ 5 ≤ 16)
    ∧ (∀ t, t < 32 → s.w.cur.active.getLsbD t = true → ((s.w.sGet 2).toNat % 2 ^ 32 + (s.w.vGet 1 t).toNat * 16 + 16 - 1) / 8 < s.team.ssize)
    ∧ RegsReady s [1] [3] ∧ (s.w.sGet 3).toNat / 2 ^ 32 % 2 ^ 4 ≤ 8 ∧ (s.w.sGet 3).toNat % 2 ^ 32 % 4 = 0
    ∧ (s.w.sGet 3).toNat % 2 ^ 32 + 4 * 2 ^ ((s.w.sGet 3).toNat / 2 ^ 32 % 2 ^ 4) ≤ s.team.ssize := by
  unfold RegsReady
  decide +kernel

theorem witness_VkillFreesRegisters : user.w.dawn = false ∧ (2#7).toNat ≤ (31#7).toNat
    ∧ (∀ r, r ≤ 31 → 2 ≤ r → user.w.holds r = true ∧ r ∉ user.w.spilled ∧ user.w.awaits r = false)
    ∧ user.w.splits.length = 1 ∧ (stacked [] [{ num := 1, active := 1 }]).w.splits.length ≠ 1 := by decide +kernel

/-- mapped with VADD v3, v1, v2 (0x04041821), VLANE v3 (0x1A33), and PFX.k1 at byte offset 0x1000 and on; dictionary at 0x1000. -/
def coded : State := { mapped with
  mem := mapped.mem ++ [(0x41000, 0x21), (0x41001, 0x18), (0x41002, 4), (0x41003, 4), (0x41004, 0x21), (0x41005, 0x18), (0x41006, 4),
    (0x41007, 4), (0x41008, 0x33), (0x41009, 0x1A)]
  team := { mapped.team with dict := 0x1000, dictn := 4 } }
/-- coded, at the address before the VLANE. -/
def coded2 : State := { coded with ix := { addr := 0x1004, next := 0x1008 } }

theorem witness_PrefixAndDictionary :
    fetchInstr { coded with ix := { coded.ix with p := true, word := 0xFD } } (coded.ix.addr + 4) = .word 0x04041821 4
    ∧ fetchInstr { coded2 with ix := { coded2.ix with p := true, word := 0xFD } } (coded2.ix.addr + 4) = .word 0x1A33 4
    ∧ UserNoHandler coded ∧ UserNoHandler coded2 ∧ coded.w.dawn = false
    ∧ fetchEntry { coded with ix := { coded.ix with dict := some 0 } } (coded.team.dict + BitVec.ofNat 64 (4 * (0#10).toNat)) = .word 0x04041821 4
    ∧ (0#10).toNat < coded.team.dictn ∧ entryRefused 0x04041821 = false ∧ coded.team.dictn ≤ (4#10).toNat
    ∧ fetchEntry { coded with ix := { coded.ix with dict := some 3 } } (coded.team.dict + BitVec.ofNat 64 (4 * (3#10).toNat)) = .word 0 4
    ∧ entryRefused 0 = true ∧ RegsReady coded [1, 2] [3] := by
  unfold UserNoHandler CanTrap RegsReady
  and_intros <;> decide +kernel
/-- mapped with SADD s4, s4, s3 as entry 0, the DICT before it. -/
def coded3 : State := { mapped with
  mem := mapped.mem ++ [(0x41000, 3), (0x41001, 0x20), (0x41002, 0x88), (0x41003, 1)], team := coded.team, ix := { addr := 0xFFE, next := 0x1000 } }
theorem witness_DictionaryAdd : coded3.w.dawn = false ∧ (0#10).toNat < coded3.team.dictn ∧ entryRefused 0x01882003 = false
    ∧ decodeWord 0x01882003 = .ok (.sadd 4 4 3) ∧ coded3.ix.next = coded3.ix.addr + 2
    ∧ fetchEntry { coded3 with ix := { coded3.ix with dict := some 0 } } (coded3.team.dict + BitVec.ofNat 64 (4 * (0#10).toNat)) = .word 0x01882003 4 := by
  and_intros <;> decide +kernel
theorem witness_PrefixAndDictionary_decodes : decodeWord 0x04041821 = .ok (.vadd 3 1 2) ∧ mayFollowPfx (.vadd 3 1 2) = true
    ∧ mayBeEntry (.vadd 3 1 2) = true := ⟨rfl, rfl, rfl⟩

/-- A team with a dawn slot of its own, one entry in queue 1; the dawn warp itself. -/
def dawning : State := { user with core := { user.core with dawn := { st := .running, owner := 1, uid := 7, queues := [(1, [⟨[5], 0⟩])] } } }
def dawned : State := { dawning with w := { dawning.w with dawn := true } }
def loaded : State := { user with core := { user.core with dawn := { st := .loaded, owner := 1, image := 0x2000 } } }

/-- The slot loaded with an image of x blocks, with requests waiting. -/
def preloaded (x : Nat) (l : List XReq) : State := { user with core := { user.core with xq := l, dawn := { loaded.core.dawn with xb := x } } }
def request1 : XReq := { warp := 2, split := 0, n := 1 }

theorem witness_DawnSlotAndQueues : dawning.w.dawn = false ∧ dawning.core.dawn.st ≠ .free ∧ dawning.core.dawn.owner = dawning.w.team
    ∧ RegsReady dawning [] [3] ∧ tabGet [] 1 dawning.core.dawn.queues = ⟨[5], 0⟩ :: [] ∧ placeBefore 1 dawning = false
    ∧ dawned.w.dawn = true ∧ RegsReady dawned [3] [] ∧ (tabGet [] 0 dawned.core.dawn.queues).length < 16
    ∧ (tabGet [] 1 dawned.core.dawn.queues).length < 16
    ∧ loaded.w.dawn = false ∧ loaded.core.dawn.owner = loaded.w.team ∧ loaded.core.dawn.st = .loaded ∧ fenceDone 4 loaded = true ∧ loaded.core.xq = []
    ∧ blocksFit loaded loaded.core.dawn.xb = true ∧ dawning.core.dawn.st = .running
    ∧ loaded.core.dawn.xb = 0 ∧ (preloaded 1 [request1]).core.dawn.xb ≠ 0 ∧ (preloaded 1 [request1]).core.xq ≠ []
    ∧ fenceDone 4 (preloaded 1 [request1]) = true ∧ (preloaded 1 [request1]).core.dawn.st = .loaded
    ∧ (preloaded 1 [request1]).core.dawn.owner = (preloaded 1 [request1]).w.team := by
  unfold RegsReady
  decide +kernel

/-- A header of one instruction and one parcel at 0x2000 (PA 0x42000), in a page whose lease class keeps it out of the L1;
s1 its address. -/
def imaged : State := withS [(1, 0x2000)] { mapped with
  mem := mapped.mem ++ [(0x42000, 1), (0x42001, 0x10)], core := { user.core with tlb := [⟨1, 0, 18, 0x10109F⟩] } }

/-- DAWNLD's two loads complete in imaged. -/
theorem witness_DawnLoads : imaged.core.dawn.st = .free ∧ ∃ (d0 d1 : Nat) (s1 s2 : State),
    (∀ k, inlineLoad true false 8 (imaged.w.sGet 1) 2 imaged k = k d0 s1)
    ∧ (∀ k, inlineLoad true false 8 (s1.w.sGet 1 + 8) 2 s1 k = k d1 s2) ∧ dawnBad d0 d1 = false
    ∧ s1.w = imaged.w ∧ s2.w = imaged.w ∧ s2.ix = imaged.ix := by
  refine ⟨by decide, 0x1001, 0, inlineLoad true false 8 (imaged.w.sGet 1) 2 imaged (fun _ t => t),
    inlineLoad true false 8 (imaged.w.sGet 1 + 8) 2 (inlineLoad true false 8 (imaged.w.sGet 1) 2 imaged (fun _ t => t)) (fun _ t => t), ?_⟩
  refine ⟨fun k => ?_, fun k => ?_, by decide, by decide +kernel, by decide +kernel, by decide +kernel⟩
  · rfl
  · rfl
end

section
set_option Elab.async false

/-- mapped with s1 = 0x100, which every thread's address is. -/
def based : State := withS [(1, 0x100)] mapped

theorem witness_GlobalLoads : Reaches based .read 1 1 2 (fun _ => leaf0) (fun _ => 0x40100) ∧ Reaches based .read 16 1 2 (fun _ => leaf0) (fun _ => 0x40100)
    ∧ RegsReady based [2] (group 16 4) ∧ RegsReady based [2] (group 8 6) ∧ RegsReady based [2] (group 2 3) ∧ based.w.count .ld < 30
    ∧ (4#7).toNat % 4 = 0 ∧ (6#7).toNat % 2 = 0 ∧ UserNoHandler based ∧ (5#7).toNat % 2 ≠ 0 ∧ (6#7).toNat % 4 ≠ 0
    ∧ based.team.spec = false ∧ ((based.w.sGet 1 + (1#9).signExtend 64 * 8).toNat % 8 = 0)
    ∧ translate based .read (based.w.sGet 1 + (1#9).signExtend 64 * 8) = .ok leaf0 0x40108
    ∧ loadMayRun based based.w.uid based.nextId [(0, 0x40108, 8)] = true ∧ leaf0.getLsbD 8 = false
    ∧ Served based false leaf0 0x40108 8 0 ∧ Served based true leaf0 0x40108 8 0 := by
  unfold UserNoHandler CanTrap RegsReady Reaches
  and_intros
  all_goals first
    | decide +kernel
    | exact Or.inl (by decide +kernel)

theorem witness_GlobalStores : based.w.dawn = false ∧ based.team.spec = false ∧ based.ctx.watch = [] ∧ based.w.cur.active ≠ 0 ∧ based.w.count .st < 30
    ∧ Reaches based .write 1 1 2 (fun _ => leaf0) (fun _ => 0x40100) ∧ Reaches based .write 16 1 2 (fun _ => leaf0) (fun _ => 0x40100)
    ∧ RegsReady based (2 :: group 16 4) [] ∧ RegsReady based (2 :: group 8 6) [] ∧ fenceDone 4 based = true
    ∧ translate based .write (based.w.sGet 1 + (0x1FF#9).signExtend 64 * 8) = .ok leaf0 0x400F8 := by
  unfold RegsReady Reaches
  and_intros <;> decide +kernel

theorem witness_AtomicsGoHome : based.w.dawn = false ∧ based.team.spec = false ∧ based.ctx.watch = [] ∧ based.w.cur.active ≠ 0
    ∧ Reaches based .atomic 4 1 2 (fun _ => leaf0) (fun _ => 0x40100)
    ∧ (∀ n, n < 32 → based.w.cur.active.getLsbD n = true → based.w.pGet 4 n = false ∧ based.w.pGet 5 n = false)
    ∧ based.w.count .ld < 30 ∧ RegsReady based [2, 4] [4] ∧ RegsReady based [5] [] ∧ (4#7).toNat % 2 = 0
    ∧ based.w.count .st < 30 ∧ RegsReady based [2, 4] [] := by
  unfold RegsReady Reaches
  and_intros <;> decide +kernel

theorem witness_RmwFunctions : (5 : W32).toNat ≤ (5 : W32).toNat ∧ (4 : W32).toNat < (5 : W32).toNat ∧ (3 : W32) ≠ 0 ∧ (3 : W32).toNat ≤ (5 : W32).toNat := by
  decide

theorem witness_ScratchpadInstructions : user.w.dawn = false ∧ (∀ n ∈ activeThreads user, user.w.pGet 2 n = false ∧ user.w.pGet 4 n = false
      ∧ user.w.pGet 5 n = false ∧ ((user.w.sGet 1).toNat % 2 ^ 32 + (user.w.vGet 2 n).toNat) % 16 = 0
      ∧ spadPlace user.core user.team ((user.w.sGet 1).toNat % 2 ^ 32 + (user.w.vGet 2 n).toNat) 16 = some (.sram 0)
      ∧ spadPlace user.core user.team ((user.w.sGet 1).toNat % 2 ^ 32 + (user.w.vGet 2 n).toNat) 4 = some (.sram 0))
    ∧ spadPlace user.core user.team 4092 4 = some (.sram 4092) ∧ spadPlace user.core user.team 4093 4 = none
    ∧ RegsReady user [2] (group 16 4) ∧ RegsReady user (2 :: group 16 4) [] ∧ RegsReady user [2, 4] [4] ∧ RegsReady user [5] []
    ∧ user.w.count .ld < 30 ∧ user.w.count .st < 30 := by
  unfold RegsReady
  and_intros <;> decide +kernel

/-- mapped with a peer handle of rank 0 in s1, and a remote handle of rank 0 in s2. -/
def peering : State := withS [(1, 0x100), (2, 0)] mapped
/-- peering once the remote chip has answered. -/
def answered : State := { peering with w := { peering.w with cur := { peering.w.cur with xlat := 2 } } }

theorem witness_PeerAndRemoteAccesses : peering.w.dawn = false ∧ peering.team.spec = false ∧ peering.w.cur.active ≠ 0 ∧ peering.w.count .ld < 30
    ∧ peering.w.count .st < 30 ∧ peerTeam peering (peering.w.sGet 1) = some peering.team
    ∧ (∀ n ∈ activeThreads peering, peering.w.pGet 3 n = false ∧ (peering.w.vGet 3 n).toNat % 4 = 0
        ∧ (peering.w.vGet 3 n).toNat + 4 ≤ peering.team.ssize ∧ peering.w.pGet 4 n = false)
    ∧ (peering.w.sGet 1).toNat / 2 ^ 24 = 0 ∧ (peering.w.sGet 1).toNat % 2 ^ 8 < peering.team.csize
    ∧ (peering.w.sGet 1).toNat / 2 ^ 8 % 2 ^ 16 = peering.team.pgen
    ∧ RegsReady peering [3] [4] ∧ RegsReady peering [3, 4] [4]
    ∧ peering.team.chips[(peering.w.sGet 2).toNat % 2 ^ 12]? = some 0 ∧ (peering.w.sGet 2).toNat / 2 ^ 57 = 0 ∧ chipReached peering 0 = true
    ∧ RegsReady peering [4, 3, 5] [4, 3, 5] ∧ peering.w.cur.xlat < 2 ∧ RegsReady answered [4, 3, 5] [4, 3, 5] ∧ answered.w.cur.xlat = 2
    ∧ (∀ n ∈ activeThreads answered, ∀ acc ∈ [Acc.read, .write, .atomic],
        chkRemote answered acc 8 (answered.w.sGet 2) (answered.w.vGet 3 n).toNat (answered.w.pGet 3 n) = .ok leaf0 0x40000) := by
  unfold RegsReady
  and_intros <;> decide +kernel

/-! ## The memory system's own steps -/

/-- user with one load outstanding into v4, one line, and one write of 4 bytes on its way home. -/
def load1 : Op := { id := 5, cls := .ld, dests := [(4, 0xFFFFFFFF)], kind := .load 4 .zero 4 false false [⟨0, .mem 0x40100 0 false 0x100⟩] }
def loading : State := { mapped with
  w := { mapped.w with ops := [load1] }
  writes := [{ id := 6, warp := 1, op := 5, line := 0x802, parts := [.store 0x40104 [1, 2, 3, 4] false] }] }
def atomOp : Op := { id := 5, cls := .ld, dests := [(4, 1)], kind := .atomic 4 [⟨0, 7, false⟩] }
def atomic1 : State := { mapped with
  w := { mapped.w with ops := [atomOp] }
  writes := [{ id := 6, warp := 1, op := 5, line := 0x802, parts := [.rmw 0x40104 .add 1 0 0] }] }

theorem holder_loading : Holder loading 5 loading.w load1 := by
  unfold Holder
  and_intros <;> decide +kernel
theorem holder_atomic1 : Holder atomic1 5 atomic1.w atomOp := by
  unfold Holder
  and_intros <;> decide +kernel

theorem witness_LoadsReturnAndWritesLand : loading.w.ended = false ∧ 4 ∈ [1, 2, 4, 8, 16] ∧ (∀ tm, loading.findTeam 1 = some tm → tm.spec = false)
    ∧ loadMayRun loading loading.w.uid 5 (loadSpans loading.dev.chipId 4 [⟨0, .mem 0x40100 0 false 0x100⟩]) = true
    ∧ (∀ p ∈ [(⟨0, .mem 0x40100 0 false 0x100⟩ : LoadPart)], (0xFFFFFFFF : W32).getLsbD p.t = true)
    ∧ PlainParts 4 [⟨0, .mem 0x40100 0 false 0x100⟩]
    ∧ (∀ x ∈ loading.writes ++ atomic1.writes, x.applied = none ∧ x.rank = none ∧ memExists (x.line * 128) = true ∧ memExists ((x.line + 2 ^ 40) * 128) = false)
    ∧ loading.writes.filter (fun y => y.id == 6) = loading.writes ∧ (∀ x ∈ loading.writes, writeMayRun x loading = true)
    ∧ loading.writes.find? (fun y => y.id == 6) = loading.writes.head? := by
  and_intros
  · decide
  · decide
  · intro tm h
    have : loading.findTeam 1 = some loading.team := by decide +kernel
    rw [this] at h; cases h; decide
  · decide +kernel
  · decide +kernel
  · decide
  · intro p hp
    simp only [List.mem_singleton] at hp
    subst hp
    exact ⟨by decide, 0x40100, 0, false, 0x100, rfl, by decide⟩
  · intro p hp q hq pa lc pr va pa' lc' pr' va' h h' _
    simp only [List.mem_singleton] at hp hq
    subst hp hq
    cases h; cases h'; rfl
  all_goals decide +kernel

/-- The same with a load of two threads, of two lines; the first is read alone. -/
def parts2 : List LoadPart := [⟨0, .mem 0x40100 0 false 0x100⟩, ⟨1, .mem 0x40200 0 false 0x200⟩]
def load2 : Op := { load1 with kind := .load 4 .zero 4 false false parts2 }
def loading2 : State := { loading with w := { loading.w with ops := [load2] } }

theorem witness_LoadsReturnInParts : Holder loading2 5 loading2.w load2 ∧ load2.kind = .load 4 .zero 4 false false parts2
    ∧ loadMayRun loading2 loading2.w.uid 5 (loadSpans loading2.dev.chipId 4 (parts2.filter (fun p => (1#32).getLsbD p.t))) = true
    ∧ (∃ p ∈ parts2, (1#32).getLsbD p.t = true) ∧ (∃ p ∈ parts2, (1#32).getLsbD p.t = false) ∧ PlainParts 4 parts2 := by
  unfold Holder PlainParts
  and_intros
  any_goals decide +kernel
  · intro p hp
    simp only [parts2, List.mem_cons, List.not_mem_nil, or_false] at hp
    obtain rfl | rfl := hp
    · exact ⟨by decide, 0x40100, 0, false, 0x100, rfl, by decide⟩
    · exact ⟨by decide, 0x40200, 0, false, 0x200, rfl, by decide⟩
  · intro p hp q hq pa lc pr va pa' lc' pr' va' h h' _
    simp only [parts2, List.mem_cons, List.not_mem_nil, or_false] at hp hq
    obtain rfl | rfl := hp <;> obtain rfl | rfl := hq <;> (cases h; cases h'; rfl)

/-- A walk of VA page 0 queued and walked, a shoot-down of no one, and the user's context. -/
def walking : State := { mapped with
  walkQ := [{ id := 3, die := 0, asid := 1, va := 0, waiters := [(1, 0)] }, { id := 4, die := 0, asid := 1, va := 0, started := true, res := some (.leaf leaf0), waiters := [(1, 0)] }]
  shoots := [{ id := 8, asid := some 1, va := some 0 }, { id := 9, asid := some 1, va := none, who := some (1, 0) }] }
/-- The user parked at a MWAIT whose time has come. -/
def waiting : State := { user with w := { user.w with mon := some (0x1000, 0x820, false), cur := { user.w.cur with since := some 1, deadline := some 90 } } }

theorem witness_WalksShootDownsAndErrors : walking.walkQ = [] ++ { id := 3, die := 0, asid := 1, va := 0, waiters := [(1, 0)] } ::
      [{ id := 4, die := 0, asid := 1, va := 0, started := true, res := some (.leaf leaf0), waiters := [(1, 0)] }]
    ∧ (walking.walkQ.filter (fun q => q.die == 0 && q.started)).length < 64 ∧ walking.findCtx 1 = some walking.ctx
    ∧ walking.walkQ.find? (fun q => q.id == 4 && q.die == 0)
      = some { id := 4, die := 0, asid := 1, va := 0, started := true, res := some (.leaf leaf0), waiters := [(1, 0)] }
    ∧ (walking.w.uid, walking.w.cur.num) ∈ [(1, 0)] ∧ walking.w.cur.active ≠ 0
    ∧ (∀ k ∈ walking.shoots, walking.shoots.find? (fun q => q.id == k.id && !q.done) = some k ∧ shootDone k walking = true)
    ∧ memExists 0x40100 = true ∧ (∃ s1, focus 0 0 0 waiting = some s1 ∧ s1.w.cur.deadline = some 90 ∧ s1.w.mon = some (0x1000, 0x820, false)
      ∧ 90 ≤ s1.time ∧ UserNoHandler s1 ∧ tvecReady s1.w.tvec = false) := by
  and_intros
  all_goals first
    | decide +kernel
    | (refine ⟨waiting, by decide +kernel, by decide, by decide, by decide, ?_, by decide⟩
       unfold UserNoHandler CanTrap
       decide)

/-- A write and a load bound for chip 3, and a split that waits for chip 3's translation. -/
def remote : State := { mapped with
  chips := [{ id := 3 }]
  w := { mapped.w with
    ops := [{ id := 5, cls := .ld, dests := [(4, 1)], kind := .load 4 .zero 4 true false [⟨0, .remote 3 0x40100 false⟩] }], cur := { mapped.w.cur with xlat := 1 } }
  writes := [{ id := 6, warp := 1, op := 9, rank := some 3, line := 0x803, parts := [.store 0x40184 [1, 2, 3, 4] false] }] }

theorem witness_RemoteTraffic : (∀ x ∈ remote.writes, remote.writes.filter (fun y => y.id == x.id) = [x] ∧ x.applied = none ∧ x.rank = some 3
      ∧ writeMayRun x remote = true)
    ∧ remote.findWarp 1 = some remote.w ∧ (∃ c ∈ remote.chips, c.id = 3)
    ∧ (∀ o ∈ remote.w.ops, Holder remote 5 remote.w o) ∧ (∀ y ∈ remote.writes, y.id ≠ 5)
    ∧ loadMayRun remote remote.w.uid 5 (loadSpans remote.dev.chipId 4 [⟨0, .remote 3 0x40100 false⟩]) = true
    ∧ remote.allWarps.find? (fun w => w.resident && w.core == 0 && w.slot == 0) = some remote.w ∧ remote.w.cur.num = 0 ∧ remote.w.cur.active ≠ 0
    ∧ remote.w.cur.xlat = 1 := by
  unfold Holder
  and_intros <;> decide +kernel
end

section
set_option Elab.async false

/-- A state with n-byte values written at physical addresses. -/
def withM (l : List (Nat × Nat × Nat)) (s : State) : State :=
  { s with mem := l.foldl (fun m p => memPut m p.1 (toBytes p.2.1 p.2.2)) s.mem }

/-- A chain of one segment at 0x4000, its annex at 0x8000, its completion word at 0x9000. -/
def chain1 : Chain := { annex := 0x8000, cwAddr := 0x9000, segBase := 0x4000 }
/-- mapped with chain 0, bound to chain1, and 5 as its completion word. -/
def chained : State := withM [(0x49000, 8, 5)] { mapped with ctx := { mapped.ctx with chains := [(0, chain1)] } }

/-- A load outstanding, and WMAX in the future. -/
def busy : State := { chained with w := { chained.w with wmax := 200, ops := [load1] } }
/-- A failed load, not yet reported. -/
def failed : State := { chained with
  w := { chained.w with fails := [{ id := 3, cls := .ld, ord := 1, cause := { code := 0x0D } }], issued := [(0, 1)] } }

theorem acquires_chained : Acquires chained 0x9000 5 := by
  refine ⟨by decide, leaf0, 0x49000, ?_⟩
  unfold Reach1
  decide +kernel

theorem witness_FencesAndWaits : chained.w.dawn = false ∧ Fenced chained 6 ∧ ¬ Fenced busy 3 ∧ Fenced busy 2 ∧ UserNoHandler chained ∧ chained.w.upcall = none
    ∧ LimitsMet chained 0 0 0 0 0 ∧ LimitsMet busy 31 31 31 31 31 ∧ ¬ LimitsMet busy 0 31 31 31 31 ∧ chained.w.fails = []
    ∧ LimitsMet failed 0 31 31 31 31 ∧ (∃ f, failed.w.fails = [f] ∧ f.cls = .ld ∧ f.ord + 0 ≤ tabGet 0 0 failed.w.issued)
    ∧ UserNoHandler failed ∧ tvecReady failed.w.tvec = false
    ∧ chained.ctx.chain (0#6).toNat = some chain1 ∧ Acquires chained chain1.cwAddr 5 ∧ (∀ o ∈ chained.w.ops, o.fail = none)
    ∧ (chained.w.sGet 1).toNat ≤ 5 % 2 ^ 59 ∧ 5 % 2 ^ 59 < ((withS [(1, 6)] chained).w.sGet 1).toNat
    ∧ chained.ctx.chain (1#6).toNat = none := by
  refine ⟨by decide, ?_, ?_, ?_, by unfold UserNoHandler CanTrap; decide +kernel, by decide, ?_, ?_, ?_, by decide, ?_,
    ⟨_, rfl, by decide, by decide⟩, by unfold UserNoHandler CanTrap; decide +kernel, by decide, by decide +kernel, acquires_chained,
    by decide +kernel, by decide +kernel, by decide +kernel, by decide +kernel⟩ <;> first
    | (unfold Fenced; decide +kernel)
    | (unfold LimitsMet; decide +kernel)

/-- mapped with page 12 mapped to frame 1 too, and a save area at 0: the save record of slot 0 stands at 0x328000. -/
def saving : State := withM [(0x30060, 8, 0x10101F)] { mapped with
  w := { mapped.w.vSet 3 0xFFFFFFFF (fun _ => 1) 0 with cur := { mapped.w.cur with priv := true } } }
/-- mapped with a monitor armed, or woken. -/
def armed (woken : Bool) : State := { mapped with w := { mapped.w with mon := some (0x80, 0x801, woken) } }
/-- A speculative team with one held byte. -/
def speculative : State := { mapped with team := { mapped.team with spec := true, specLines := [{ line := 0x802, bytes := [(0x40101, 9)] }] } }
/-- A privileged split with its shoot-down running, or done. -/
def shooting (done : Bool) : State := { kernel with shoots := [{ id := 4, asid := some 1, va := none, done := done, who := some (1, 0) }] }

theorem witness_CachesAndTranslations : mapped.w.dawn = false ∧ ctxWalk mapped mapped.ctx (0#64 + (1#9).setWidth 64 * 128).toNat = .leaf leaf0
    ∧ permWhy leaf0 .read mapped.w.cur.priv = none ∧ leaf0.toNat / 2 ^ 6 % 4 < 2
    ∧ Reach1 (withS [(1, 0x81)] mapped) .read 1 ((withS [(1, 0x81)] mapped).w.sGet 1) leaf0 0x40081
    ∧ mapped.w.mon = none ∧ (armed true).w.mon = some (0x80, 0x801, true) ∧ (armed false).w.mon = some (0x80, 0x801, false)
    ∧ (armed false).w.sGet 1 = 0 ∧ ((withS [(1, 5)] (armed false)).time < ((armed false).w.cur.since.getD (armed false).time) + 5)
    ∧ mapped.team.spec = false ∧ UserNoHandler mapped
    ∧ speculative.snaps = [] ∧ speculative.team.spec = true ∧ speculative.w.count .st = 0 ∧ Fenced speculative 4
    ∧ ((speculative.team.specLines.flatMap (·.bytes)).map (·.1)).Nodup
    ∧ kernel.w.cur.priv = true ∧ (∀ q ∈ kernel.shoots, q.who ≠ some (kernel.w.uid, kernel.w.cur.num))
    ∧ (∃ q, (shooting false).shoots.find? (fun q => q.who == some (1, 0)) = some q ∧ q.done = false)
    ∧ (∃ q, (shooting true).shoots.find? (fun q => q.who == some (1, 0)) = some q ∧ q.done = true)
    ∧ saving.w.cur.priv = true ∧ (∀ r, r < 128 → saving.w.awaits r = false) ∧ saving.w.bound = [3]
    ∧ spillAt saving 3 0x68180 0x6C00C := by
  unfold Fenced UserNoHandler CanTrap Reach1 spillAt
  and_intros <;> decide +kernel

/-- A launch with a job, that the user's team runs; all dealt, or not. -/
def dealing (n : Nat) : State := { user with
  launches := [{ id := 2, part := 0, queue := 0, seq := 2, asid := 1, accepted := 0, kimg := 0, entry := 0, regs := 0, dictn := 0, dict := 0, dawn := 0, scratch := 0, warps := 1, csize := 1, prio := 0, nteams := 1, deps := [], crec := 0, cookie := 0, args := 0, places := [], group := 0, xmode := 0, share := [0], job := some { entry := 0, recs := 0, rsz := 16, min := 1, spec := false, central := (0, n) } }] }
/-- The core's extended blocks all but taken by 42 other warps. -/
def crowded : State := { user with ws := (List.range 42).map (fun i => { uid := 100 + i, slot := i + 1, blocks := 6 }) }

theorem witness_BlocksAndDeals : user.w.dawn = false ∧ 1 ≤ (6#9).toNat ∧ (6#9).toNat + user.w.blocks ≤ 6 ∧ user.core.xq = []
    ∧ blocksHeld user user.core.num + (6#9).toNat ≤ 256 ∧ 256 < blocksHeld crowded crowded.core.num + (6#9).toNat ∧ crowded.core.xq = []
    ∧ (let s : State := { user with w := { user.w with blocks := 2 } }
      (2#9).toNat ≤ s.w.blocks ∧ ∀ r, r < 64 → 32 ≤ r → s.w.awaits r = false)
    ∧ UserNoHandler user ∧ (0#9).toNat = 0 ∧ 6 < (7#9).toNat + user.w.blocks ∧ user.w.blocks < (1#9).toNat
    ∧ (∃ l j, (dealing 0).findLaunch (dealing 0).team.launch = some l ∧ l.job = some j ∧ j.left = 0)
    ∧ (∃ l j, (dealing 9).findLaunch (dealing 9).team.launch = some l ∧ l.job = some j ∧ j.left ≠ 0 ∧ j.central.2 ≠ 0
      ∧ dealBefore (dealing 9) l.id = false ∧ (j.reserves.map (·.1)).Nodup)
    ∧ (1#6).toNat ≠ 0 ∧ (62#6).toNat ≤ 62 := by
  unfold UserNoHandler CanTrap
  and_intros
  all_goals first
    | decide +kernel
    | exact ⟨_, _, rfl, rfl, by decide⟩

/-- A team barrier and a Meridian group, with two members, one arrived. -/
def barred : State := { user with
  team := { user.team with barriers := [(15, { m := 2, a := 1 })] }, ctx := { user.ctx with groups := [255] }, meridian := [(255, { m := 2 })] }

theorem witness_BarrierInstructions : barred.w.dawn = false ∧ (15#9).toNat < 16 ∧ (271#9).toNat ≤ 271 ∧ (271#9).toNat - 16 ∈ barred.ctx.groups
    ∧ (getBarrier barred 15).emptied = false ∧ (getBarrier barred 271).emptied = false ∧ Fenced barred 2 ∧ Fenced barred 4
    ∧ (getBarrier barred 15).a + 1 = (getBarrier barred 15).m ∧ (getBarrier barred 271).a + 1 ≠ (getBarrier barred 271).m
    ∧ (1 ≤ ((getBarrier barred 15).gen - (-1#64).setWidth 32).toNat ∧ ((getBarrier barred 15).gen - (-1#64).setWidth 32).toNat < 2 ^ 31)
    ∧ ¬ (1 ≤ ((getBarrier barred 15).gen - (0#64).setWidth 32).toNat)
    ∧ (1 ≤ (32#64).toNat % 2 ^ 16 ∧ (32#64).toNat % 2 ^ 16 ≤ 32)
    ∧ UserNoHandler barred ∧ 271 < (272#9).toNat ∧ 16 ≤ (16#9).toNat ∧ (16#9).toNat - 16 ∉ barred.ctx.groups := by
  unfold UserNoHandler CanTrap Fenced
  and_intros <;> decide +kernel

/-! ## Chains and engines -/

/-- A descriptor: base, rows, columns, stride, type, layout, scale and trailer offsets, space. -/
def desc (base rows cols stride type layout scale trail space : Nat) : Desc :=
  BitVec.ofNat 256 (base + rows * 2 ^ 64 + cols * 2 ^ 88 + stride * 2 ^ 112 + type * 2 ^ 144 + layout * 2 ^ 148 + scale * 2 ^ 152
    + trail * 2 ^ 192 + space * 2 ^ 255)

/-- chained with tile registers 0 to 3: a plain tile, a brick, a packed tile, an empty descriptor of layout 3. -/
def tiled : State := { chained with
  w := { chained.w with td := [(0, desc 0x6000 4 4 16 0 0 0 0 0), (1, desc 0x7000 32 32 0 0 2 0 0 1), (2, desc 0x6000 1 1 0 0 4 0 64 0), (3, desc 0 1 1 0 0 3 0 0 0)] } }

theorem witness_ChainsAndDescriptors : tiled.w.dawn = false ∧ tiled.team.spec = false ∧ tiled.w.cur.active ≠ 0 ∧ (8#6).toNat % 8 = 0 ∧ tiled.ctx.live = true
    ∧ tiled.ctx.chain 0 = some chain1 ∧ chain1.host = none ∧ tiled.w.count .tl < 30 ∧ tiled.w.count .cp < 30
    ∧ ¬ Full chain1 ∧ Fenced tiled 4 ∧ tiled.snaps = []
    ∧ posVA tiled tiled.ctx chain1 chain1.tail = some 0x4000 ∧ ctxPA tiled tiled.ctx 0x4000 = some 0x44000 ∧ 0x4000 % 64 = 0
    ∧ Full { chain1 with tail := 62 }
    ∧ UserNoHandler tiled ∧ (9#6).toNat % 8 ≠ 0 ∧ tiled.ctx.chain 1 = none
    ∧ Reach1 (withS [(1, 0x120)] tiled) .read 32 ((withS [(1, 0x120)] tiled).w.sGet 1) leaf0 0x40120 ∧ tiled.w.count .ld < 30
    ∧ loadMayRun tiled tiled.w.uid tiled.nextId [(0, 0x40120, 32)] = true ∧ leaf0.getLsbD 8 = false ∧ Served tiled false leaf0 0x40120 32 0
    ∧ Reach1 (withS [(1, 0x120)] tiled) .write 32 ((withS [(1, 0x120)] tiled).w.sGet 1) leaf0 0x40120 ∧ tiled.w.count .st < 30 ∧ tiled.ctx.watch = []
    ∧ (8#4).toNat ≤ 8 ∧ 8 < (9#4).toNat
    ∧ (let x := tiled.w.tdGet 0; dType x < 14 ∧ 3 < dRows x ∧ 3 < dCols x ∧ dLayout x = 0)
    ∧ (let x := tiled.w.tdGet 1; dType x < 14 ∧ 0 < dRows x ∧ 0 < dCols x ∧ dLayout x = 2)
    ∧ 3 ≤ dLayout (tiled.w.tdGet 3) ∧ ¬ 4 < dRows (tiled.w.tdGet 0) := by
  unfold UserNoHandler CanTrap Fenced Reach1 Full
  and_intros
  all_goals first
    | decide +kernel
    | exact Or.inl (by decide +kernel)

/-- A plain tile of one f32. Its descriptor at 0x5000. -/
def descA : List Host.Cell := [(0x45001, 96), (0x45008, 1), (0x4500B, 1), (0x4500E, 4)]
/-- Another. Its descriptor at 0x5020. -/
def descB : List Host.Cell := [(0x45021, 97), (0x45028, 1), (0x4502B, 1), (0x4502E, 4)]
/-- A brick of one f32. Its descriptor at 0x5040. -/
def descBrick : List Host.Cell := [(0x45048, 1), (0x4504B, 1), (0x45052, 32), (0x4505F, 128)]
/-- A quantised tile. Its descriptor at 0x5060. -/
def descQuant : List Host.Cell := [(0x45061, 98), (0x45068, 1), (0x4506B, 1), (0x4506E, 1), (0x45072, 51), (0x45073, 8), (0x45078, 32)]
/-- A row scale. Its descriptor at 0x5080. -/
def descScale : List Host.Cell := [(0x45081, 99), (0x45088, 1), (0x4508B, 1), (0x4508E, 2), (0x45092, 1)]
/-- A packed tile. Its descriptor at 0x50A0. -/
def descPacked : List Host.Cell := [(0x450A1, 100), (0x450A8, 1), (0x450AB, 1), (0x450B2, 64), (0x450B8, 32)]
/-- chained with record 2 queued at the chain's head (PA 0x44000), its bytes, the descriptors, and LEVEL lvl. -/
def queued (lvl : Nat) (cells : List Host.Cell) : State :=
  { chained with
    mem := mapped.mem ++ cells
    ctx := { chained.ctx with ebudLevel := lvl, chains := [(0, { chain1 with tail := 1, nextSeq := 3, recs := [{ seq := 2, idx := 0, team := some 1 }] })] } }
/-- The record, its chain and its environment in such a state. -/
def rec2 : Rec := { seq := 2, idx := 0, team := some 1 }
def chain2 : Chain := { chain1 with tail := 1, nextSeq := 3, recs := [rec2] }
def envOf (s : State) : RecEnv := { addr := (posVA s s.ctx chain2 0).getD 0, ch := chain2, dws := readRec s s.ctx chain2 rec2 }

/-- The record is the next, its opcode is opc, and the judgement accepts it with a debit that LEVEL 0 does not cover, 100 does. -/
def Accepted (opc : Nat) (judge : State → Agent → RecEnv → Except Err Judged) (s : State) : Bool :=
  ((envOf s).dws.headD 0).toNat % 256 == opc && !(((envOf s).dws.headD 0).getLsbD 10)
  && (match judge s (recAgent 1 chain2 rec2) (envOf s) with
    | .ok r => decide (0 < (r.2.1 + 65535) / 65536 + (r.2.2 + 65535) / 65536) && decide (4 * ((r.2.1 + 65535) / 65536 + (r.2.2 + 65535) / 65536) ≤ 100)
        && !writesTo s (recAgent 1 chain2 rec2) (envOf s) r.1
    | .error _ => false)
/-- The judgement refuses it. -/
def Rejected (opc : Nat) (judge : State → Agent → RecEnv → Except Err Judged) (s : State) : Bool :=
  ((envOf s).dws.headD 0).toNat % 256 == opc && (match judge s (recAgent 1 chain2 rec2) (envOf s) with
    | .ok _ => false
    | .error _ => true)

/-- Records of every opcode that the judgement accepts. -/
def goodRecords : List (Nat × List Host.Cell × (State → Agent → RecEnv → Except Err Judged)) :=
  [(0x01, [(0x44000, 1), (0x44009, 80), (0x44010, 32), (0x44011, 80)] ++ descA ++ descB, judgeCopy),
   (0x02, [(0x44000, 2), (0x44009, 80), (0x44010, 64), (0x44011, 80)] ++ descA ++ descBrick, judgeExpand),
   (0x03, [(0x44000, 3), (0x44009, 80), (0x44010, 96), (0x44011, 80), (0x44018, 128), (0x44019, 80)] ++ descA ++ descQuant ++ descScale, judgeQuant),
   (0x04, [(0x44000, 4), (0x44008, 160), (0x44009, 80), (0x44010, 32), (0x44011, 80)] ++ descB ++ descPacked, judgeUnpack),
   (0x06, [(0x44000, 6), (0x44008, 32), (0x44009, 80), (0x44010, 7)] ++ descB, judgeFill),
   (0x07, [(0x44000, 7), (0x44009, 96), (0x44010, 128), (0x44011, 96), (0x44018, 1), (0x44021, 97)], judgeGather false),
   (0x08, [(0x44000, 8), (0x44009, 96), (0x44010, 128), (0x44011, 96), (0x44018, 1), (0x44021, 97)], judgeGather true)]

/-- Its record in flight in such a state: two pieces of 4 outstanding, one that is read and one that is written. -/
def flying (judge : State → Agent → RecEnv → Except Err Judged) (cells : List Host.Cell) (els : Option (List (List Nat))) : Rec :=
  { rec2 with phase := .paying, cost := 8, plan := (0, 1, 1), dws := (envOf (queued 0 cells)).dws, els := els
              ds := match judge (queued 0 cells) (recAgent 1 chain2 rec2) (envOf (queued 0 cells)) with
                | .ok r => r.1
                | .error _ => [] }
/-- The state with that record. -/
def inFlightAt (lvl : Nat) (r : Rec) (cells : List Host.Cell) : State :=
  { queued lvl cells with ctx := { (queued lvl cells).ctx with chains := [(0, { chain2 with recs := [r] })] } }
/-- What the record finds: its judgement's answer, its checking pass, and whether a page it writes is held. -/
def flyingOk (w : OpWork) (r : Rec) (cells : List Host.Cell) : Option (Option Bool × Bool) :=
  let s := inFlightAt 100 r cells
  let e := heldEnv s s.ctx { chain2 with recs := [r] } r
  match w.judge s (recAgent 1 { chain2 with recs := [r] } r) e with
  | .ok x => some ((w.check s (recAgent 1 chain2 r) e x.1).map (fun y => match y with
      | .ok _ => true
      | .error _ => false), writesTo s (recAgent 1 chain2 r) e x.1)
  | .error _ => none
/-- The works of the opcodes. -/
def works : List OpWork := [copyWork, expandWork, quantWork, unpackWork, fillWork, gatherWork, scatterWork]
/-- The bytes of the packed tile: one absent element, its CRC, and the trailer. -/
def packedTile : List Host.Cell :=
  [(0x46400, 2), (0x46401, 1), (0x46404, 199), (0x46405, 75), (0x46406, 103), (0x46407, 72), (0x46420, 86), (0x46421, 75), (0x46422, 84),
   (0x46423, 81), (0x4642C, 1), (0x46431, 4), (0x46434, 1), (0x4643C, 114), (0x4643D, 6), (0x4643E, 35), (0x4643F, 244)]
/-- A record that quantises, with a row scale of 1. -/
def quantRec : List Host.Cell :=
  [(0x44000, 3), (0x44009, 80), (0x44010, 96), (0x44011, 80), (0x44018, 128), (0x44019, 80)] ++ descA ++ descQuant ++ descScale
  ++ [(0x46300, 128), (0x46301, 63)]
/-- A record of the packed tile. -/
def packedRec : List Host.Cell := [(0x44000, 4), (0x44008, 160), (0x44009, 80), (0x44010, 32), (0x44011, 80)] ++ descB ++ descPacked

theorem witness_EngineRecords : (∀ x ∈ goodRecords, Accepted x.1 x.2.2 (queued 0 x.2.1) = true ∧ Rejected x.1 x.2.2 (queued 0 [(0x44000, x.1), (0x44008, 1), (0x44010, 1)]) = true)
    ∧ NextRecord (queued 0 [(0x44000, 1)]) 1 0 (queued 0 [(0x44000, 1)]).ctx chain2 rec2
    ∧ NextRecord (queued 100 [(0x44000, 9)]) 1 0 (queued 100 [(0x44000, 9)]).ctx chain2 rec2
    ∧ ((envOf (queued 100 [(0x44000, 9)])).dws.headD 0).toNat % 256 = 0x09
    ∧ (∀ c ∈ mapped.ctx :: mapped.ctxs, c.watch = []) := by
  unfold NextRecord RecordAt
  and_intros
  all_goals decide +kernel

/-- A record in flight of the opcode whose judgement accepts it, another that it refuses, and what the checking pass says. -/
def flies (p : (Nat × List Host.Cell × (State → Agent → RecEnv → Except Err Judged)) × OpWork) : Bool :=
  let bad := [(0x44000, BitVec.ofNat 8 p.1.1), (0x44008, 1), (0x44010, 1)]
  let r := flying p.1.2.2 p.1.2.1 none
  (r.dws.headD 0).toNat % 256 == p.1.1 && flyingOk p.2 r p.1.2.1 == some (if p.1.1 = 0x03 ∨ p.1.1 = 0x04 then some false else if p.1.1 = 0x07 ∨ p.1.1 = 0x08 then some true else none, false)
  && flyingOk p.2 (flying p.1.2.2 bad none) bad == none

theorem witness_EngineRecords_flight : (∀ r : Rec, r.seq = 2 → ∀ cells, RecordAt (inFlightAt 100 r cells) 1 0 (inFlightAt 100 r cells).ctx { chain2 with recs := [r] } r)
    ∧ (∀ els, (flying judgeUnpack packedRec els).phase = .paying ∧ (flying judgeUnpack packedRec els).els = els
      ∧ (flying judgeUnpack packedRec els).seq = 2 ∧ (flying judgeUnpack packedRec els).cost = 8)
    ∧ (goodRecords.zip works).all flies = true
    ∧ flyingOk unpackWork (flying judgeUnpack (packedRec ++ packedTile) none) (packedRec ++ packedTile) = some (some true, false)
    ∧ flyingOk quantWork (flying judgeQuant quantRec none) quantRec = some (some true, false)
    ∧ (∀ els, firstCost 4 { flying judgeUnpack packedRec els with plan := (1, 1, 1) } = 4)
    ∧ mayRelease (0, 1, 1) 0 = 0 ∧ mayRelease (0, 2, 2) 2 = 65536 :=
  ⟨fun _ h _ => ⟨rfl, rfl, by simp [h]⟩, fun _ => ⟨rfl, rfl, rfl, rfl⟩, by decide +kernel, by decide +kernel, by decide +kernel, fun _ => rfl, by decide, by decide⟩

/-- A migration's record paid for, and in its two waits; page 0's leaf says M clear. -/
def migrating (ph : RecPhase) (part : Nat) : Rec := { rec2 with phase := ph, part := part, shoot := 3, dws := [0x05, 0, 1] }
def migration (ph : RecPhase) (part : Nat) (sh : List Shoot) : State :=
  { chained with shoots := sh, ctx := { chained.ctx with chains := [(0, { chain2 with recs := [migrating ph part] })] } }
/-- The oldest record done, bound to host queue 9. -/
def fin2 : Rec := { rec2 with phase := .done, warp := some 1, op := 5 }
def completing : State := { chained with
  ctx := { chained.ctx with chains := [(0, { chain2 with host := some 9, recs := [fin2] })] }
  w := { chained.w with ops := [load1] }
  dev := { hostqs := [{ num := 9, asid := 1, part := 0, launch := false, slot := 0, hcw := 0x80, vec := 3 }] } }

theorem witness_EngineSteps :
    (let s := queued 0 [(0x44000, 0x20), (0x44008, 0x80), (0x44010, 31)];
      NextRecord s 1 0 s.ctx chain2 rec2 ∧ (∀ i, i < 8 → 3 ≤ i → (((envOf s).dws[i]?).getD 0).toNat = 0)
      ∧ (((envOf s).dws[0]?).getD 0).toNat = 0x20 ∧ (((envOf s).dws[1]?).getD 0).toNat = 0x80 ∧ (((envOf s).dws[2]?).getD 0).toNat = 31)
    ∧ (∀ x ∈ [(RecPhase.waiting, 2, []), (.waiting, 1, [({ id := 3, asid := none, va := none } : Shoot)]), (.waiting, 1, []), (.paying, 0, [])],
        let s := migration x.1 x.2.1 x.2.2;
        RecordAt s 1 0 s.ctx { chain2 with recs := [migrating x.1 x.2.1] } (migrating x.1 x.2.1)
        ∧ ctxWalk s s.ctx 0 = .leaf leaf0 ∧ leafM leaf0 = false ∧ bitOf (leafTier leaf0) ≠ 1 ∧ bitOf (leafTier leaf0) = 0 ∧ (migrating x.1 x.2.1).cost = 0 ∧ ((migrating x.1 x.2.1).dws.headD 0).toNat % 256 = 0x05
        ∧ ∃ f, freeFrame s (rangeOf s.parts s.ctx) 1 = some f ∧ f ≠ leafFrame leaf0)
    ∧ RecordAt completing 1 0 completing.ctx { chain2 with host := some 9, recs := [fin2] } fin2
    ∧ rec2.wct < completing.time ∧ ctxPA completing completing.ctx 0x9000 = some 0x49000 ∧ completing.findWarp 1 = some completing.w
    ∧ completing.w.ops.filter (fun q => q.id == 5) = [load1] ∧ (completing.dev.hostqs.find? (fun h => h.num == 9)).isSome = true
    ∧ (completing.liveCtxs.map (·.asid)).Nodup ∧ (∀ c ∈ completing.liveCtxs, (c.chains.map (·.1)).Nodup ∧ ∀ p ∈ c.chains, (p.2.recs.map (·.seq)).Nodup) := by
  unfold NextRecord RecordAt
  and_intros
  all_goals decide +kernel
end

/-! ## Routines and tile operators -/

section
set_option Elab.async false

/-- mapped with s2 = 0x4000, the image there: a header of d0 and no identity, then one word. -/
def routineImage (d0 w : Nat) : State := withM [(0x44000, 8, d0), (0x44018, 4, w)] (withS [(2, 0x4000)] mapped)
/-- A registered routine, IDX 16, GEN 1. -/
def routine1 : Routine := { words := [0x04041821], width := 1, assoc := true, comm := false, ident := [0], gen := 1 }
/-- mapped with routine1 registered and its handle in s2; a load's operation may name it. -/
def registered1 (h : W64) : State := withS [(2, 0x1010)] { mapped with
  team := { mapped.team with asid := 1 }, ctx := { mapped.ctx with routines := [(16, routine1)], rgens := [(16, 1)] }, w := { mapped.w with ops := [{ load1 with hnd := h }] } }

theorem witness_RoutineRegistration : (routineImage 1 0).w.dawn = false ∧ (routineImage 1 0).team.spec = false
    ∧ Reads (routineImage 1 0) 8 0x4000 1 ∧ Reads (routineImage 1 0) 8 (0x4000 + 8) 0 ∧ Reads (routineImage 1 0) 8 (0x4000 + 16) 0 ∧ headerBad 1 0 0 = true
    ∧ Reads (routineImage 0x10101 0x04041821) 8 0x4000 0x10101 ∧ headerBad 0x10101 0 0 = false
    ∧ Reads (routineImage 0x10101 0x04041821) 4 (0x4000 + 24 + BitVec.ofNat 64 (4 * 0)) 0x04041821 ∧ bodyReason [0x04041821] = none
    ∧ Reads (routineImage 0x10101 1) 4 (0x4000 + 24 + BitVec.ofNat 64 (4 * 0)) 1 ∧ bodyReason [1] = some 3
    ∧ (routineImage 1 0).ctx.routines.length < 4080 ∧ 4080 ≤ (List.replicate 4080 (16, routine1)).length
    ∧ liveRoutine (routineImage 1 0).ctx 0x4000 = none
    ∧ liveRoutine (registered1 0).ctx 0x1010 ≠ none ∧ handleUsed (registered1 0) 0x1010 = false ∧ handleUsed (registered1 0x1010) 0x1010 = true := by
  unfold Reads Reach1
  and_intros
  all_goals first
    | exact ⟨leaf0, 0x44000, by decide +kernel⟩
    | exact ⟨leaf0, 0x44008, by decide +kernel⟩
    | exact ⟨leaf0, 0x44010, by decide +kernel⟩
    | exact ⟨leaf0, 0x44018, by decide +kernel⟩
    | exact Nat.le_of_eq List.length_replicate.symm
    | decide +kernel

/-- chained with handle 5 (ADD.i32) and CTL 0 in s2 and s3, and tile registers 0 and 1 one f32 each, in the space given. -/
def folding (sp : Nat) : State := withS [(2, 5)] { chained with
  w := { chained.w with td := [(0, desc 0x100 1 1 4 0 0 0 0 sp), (1, desc 0x200 1 1 4 0 0 0 0 sp)] } }
/-- An operation at the output routine unit: a FOLD of one word in scratchpad. -/
def out1 : OutOp :=
  { op := 5, warp := 1, team := 1, asid := 1, priv := false, fn := 0, hnd := 5, ctl := 0, eh := 0, dd := desc 0x100 1 1 4 0 0 0 0 1,
    da := desc 0x200 1 1 4 0 0 0 0 1, db := 0, ec := 0, rnd := 0, fpe := 0 }
/-- folding with the operations at the unit, the warp's own operation, and LEVEL. -/
def atUnit (l : List OutOp) (lvl : Nat) : State :=
  let s := folding 1; { s with core := { s.core with outq := l }, w := { s.w with ops := [load1] }, ctx := { s.ctx with ebudLevel := lvl } }
/-- A record of opcode 0x10: FOLD with handle h of descriptor B into descriptor A. -/
def foldRec (h : Nat) : List Host.Cell := [(0x44000, 0x10), (0x44008, BitVec.ofNat 8 h), (0x44021, 80), (0x44028, 32), (0x44029, 80)] ++ descA ++ descB

/-- A debit of at least one piece, covered by LEVEL 100 and not by LEVEL 0. -/
def pieceCount (rd wr : Nat) : Bool :=
  decide (0 < (rd + 65535) / 65536 + (wr + 65535) / 65536) && decide (4 * ((rd + 65535) / 65536 + (wr + 65535) / 65536) ≤ 100)

theorem witness_TileOperators : (folding 1).w.dawn = false ∧ (folding 1).team.spec = false ∧ (folding 1).w.count .tl < 30 ∧ (2#6).toNat ≤ 61
    ∧ handleLive (folding 1).ctx 0 = false ∧ UserNoHandler (folding 1) ∧ handleLive (folding 1).ctx ((folding 1).w.sGet 2) = true
    ∧ dSpace ((folding 1).w.tdGet 0) = true ∧ dSpace ((folding 1).w.tdGet 1) = true ∧ dSpace ((folding 0).w.tdGet 0) = false
    ∧ (folding 1).core.outq.length < 64 ∧ 64 ≤ (atUnit (List.replicate 64 out1) 0).core.outq.length ∧ Fenced (folding 1) 4
    ∧ (∀ q ∈ (folding 1).w.ops, q.id ≠ (folding 1).nextId) ∧ (folding 0).ctx.live = true ∧ (folding 0).ctx.chain 0 = some chain1
    ∧ chain1.host = none ∧ ¬ Full chain1 ∧ Full { chain1 with tail := 62 } ∧ (folding 0).w.cur.arg = []
    ∧ NextRecord (queued 0 (foldRec 5)) 1 0 (queued 0 (foldRec 5)).ctx chain2 rec2
    ∧ ((envOf (queued 0 (foldRec 5))).dws.headD 0).toNat = 0x10
    ∧ (match judgeOperRec rec2 (queued 0 (foldRec 0)) (recAgent 1 chain2 rec2) (envOf (queued 0 (foldRec 0))) with | .error _ => true | .ok _ => false) = true
    ∧ (match judgeOperRec rec2 (queued 0 (foldRec 5)) (recAgent 1 chain2 rec2) (envOf (queued 0 (foldRec 5))) with
        | .ok (_, rd, wr) => pieceCount rd wr | .error _ => false) = true
    ∧ (let r : Rec := { flying (judgeOperRec rec2) (foldRec 5) none with cost := 8 }
      let s := inFlightAt 100 r (foldRec 5)
      let e := heldEnv s s.ctx { chain2 with recs := [r] } r
      RecordAt s 1 0 s.ctx { chain2 with recs := [r] } r ∧ r.phase = .paying ∧ (r.dws.headD 0).toNat % 256 = 0x10
      ∧ r.cost % (4 * 2 ^ ((r.dws.headD 0).toNat / 2 ^ 8 % 4)) = 0 ∧ r.cost ≤ 100 ∧ 0 < r.cost
      ∧ (match judgeOperRec r s (unitAgent 1 { chain2 with recs := [r] } r) e with | .ok _ => true | .error _ => false) = true
      ∧ (match judgeOperRec r s (unitAgent 1 { chain2 with recs := [r] } r) { e with dws := [0x10, 0] } with | .ok _ => false | .error _ => true) = true
      ∧ (routineOf s.ctx s.tick r.rnd r.fpe (e.dw 1)).isSome = true
      ∧ rangeHeld s (unitAgent 1 chain2 r) (dSpace (recArgs s (unitAgent 1 chain2 r) e).1.dd) (tileRanges (recArgs s (unitAgent 1 chain2 r) e).1.dd) = false)
    ∧ (routineOf (queued 0 (foldRec 5)).ctx 0 rec2.rnd rec2.fpe ((envOf (queued 0 (foldRec 5))).dw 1)).isSome = true
    ∧ rangeHeld (queued 0 (foldRec 5)) (recAgent 1 chain2 rec2) false [(0x6000, 4)] = false
    ∧ ((atUnit [out1] 0).getCore (atUnit [out1] 0).core.num).outq = [out1]
    ∧ (match judgeOper 0 0 0 false (atUnit [out1] 0) (outAgent out1) 0 (outArgs out1) (outDescs out1) with | .error _ => true | .ok _ => false) = true
    ∧ (match judgeOper 0 0 5 false (atUnit [out1] 0) (outAgent out1) 0 (outArgs out1) (outDescs out1) with
        | .ok (rd, wr) => pieceCount rd wr | .error _ => false) = true
    ∧ (routineOf (atUnit [out1] 0).ctx 0 0 0 5).isSome = true
    ∧ (let s := atUnit [{ out1 with done := true }] 0;
      (s.core :: s.cores ++ s.saves.map (·.core)).findSome? (fun c => c.outq.find? (fun o => o.op == 5 && o.done)) = some { out1 with done := true }
      ∧ s.findWarp 1 = some s.w ∧ s.w.ended = false ∧ s.w.ops = [load1] ∧ load1.id = 5) := by
  unfold NextRecord RecordAt UserNoHandler CanTrap Fenced Full
  and_intros <;> decide +kernel

/-- A tile operator's record, over and not yet retired, with the warp's own operation. -/
def doneOper : Rec := { rec2 with phase := .done, warp := some 1, op := 5, instr := true }
def operDone : State := { inFlightAt 0 doneOper [] with w := { mapped.w with ops := [load1] } }

theorem witness_TileOperators_retired : doneOperRec 5 operDone = some (1, 0, doneOper)
    ∧ RecordAt operDone 1 0 operDone.ctx { chain2 with recs := [doneOper] } doneOper ∧ doneOper.warp = some 1
    ∧ operDone.findWarp 1 = some operDone.w ∧ operDone.w.ended = false ∧ operDone.w.ops = [load1] ∧ load1.id = 5
    ∧ doneOperRec 5 (atUnit [{ out1 with done := true }] 0) = none := by
  unfold RecordAt
  and_intros <;> decide +kernel
end

/-! ## The Orrery -/

section
set_option Elab.async false

/-- A problem record: one 32 × 32 f32 tile of one step, DEPTH 2, table 1, completion word at 0x9000, COOKIE 7. -/
def record1 : PRec := [0x2000000020000020, 32, 1, 0, 0, 0, 0x9000, 7]
/-- A table with all three entries in cohort 3 at 0x3000. -/
def table1 : List HEntry := List.replicate 3 { present := true, cohort := 3, entry := 0x3000 }
/-- A walk of record1 in slot 1, with its first unit. -/
def walk1 (u : UnitS) : WalkS :=
  { slot := 1, serial := 1, rec_ := record1, asid := 1, team := 1, warp := 1, priv := false, op := 5, posted := 50, tab := table1, started := true,
    units := [u, {}, {}, {}] }
/-- chained with table 1 and LEVEL, the walks in its core, and the warp's load as operation 5. -/
def orrery (lvl : Nat) (l : List WalkS) : State := { chained with
  ctx := { chained.ctx with htabs := [(1, table1)], ebudLevel := lvl }, core := { chained.core with walks := l, serial := 1 }
  w := { chained.w with ops := [load1] } }
/-- orrery with the eight dwords of a record in s16 to s23. -/
def posting (r : PRec) (s : State) : State := withS ((List.range 8).map (fun i => (16 + i, (r[i]?).getD 0))) s
/-- chained with three entries of a handler table at 0x4000, whose second dwords are given. -/
def tabled (d1 : Nat) : State := withM [(0x44000, 8, 0x3000), (0x44008, 8, d1), (0x44010, 8, 0x3000), (0x44018, 8, d1), (0x44020, 8, 0x3000), (0x44028, 8, d1)] chained
/-- Walks in all four slots. -/
def fullSlots : List WalkS := [1, 2, 3, 4].map (fun q => { walk1 {} with slot := q })

theorem witness_Opost : (posting record1 (orrery 0 [])).w.dawn = false ∧ (posting record1 (orrery 0 [])).team.spec = false
    ∧ (16#6).toNat % 8 = 0 ∧ (posting record1 (orrery 0 [])).w.count .tl < 30 ∧ Fenced (posting record1 (orrery 0 [])) 4
    ∧ opostReason (posting [0, 0, 0, 0, 0, 0, 0, 0] (orrery 0 [])) (posted (posting [0, 0, 0, 0, 0, 0, 0, 0] (orrery 0 [])) 16 0) = some 2
    ∧ opostReason (posting record1 (orrery 0 [])) (posted (posting record1 (orrery 0 [])) 16 0) = none
    ∧ effRate (posting record1 (orrery 0 [])) (orrery 0 []).ctx = 0 ∧ (orrery 0 []).ctx.ebudLevel < (posted (posting record1 (orrery 0 [])) 16 0).debit
    ∧ (posted (posting record1 (orrery 100 [])) 16 0).debit ≤ (orrery 100 []).ctx.ebudLevel ∧ UserNoHandler (orrery 0 [])
    ∧ walkSlot (slotsTaken (orrery 100 [walk1 {}])) (orrery 100 [walk1 {}]).core 0 = some 2
    ∧ walkSlot (slotsTaken (orrery 100 fullSlots)) (orrery 100 fullSlots).core 0 = none
    ∧ (orrery 100 []).w.cur.arg = [] ∧ (postArgs (orrery 100 []) record1 0).length = 33 := by
  unfold UserNoHandler CanTrap Fenced
  and_intros <;> decide +kernel

theorem witness_WalksAndTables : (0x4008 : W64).toNat % 16 ≠ 0
    ∧ HandlerTable (tabled 0x200) 0x4000 none ∧ HandlerTable (tabled 0x103) 0x4000 (some table1)
    ∧ (tabled 0x103).ctx.htabs.length < 4095 ∧ 4095 ≤ (List.replicate 4095 (1, table1)).length
    ∧ (∀ p ∈ chained.ctx.htabs, p.1 ≠ 1) ∧ (∃ p ∈ (orrery 0 []).ctx.htabs, p.1 = 1) ∧ tableUsed (orrery 0 []) 1 = false
    ∧ tableUsed (orrery 0 [walk1 {}]) 1 = true ∧ (∀ w ∈ (orrery 0 []).core.walks, w.ended = none → w.id ≠ (1 : W64))
    ∧ (orrery 0 [walk1 {}]).core.walks.find? (fun w => w.live && w.id == (0x100000001 : W64) && w.asid == (orrery 0 []).ctx.asid) = some (walk1 {})
    ∧ (orrery 0 [walk1 {}]).core.walks.filter (fun v => v.slot == 1) = [walk1 {}] := by
  unfold HandlerTable Reach1
  and_intros
  all_goals first
    | exact Nat.le_of_eq List.length_replicate.symm
    | exact ⟨fun _ => leaf0, fun i => 0x44000 + 16 * i, by decide +kernel, by decide +kernel⟩
    | decide +kernel

/-- The warp's upcall of a kind in walk1. -/
def upcall1 (kind : Nat) : Upcall :=
  { walk := 0x100000001, slot := 1, unit := 0, seq := 1, kind := kind, addr := if kind = 2 then 0x1050000 else 0x1000000 }
/-- Parked in cohort 3 at 0x1000. -/
def latch1 : Latch := { addr := 0x1000, sd := 4, sa := 0, cohort := 3, depth := 0, next := 0x1004 }
/-- A warp serving an upcall. -/
def serving (u : Upcall) : State := let s := orrery 0 [walk1 {}]; { s with w := { s.w with ops := [], upcall := some u, latch := some latch1 } }
/-- A warp that has the walk of an id in its list, with its word. -/
def posted1 (x : Option (W64 × Nat)) : State := { user with w := { user.w with walks := [(1, { id := 0x100000001, word := x })] } }

theorem witness_HandlerInstructions : user.w.dawn = false ∧ (3#9).toNat ≤ 255 ∧ user.w.upcall = none ∧ user.w.splits.length = 1 ∧ user.w.latch = none
    ∧ user.w.walks.find? (fun p => p.2.id == (1 : W64)) = none
    ∧ ((posted1 (some (5, 9))).w.walks.find? (fun p => p.2.id == (0x100000001 : W64))).map (fun p => p.2.word) = some (some (5, 9))
    ∧ owed (posted1 (some (5, 9))).w 0x100000001 3 = false
    ∧ ((posted1 none).w.walks.find? (fun p => p.2.id == (0x100000001 : W64))).map (fun p => p.2.word) = some none
    ∧ (0#7).toNat ≤ 96 ∧ RegsReady (serving (upcall1 0)) (group 128 0) [] ∧ Serving (serving (upcall1 0)) (upcall1 0) (walk1 {})
    ∧ (upcall1 0).cursor < pieces record1 (record1.opType 0) (record1.stageCols 0)
    ∧ RegsReady (serving (upcall1 2)) [] (group 128 0) ∧ Serving (serving (upcall1 2)) (upcall1 2) (walk1 {})
    ∧ (upcall1 2).cursor < pieces record1 record1.dType record1.t
    ∧ ((withS [(2, 0x1000000)] (serving (upcall1 0))).w.sGet 2).toNat = (upcall1 0).addr ∧ (upcall1 0).unit < (walk1 {}).units.length
    ∧ firstPoison (serving (upcall1 0)).core (stageReads record1 0 0x1000000) = none ∧ scaleFault record1 (serving (upcall1 0)).core 0 0x1000000 = none
    ∧ record1.sparse = 0
    ∧ (serving (upcall1 2)).w.latch = some latch1 ∧ (serving (upcall1 2)).w.splits.length = 1 ∧ (serving (upcall1 2)).w.stack.length = latch1.depth
    ∧ (serving (upcall1 2)).core.walks.filter (fun v => v.slot == 1) = [walk1 {}] ∧ (walk1 {}).prob.policy = 0 := by
  unfold Serving RegsReady
  and_intros <;> decide +kernel

/-- A record with an upcall timeout of 0 or 1 µs and the sources and sink given. -/
def record2 (tmo src : Nat) : PRec := [0x2000000020000020, BitVec.ofNat 64 (32 + tmo * 2 ^ 53), 1, BitVec.ofNat 64 src, BitVec.ofNat 64 src, BitVec.ofNat 64 src, 0x9000, 7]
def walk2 (tmo : Nat) (u : UnitS) : WalkS := { walk1 u with rec_ := record2 tmo 0 }
/-- A direct source or sink at an address. -/
def direct1 (base : Nat) : Direct := { desc := desc base 32 32 128 0 0 0 0 0, bstride := 0, meta_ := 0, mstride := 0 }
def walk3 (base : Nat) (u : UnitS) : WalkS := { walk1 u with rec_ := record2 0 0x5000, a := some (direct1 base), b := some (direct1 base), c := some (direct1 base) }
/-- A direct source of one element in layout 3, at 0x6000. -/
def packed1 : Direct := { desc := desc 0x6000 1 1 1 3 3 8 32 0, bstride := 0, meta_ := 0, mstride := 0 }
def walk4 (u : UnitS) : WalkS := { walk1 u with rec_ := record2 0 0x5000, a := some packed1 }
/-- Its tile: row scale 1 and a trailer whose CRC is that of its bytes. -/
def trailed (w : WalkS) : State :=
  let s := withM [(0x46008, 2, 0x3F80)] (orrery 100 [w])
  withM [(0x46020, 32, ofBytes (trailerBytes 0x51544B56 0 0 1 3 3 1
    (crc32c (quantCover (agentByte s (walkAgent w) false) packed1.desc))))] s
/-- Both stages of the first position in a state. -/
def staged (st : Stage) : UnitS := { stages := [(0, st), (16, st)] }
/-- A consume upcall pending in cohort 3, in which the warp waits. -/
def delivering : State := let s := orrery 0 [walk1 { slot := .pending }]; { s with
  team := { s.team with cohorts := [(3, [1])], pending := [(3, { slot := 1, unit := 0, kind := 2, pos := 0 })] }
  w := { s.w with latch := some latch1 } }

theorem witness_OrrerySteps : (∀ w ∈ [walk1 {}, walk2 1 {}, walk3 0x6000 {}, { walk1 {} with started := false }], WalkIn (orrery 0 [w]) 0 w ∧ w.ended = none)
    ∧ ({ walk1 {} with started := false } : WalkS).units.length = record1.units
    ∧ (delivering.findTeam 1 = some delivering.team ∧ delivering.team.saved = none ∧ delivering.team.core = 0
      ∧ delivering.team.pending.find? (fun q => q.1 == 3) = some (3, { slot := 1, unit := 0, kind := 2, pos := 0 })
      ∧ (tabGet [] 3 delivering.team.cohorts).filter (canServe delivering) = [1] ∧ delivering.findWarp 1 = some delivering.w ∧ delivering.w.cancels = [])
    ∧ (let w := walk2 1 (staged { st := .given, num := 1 });
      deliveredUp w 1 = some (0, 0, 0) ∧ w.prob.tmo ≠ 0 ∧ (upStage w 0 0 0).raised + w.prob.tmo * 1000 ≤ 1000 ∧ w.prob.policy = 0)
    ∧ (let w := walk3 0x6000 (staged { st := .requested, cost := 4 });
      w.direct 0 = some (direct1 0x6000) ∧ w.direct 1 = some (direct1 0x6000) ∧ oldestRequest (w.unit 0) 0 = some (0, { st := .requested, cost := 4 })
      ∧ oldestRequest (w.unit 0) 1 = some (0, { st := .requested, cost := 4 }) ∧ 4 % (4 * 2 ^ w.prob.ec) = 0
      ∧ (orrery 100 [w]).findCtx w.asid = some (orrery 100 [w]).ctx ∧ 4 ≤ (orrery 100 [w]).ctx.ebudLevel ∧ fillFault w (direct1 0x6000) 0 0 0 none (orrery 100 [w]) = none ∧ dLayout (direct1 0x6000).desc ≠ 3
      ∧ (∀ sv ∈ (orrery 100 [w]).saves, sv.core.num ≠ 0))
    ∧ (let w := walk3 0x200000 (staged { st := .requested, cost := 4 }); (fillFault w (direct1 0x200000) 0 0 0 none (orrery 100 [w])).isSome = true)
    ∧ (let w := walk4 (staged { st := .requested, cost := 4 });
      w.direct 0 = some packed1 ∧ dLayout packed1.desc = 3 ∧ (fillCheck w packed1 0 0 0 (orrery 100 [w])).isOk = false
      ∧ (fillCheck w packed1 0 0 0 (trailed w)).isOk = true)
    ∧ (let w := walk1 (staged { st := .sealed }); stepReady (orrery 100 [w]) 0 w 0 = true ∧ stepBefore (orrery 100 [w]) 0 w = false)
    ∧ ((walk1 { running := true }).unit 0).running = true
    ∧ ((walk1 { next := 1, ready := true }).unit 0).ready = true ∧ ((walk1 { next := 1, ready := true }).unit 0).slot = .free ∧ (walk1 {}).c = none
    ∧ (let w := walk3 0x6000 { next := 1, ready := true };
      rangeHeld (orrery 100 [w]) (walkAgent w) false (tileRanges (subTile (batchDesc (direct1 0x6000) 0) 0 0 32 32)) = false
      ∧ rangesFault (orrery 100 [w]) (walkAgent w) false .write (tileRanges (subTile (batchDesc (direct1 0x6000) 0) 0 0 32 32)) = none
      ∧ (rangesFault (orrery 100 [w]) (walkAgent w) false .write (tileRanges (subTile (batchDesc (direct1 0x200000) 0) 0 0 32 32))).isSome = true)
    ∧ (let w := walk1 { next := 1 };
      walkDone w = true ∧ w.wct = 0 ∧ (orrery 100 [w]).snaps = [] ∧ (∀ x ∈ (orrery 100 [w]).ctx :: (orrery 100 [w]).ctxs, x.watch = [])
      ∧ ctxWalk (orrery 100 [w]) (orrery 100 [w]).ctx w.prob.cw = .leaf leaf0 ∧ leafM leaf0 = false ∧ w.prob.cw % 8 = 0
      ∧ rangeFault (orrery 100 [w]) (walkAgent w) false .write w.prob.cw 8 = none
      ∧ (orrery 100 [w]).findWarp w.warp = some (orrery 100 [w]).w ∧ (orrery 100 [w]).w.ops.filter (fun q => q.id == w.op) = [load1])
    ∧ (let s := { orrery 0 [] with orrs := [{ core := 0, steps := 100, testing := false }], dev := { (orrery 0 []).dev with interval := 64 } };
      (s.orr 0).testing = false ∧ s.dev.interval ≤ (s.orr 0).steps ∧ (s.getCore 0).walks = [])
    ∧ (({ user with orrs := [{ core := 0, testing := true }] } : State).orr 0).testing = true := by
  unfold WalkIn
  and_intros <;> decide +kernel
end

/-! ## Handles, KV caches, the Ephemeris store, attention -/

section
set_option Elab.async false

/-- A handle of generation 1 and BOUND b for entry i. -/
def handle1 (b i : Nat) : W64 := BitVec.ofNat 64 (2 ^ 48 + b * 2 ^ 20 + i)
/-- A leaf of a frame as KVTENT makes it, or shared by two. -/
def poolLeaf1 (f : Nat) : Nat := (poolLeaf f).toNat
def sharedLeaf (f : Nat) : Nat := f * 2 ^ 20 + 2 * 2 ^ 12 + 2 ^ 6 + 2 ^ 4 + 3
/-- mapped with a KV entry of two pages at 0x40000 (SLOTB 4 KiB) with its lengths and leaves, an empty one with pages at 0xC0000, and in s2 to s4 a
handle of the first with BOUND b, a number and a handle of the second. -/
def kv (b n clen tlen l1 l2 : Nat) : State := withM [(0x30008, 8, l1), (0x30010, 8, l2), (0x45000, 8, 2 ^ 48 + 2 * 2 ^ 20 + 1), (0x45008, 8, 0x40000),
    (0x45010, 8, clen), (0x45018, 8, tlen), (0x45020, 8, 12), (0x45040, 8, 2 ^ 48 + 2 * 2 ^ 20 + 1), (0x45048, 8, 0xC0000), (0x45060, 8, 12)]
  (withS [(2, handle1 b 0), (3, BitVec.ofNat 64 n), (4, handle1 2 1)] { mapped with ctx := { mapped.ctx with htBase := 0x5000, htSize := 2 } })
/-- kv with a pool. -/
def pooled (l : List Nat) (s : State) : State := { s with ctx := { s.ctx with pool := l } }
/-- A shoot-down of the split. -/
def shot (done : Bool) : State := { user with shoots := [{ id := 4, asid := some 1, va := none, done := done, who := some (1, 0) }] }

theorem witness_KvCaches : (kv 2 5 10 100 (poolLeaf1 5) (sharedLeaf 6)).w.dawn = false ∧ (kv 2 5 10 100 (poolLeaf1 5) (sharedLeaf 6)).team.spec = false
    ∧ (2#6).toNat ≤ 61 ∧ NoShoots (kv 2 5 10 100 (poolLeaf1 5) (sharedLeaf 6)) ∧ Fenced (kv 2 5 10 100 (poolLeaf1 5) (sharedLeaf 6)) 4
    ∧ UserNoHandler (kv 2 5 10 100 (poolLeaf1 5) (sharedLeaf 6)) ∧ handleSub (kv 2 5 10 100 (poolLeaf1 5) (sharedLeaf 6)) 1 0 = some 2
    ∧ handleSub (kv 2 5 10 100 (poolLeaf1 5) (sharedLeaf 6)) 1 (handle1 2 0) = none
    ∧ (readEnt (kv 2 100 10 100 0 0) (kv 2 100 10 100 0 0).ctx 0).dw 3 = 100 ∧ (readEnt (kv 2 100 10 100 0 0) (kv 2 100 10 100 0 0).ctx 0).dw 2 = 10
    ∧ 2 ^ 18 / 2 ^ ((readEnt (kv 2 100 10 100 0 0) (kv 2 100 10 100 0 0).ctx 0).dw 4 % 32) = 64 ∧ handleSub (kv 1 70 10 100 0 0) 1 (handle1 1 0) = none
    ∧ (let s := kv 2 70 10 100 (poolLeaf1 5) (sharedLeaf 6); let e := readEnt s s.ctx 0;
      kvShared s s.ctx e 0 = false ∧ kvShared s s.ctx e 1 = true ∧ s.ctx.pool = [] ∧ (pooled [9] s).ctx.pool = [9]
      ∧ kvLeaf (pooled [9] s) (pooled [9] s).ctx e 1 = some (0x30010, BitVec.ofNat 64 (sharedLeaf 6)) ∧ 9 < 2 ^ 34
      ∧ 9 ≠ leafFrame (BitVec.ofNat 64 (sharedLeaf 6)) ∧ 0x30010 / 2 ^ 18 ≠ leafFrame (BitVec.ofNat 64 (sharedLeaf 6)))
    ∧ (∃ x ∈ (shot true).shoots, x.who = some ((shot true).w.uid, (shot true).w.cur.num)) ∧ (∀ x ∈ (shot true).shoots, x.done = true)
    ∧ (∃ x ∈ (shot false).shoots, x.who = some ((shot false).w.uid, (shot false).w.cur.num) ∧ x.done = false)
    ∧ (let s := kv 2 128 10 100 (poolLeaf1 5) (poolLeaf1 6); ∀ i ∈ [1], kvLeaf s s.ctx (readEnt s s.ctx 0) i ≠ none ∧ kvShared s s.ctx (readEnt s s.ctx 0) i = false)
    ∧ (let s := pooled [9, 10] (kv 2 70 0 0 0 0); (∀ i ∈ [0, 1], kvLeaf s s.ctx (readEnt s s.ctx 0) i = none ∧ leafAddr s s.ctx (0x40000 + i * 2 ^ 18) ≠ none)
      ∧ [0, 1].length ≤ s.ctx.pool.length)
    ∧ handleSub (kv 2 5 10 100 0 0) 1 (handle1 2 1) = none ∧ handleSub (kv 2 5 10 100 0 0) 1 5 = some 1
    ∧ (let s := kv 2 10 10 100 (poolLeaf1 5) (sharedLeaf 6); let e := readEnt s s.ctx 1;
      e.dw 2 = 0 ∧ e.dw 3 = 0 ∧ (∀ i, i < 2 → kvLeaf s s.ctx e i = none) ∧ e.dw 4 % 32 = 12 ∧ leafAddr s s.ctx (0xC0000 + 0 * 2 ^ 18) ≠ none
      ∧ kvLeaf s s.ctx (readEnt s s.ctx 0) 0 = some (0x30008, poolLeaf 5) ∧ leafSC (poolLeaf 5) ≠ 255 ∧ leafWrite (poolLeaf 5) = true
      ∧ leafWrite (BitVec.ofNat 64 (sharedLeaf 5)) = false) := by
  unfold NoShoots Fenced UserNoHandler CanTrap
  and_intros <;> decide +kernel

/-- mapped with a state entry of one granule at 0x8000, its area at 0xA000 with key 0 = 5, and its ring. -/
def snapped (ring : Nat) : State := withM [(0x45000, 8, 2 ^ 48 + 2 ^ 20 + 2), (0x45008, 8, 0x8000), (0x45028, 8, 0xA000), (0x45030, 8, ring), (0x4A000, 8, 5)]
  { mapped with ctx := { mapped.ctx with htBase := 0x5000, htSize := 1 } }

theorem witness_EphemerisStore : (snapped 1).w.dawn = false ∧ (snapped 1).team.spec = false ∧ handleSub (snapped 1) 2 0 = some 2 ∧ UserNoHandler (snapped 1)
    ∧ Fenced (snapped 1) 4 ∧ handleSub (snapped 1) 2 (handle1 1 0) = none
    ∧ (let s := snapped 1; let e := readEnt s s.ctx 0; ringFault s s.ctx s.w.cur.priv e .write = none ∧ ringFault s s.ctx s.w.cur.priv e .read = none
      ∧ ringHeld s s.ctx e = false ∧ ringKeys s s.ctx e = [(0, 5)] ∧ (snapSlot [(0, 5)] e 9).toOption = some 1 ∧ (snapSlot [(0, 5)] e 5).toOption = some 0)
    ∧ bestKey [(0, 5)] 9 = some (0, 5) ∧ (∃ q ∈ [(0, 5)], 4 < q.2) ∧ (∀ q ∈ [(0, 5)], 4 < q.2)
    ∧ (let s := snapped 0xFFFF; let e := readEnt s s.ctx 0; (∀ q ∈ ringKeys s s.ctx e, q.2 < 9) ∧ ∀ i, i < 8 → e.valid i = true ∧ e.pin i = true) := by
  unfold Fenced UserNoHandler CanTrap
  and_intros <;> decide +kernel

/-- A request: its handle, Q, one head of 64, positions lo to hi, OUT at 0x6000, completion word at 0x9000. -/
def request (q lo hi : Nat) : List W64 := [handle1 2 0, BitVec.ofNat 64 q, 0, BitVec.ofNat 64 lo, BitVec.ofNat 64 hi, 0, 0x6000, 0x9000]
/-- The request in s16 to s23, over the KV cache of kv with its first page's leaf. -/
def attending (r : List W64) (lvl l1 : Nat) (l : List Attn) : State :=
  let s := withS ((List.range 8).map (fun i => (16 + i, (r[i]?).getD 0))) (kv 2 0 10 100 l1 0);
  { s with ctx := { s.ctx with ebudLevel := lvl }, attns := l, w := { s.w with ops := [load1] } }
/-- A request posted, of one page group. -/
def attn1 (q : Nat) (g : AttnGroup) : Attn :=
  { id := 20, serial := 1, die := 0, asid := 1, warp := 1, priv := false, op := 5, ec := 0, req := request q 0 1, vbase := 0x40000, slog := 12, groups := [g], cost := 4 }

theorem witness_AttnPosts : (attending (request 0x7000 0 10) 0 (poolLeaf1 5) []).w.dawn = false ∧ (attending (request 0x7000 0 10) 0 (poolLeaf1 5) []).team.spec = false
    ∧ (attending (request 0x7000 0 10) 0 (poolLeaf1 5) []).w.count .tl < 30 ∧ (16#6).toNat % 8 = 0
    ∧ attnRefusal (attending [0, 0, 0, 0, 0, 0, 0, 0] 0 0 []) [0, 0, 0, 0, 0, 0, 0, 0] = some (true, 2) ∧ UserNoHandler (attending [] 0 0 [])
    ∧ attnRefusal (attending (request 0x7000 10 10) 0 0 []) (request 0x7000 10 10) = some (false, 4)
    ∧ attnRefusal (attending (request 0x7000 0 10) 0 0 []) (request 0x7000 0 10) = none
    ∧ 256 ≤ ((List.replicate 256 (attn1 0 { page := 0, unit := 0 })).filter (fun x => x.die == 0)).length
    ∧ ¬ 256 ≤ ([] : List Attn).length ∧ Fenced (attending (request 0x7000 0 10) 0 0 []) 4 := by
  unfold Fenced UserNoHandler CanTrap
  and_intros <;> decide +kernel

/-- Page groups: waiting in HBM; absent; under migration. -/
def group0 : AttnGroup := { page := 0, unit := 83 }
def groupAbsent (mig : Nat) : AttnGroup := { page := 0, unit := 83, absent := true, mig := mig }
/-- A leaf of the second tier, and one under migration. -/
def leafFar : W64 := poolLeaf 5 + 2 ^ 5
def leafMoving : W64 := poolLeaf 5 + 2 ^ 11
/-- The request with its group absent at a leaf; record 7 of Ablas's chain migrates the page where M is set. -/
def moving (l : W64) : State :=
  let m := if l = leafMoving then 7 else 0
  { attending [] 100 l.toNat [attn1 0x7000 (groupAbsent m)] with ablas := if m = 7 then [{ die := 0, seq := 7, asid := 1, va := 0x40000 }] else [] }

theorem witness_AttnGroups : (let s := attending [] 100 (poolLeaf1 5) [attn1 0x7000 group0];
      RequestIn s (attn1 0x7000 group0) ∧ (attn1 0x7000 group0).groups[0]? = some group0 ∧ unitServes s (attn1 0x7000 group0) group0 83 = true ∧ (attn1 0x7000 group0).fail = none
      ∧ s.findCtx 1 = some s.ctx ∧ ctxWalk s s.ctx (0x40000 + group0.page * 2 ^ 18) = .leaf (poolLeaf 5) ∧ group0.absent = false
      ∧ (attn1 0x7000 group0).cost % (4 * 2 ^ (attn1 0x7000 group0).ec) = 0 ∧ 4 ≤ s.ctx.ebudLevel ∧ leafTier (poolLeaf 5) = false ∧ leafM (poolLeaf 5) = false
      ∧ rangesFault s ((attn1 0x7000 group0).agent 3 83) false .read (attnReads (attn1 0x7000 group0) 0) = none
      ∧ (rangesFault s ((attn1 0x200000 group0).agent 3 83) false .read (attnReads (attn1 0x200000 group0) 0)).isSome = true
      ∧ attnPoison s ((attn1 0x7000 group0).agent 3 83) (attn1 0x7000 group0) 0 = none
      ∧ attnPoison { s with mp := [0x47000 / 64] } ((attn1 0x7000 group0).agent 3 83) (attn1 0x7000 group0) 0 = some 0x7000)
    ∧ (let s := attending [] 0 leafFar.toNat [attn1 0x7000 group0];
      ctxWalk s s.ctx (0x40000 + group0.page * 2 ^ 18) = .leaf leafFar ∧ leafTier leafFar = true ∧ leafM leafFar = false ∧ s.ctx.ebudLevel < 4
      ∧ canMigrate s (attn1 0x7000 group0) = true)
    ∧ (∀ x ∈ [(0, poolLeaf 5), (0, leafFar), (7, leafMoving)], let s := moving x.2;
      RequestIn s (attn1 0x7000 (groupAbsent x.1)) ∧ unitServes s (attn1 0x7000 (groupAbsent x.1)) (groupAbsent x.1) 83 = true
      ∧ ctxWalk s s.ctx 0x40000 = .leaf x.2 ∧ (∀ y ∈ (attn1 0x7000 (groupAbsent x.1)).groups, y.absent = true ∨ y.done = true)
      ∧ Sys2Proof.Machine.migrating s (groupAbsent x.1) = (x.1 == 7) ∧ leafM x.2 = (x.1 == 7) ∧ canMigrate s (attn1 0x7000 (groupAbsent x.1)) = true)
    ∧ leafTier leafFar = true ∧ leafTier (poolLeaf 5) = false
    ∧ (let s := attending [] 100 (poolLeaf1 5) [attn1 0x7000 { group0 with unit := 3 }];
      RequestIn s (attn1 0x7000 { group0 with unit := 3 }) ∧ groupStack s (attn1 0x7000 { group0 with unit := 3 }) { group0 with unit := 3 } = some 5
      ∧ tabGet 0 5 s.dev.rr < 16) := by
  unfold RequestIn
  and_intros <;> decide +kernel

/-- All groups done; merged. -/
def merging : State := attending [] 0 (poolLeaf1 5) [attn1 0x7000 { group0 with done := true }]
def attn2 : Attn := attn1 0x7000 { group0 with done := true }

theorem witness_AttnMerges : RequestIn merging attn2 ∧ (builtin merging.tick 0 13).isSome = true ∧ attn2.fail = none ∧ attn2.merged = false
    ∧ (∀ x ∈ attn2.groups, x.done = true) ∧ 0 / 48 = attn2.die
    ∧ rangeFault merging (attn2.agent 1 0) false .read attn2.work (12 * attn2.groups.length * attn2.rows) = none
    ∧ rangeFault merging (attn2.agent 1 0) false .write attn2.out (12 * attn2.rows) = none
    ∧ rangeHeld merging (attn2.agent 1 0) false [(attn2.out, 12 * attn2.rows)] = false
    ∧ ({ attn2 with merged := true } : Attn).wct < merging.time ∧ (∀ x ∈ merging.ctx :: merging.ctxs, x.watch = []) ∧ merging.snaps = []
    ∧ merging.findCtx attn2.asid = some merging.ctx ∧ ctxWalk merging merging.ctx attn2.cw = .leaf leaf0 ∧ leafM leaf0 = false ∧ attn2.cw % 8 = 0
    ∧ rangeFault merging (attn2.agent 3 0) false .write attn2.cw 8 = none
    ∧ merging.findWarp attn2.warp = some merging.w ∧ merging.w.ops.filter (fun q => q.id == attn2.op) = [load1] := by
  unfold RequestIn
  and_intros <;> decide +kernel
theorem laneStep_masked (i : Nat) (op : LaneOp) (a b c : W32) : ∃ r, laneStep 0#5 i op a b c = .ok r := by
  unfold laneStep
  simp
theorem lse_masked (k : Nat) (l r : RVal) : ∃ x, lse k 0#5 l r = .ok x := by
  unfold lse
  obtain ⟨m, hm⟩ := laneStep_masked ((Config.reading k 0).toNat % 9) (onF32 opMax) (word l 0) (word r 0) 0
  simp only [hm, bind, Except.bind]
  split
  · exact ⟨_, rfl⟩
  · obtain ⟨d1, h⟩ := laneStep_masked ((Config.reading k 1).toNat % 9) (onF32 opSub) (word l 0) m.1 0
    simp only [h]
    obtain ⟨e1, h⟩ := laneStep_masked ((Config.reading k 2).toNat % 9) (onF32 (spOp 0)) d1.1 0 0
    simp only [h]
    obtain ⟨d2, h⟩ := laneStep_masked ((Config.reading k 3).toNat % 9) (onF32 opSub) (word r 0) m.1 0
    simp only [h]
    obtain ⟨e2, h⟩ := laneStep_masked ((Config.reading k 4).toNat % 9) (onF32 (spOp 0)) d2.1 0 0
    simp only [h]
    obtain ⟨s2, h⟩ := laneStep_masked ((Config.reading k 5).toNat % 9) (onF32 opMul) (word r 1) e2.1 0
    simp only [h]
    obtain ⟨s1, h⟩ := laneStep_masked ((Config.reading k 6).toNat % 9) (onF32 opFma) (word l 1) e1.1 s2.1
    simp only [h]
    obtain ⟨a2, h⟩ := laneStep_masked ((Config.reading k 7).toNat % 9) (onF32 opMul) (word r 2) e2.1 0
    simp only [h]
    obtain ⟨a1, h⟩ := laneStep_masked ((Config.reading k 8).toNat % 9) (onF32 opFma) (word l 2) e1.1 a2.1
    simp only [h]
    exact ⟨_, rfl⟩

/-- Every row of the merge completes. -/
theorem witness_mergeRows : ∃ f, builtin merging.tick 0 13 = some f ∧ ∀ r, r < attn2.rows → ∃ v m, mergeRow f merging (attn2.agent 1 0) attn2 r = .ok (v, m) := by
  refine ⟨_, rfl, fun r hr => ?_⟩
  have hp : ∀ r, r < 64 → rangesPoi merging (attn2.agent 1 0) false [(attn2.workAt r 0, 12)] = false := by decide +kernel
  have hw : workElem merging (attn2.agent 1 0) attn2 r 0
      = .ok ((List.range 3).map (fun k => w32 (agentNat merging (attn2.agent 1 0) (attn2.workAt r 0 + 4 * k) 4))) := by
    unfold workElem
    rw [hp r hr]
    rfl
  generalize ((List.range 3).map (fun k => w32 (agentNat merging (attn2.agent 1 0) (attn2.workAt r 0 + 4 * k) 4))) = v at hw
  obtain ⟨x, hx⟩ := lse_masked merging.tick [0xFF800000#32, 0#32, 0#32] v
  refine ⟨x.1, x.2, ?_⟩
  have hg : (List.range attn2.groups.length).map (workElem merging (attn2.agent 1 0) attn2 r) = [workElem merging (attn2.agent 1 0) attn2 r 0] := rfl
  have hc : ∀ y : Except RFault RVal, chunksOf [y] = [[y]] := fun y => by simp [chunksOf, ceilDiv, List.range_succ]
  unfold mergeRow foldSeq
  rw [hg, hw, hc]
  simp [totals, withRaised, Except.mapError, foldFrom, combine, hx, Except.map, bind, Except.bind, treeRoot]

/-- A request of another unit's group, beside one of the unit's own. -/
theorem witness_AttentionUnitReset : (∃ x ∈ (attn1 0 group0).groups, x.unit = 83 ∧ x.done = false)
    ∧ (∀ x ∈ (attn1 0 { group0 with done := true }).groups, x.unit = 83 → x.done = true) := by decide
end

/-! ## Collectives and barrier objects -/

section
set_option Elab.async false

/-- The user's team at a COLL: handle h and operation k, timeout 1 µs, over one f32 at 0x6000 into 0x6100, the object at 0x9000. -/
def arrival1 (h k : Nat) (fpe : BitVec 5) : CollArrival :=
  { warp := 1, k := 1, dd := desc 0x6100 1 1 4 0 0 0 0 0, da := desc 0x6000 1 1 4 0 0 0 0 0, ctl := BitVec.ofNat 64 (k + 2 ^ 16 + h * 2 ^ 36), obj := 0x9000
    ec := 0, fpe := fpe, op := 5, priv := false }
/-- A collective of the team handed over at time h. -/
def coll1 (hnd k h : Nat) : Coll :=
  { id := 30, team := 1, asid := 1, k := 1, arr := [arrival1 hnd k 0], handed := h, gkey := 258, ord := 0, bound := true, member := true
    pos := [0], chips := [0], teams := [0] }
/-- chained with a service core, the launch's group of n teams, and the collectives. -/
def serving1 (n : Nat) (l : List Coll) : State := { chained with
  parts := [{ service := 1 }], team := { chained.team with nteam := n }, colls := l, w := { chained.w with ops := [load1] } }
/-- Started: three positions, the contribution of this rank given. -/
def started1 (hnd k : Nat) (raw : List (Byte × Bool)) : Coll :=
  { coll1 hnd k 0 with started := true, pos := [0, 1, 2], chips := [0, 9, 9], teams := [0, 0, 0], raw := raw }
/-- Another rank's collective of the same group and order. -/
def peer1 (fail : Option EFail) : Coll := { coll1 5 0 0 with id := 31, team := 9, fail := fail }
/-- A routine FADD v0, v0, v4 under FPE that traps on invalid: of a signalling NaN it fails. -/
def trapping2 : Routine := { routine1 with words := [0x08000027], comm := true }
def collTrap (raw : List (Byte × Bool)) : Coll := { started1 0x1010 0 raw with arr := [arrival1 0x1010 0 0x1F], pos := [0, 1], chips := [0, 0], teams := [0, 1] }
def trapState (c : Coll) : State :=
  let s := serving1 2 [c, { c with id := 31, team := 9, rank := 1 }]; { s with ctx := { s.ctx with routines := [(16, trapping2)] } }
def snan : List (Byte × Bool) := [(1, false), (0, false), (0x80, false), (0x7F, false)]

theorem witness_CollectiveService : CollIn (serving1 1 [coll1 5 0 0]) (coll1 5 0 0) ∧ (coll1 5 0 0).done = false ∧ (coll1 5 0 0).started = false
    ∧ (coll1 5 0 0).fail = none ∧ inherited (serving1 1 [coll1 5 0 0, peer1 (some { sub := 4, detail := 1, cause := { code := 0x0D } })]) (coll1 5 0 0) = some (4, 1)
    ∧ inherited (serving1 1 [coll1 5 0 0]) (coll1 5 0 0) = none
    ∧ (judgeColl (serving1 1 [coll1 0 0 0]) (coll1 0 0 0)).map (·.1) = some 7
    ∧ judgeColl (serving1 1 [coll1 5 0 0]) (coll1 5 0 0) = none
    ∧ (coll1 5 0 0).wrote = false ∧ (coll1 5 0 0).op = 0 ∧ 2 ≤ (coll1 0 2 0).op
    ∧ (readRows (serving1 1 []) (coll1 5 0 0).agent (coll1 5 0 0).first.da).all (fun x => !x.2) = true
    ∧ (∃ x ∈ readRows { serving1 1 [] with mp := [0x46000 / 64] } (coll1 5 0 0).agent (coll1 5 0 0).first.da, x.2 = true)
    ∧ (let c := started1 5 0 snan; let s := serving1 3 [c];
      CollIn s c ∧ c.started = true ∧ c.fail = none ∧ c.wrote = false ∧ (collFun s c).isSome = true ∧ c.op ≤ 1 ∧ 2 ∈ (List.range 13).map (2 ^ ·)
      ∧ (0 % 2 = 0 ∧ 0 < c.pos.length ∧ 2 < 2 * c.pos.length ∧ (nodeAt s c 0 1).isSome = true ∧ 0 + 1 < c.pos.length ∧ (nodeAt s c 1 1).isSome = true)
      ∧ (2 % 2 = 0 ∧ 2 < c.pos.length ∧ (nodeAt s c 2 1).isSome = true ∧ c.pos.length ≤ 2 + 1))
    ∧ (let c := collTrap snan; let s := trapState c;
      (match collFun s c, nodeAt s c 0 1, nodeAt s c 1 1 with
        | some f, some l1, some l2 => (match ((elemsOf f.width l1).zip (elemsOf f.width l2)).mapM (fun x => (f.comb x.1 x.2).map (·.1)) with
          | .ok _ => false | .error _ => true)
        | _, _, _ => false) = true)
    ∧ (let c := collTrap [(0, false), (0, false), (0, false), (0, false)]; let s := trapState c;
      (match collFun s c, nodeAt s c 0 1, nodeAt s c 1 1 with
        | some f, some l1, some l2 => (match ((elemsOf f.width l1).zip (elemsOf f.width l2)).mapM (fun x => (f.comb x.1 x.2).map (·.1)) with
          | .ok _ => true | .error _ => false)
        | _, _, _ => false) = true) := by
  unfold CollIn
  and_intros <;> decide +kernel

theorem witness_CollectiveEnds : (let c := { coll1 0 3 0 with started := true, pos := [0], chips := [0], teams := [0], raw := snan }; let s := serving1 1 [c];
      CollIn s c ∧ collResult s c = some snan ∧ rangesFault s c.agent false .write (tileRanges c.first.dd) = none
      ∧ rangeHeld s c.agent false (tileRanges c.first.dd) = false)
    ∧ (let c := { coll1 0 3 0 with started := true, pos := [0], chips := [0], teams := [0], raw := snan, arr := [{ arrival1 0 3 0 with dd := desc 0x200000 1 1 4 0 0 0 0 0 }] };
      let s := serving1 1 [c];
      collResult s c = some snan ∧ (rangesFault s c.agent false .write (tileRanges c.first.dd)).isSome = true)
    ∧ (let c := { coll1 0 3 0 with started := true, wrote := true, wct := 30 }; let s := serving1 1 [c];
      CollIn s c ∧ c.wct + 20 < s.time ∧ s.findWarp 1 = some s.w ∧ s.w.ops.filter (fun q => q.id == 5) = [load1] ∧ c.first.obj.toNat % 64 = 0
      ∧ rangeFault s c.agent false .atomic c.first.obj.toNat 64 = none ∧ (∀ x ∈ s.ctx :: s.ctxs, x.watch = []) ∧ s.snaps = []
      ∧ ctxPA s (c.agent.ctx s) c.first.obj.toNat = some 0x49000 ∧ (memNat s.mem 0x49008 8 + 2 ^ 64 - 1) % 2 ^ 64 ≠ 0
      ∧ (memNat (withM [(0x49008, 8, 1)] s).mem 0x49008 8 + 2 ^ 64 - 1) % 2 ^ 64 = 0)
    ∧ ctlTmo (coll1 5 0 0).ctl ≠ 0 ∧ (serving1 1 [coll1 5 0 0]).time < (coll1 5 0 0).handed + ctlTmo (coll1 5 0 0).ctl * 10 ^ 6
    ∧ (coll1 5 0 0).handed + ctlTmo (coll1 5 0 0).ctl * 10 ^ 6 ≤ ({ serving1 1 [coll1 5 0 0] with time := 10 ^ 6 } : State).time
    ∧ (let s := serving1 1 [coll1 5 0 0, peer1 none]; ∃ x ∈ peersOf s (coll1 5 0 0), CollIn s x ∧ x.done = false ∧ x.wrote = false ∧ x.fail = none)
    ∧ ({ started1 1 0 [] with sw := true } : Coll).sw = true := by
  unfold CollIn
  and_intros <;> decide +kernel

/-- Objects at 0x9000 (GEN 5, PENDING 1) and at 0x9040 (GEN 0, PENDING 2); s4 points at one of them, s5 is 3. -/
def objects (va : W64) : State := withM [(0x49008, 8, 1), (0x49048, 8, 2)] (withS [(4, va), (5, 3)] chained)

theorem witness_CollectivesAndBarriers : chained.w.dawn = false ∧ (3#6).toNat ≤ 62 ∧ chained.w.count .cl < 30
    ∧ (stacked [] [{ num := 1, active := 1 }]).w.splits.length ≠ 1 ∧ UserNoHandler chained ∧ chained.w.upcall = none ∧ chained.w.splits.length = 1
    ∧ speculative.team.spec = true ∧ chained.team.spec = false ∧ Fenced chained 4
    ∧ chained.team.collNo = chained.w.collNo ∧ chained.w.team = chained.team.uid ∧ chained.ws = []
    ∧ (0#9).toNat = 0 ∧ 256 < (257#9).toNat ∧ 1 ≤ (256#9).toNat ∧ (256#9).toNat ≤ 256 ∧ chained.ctx.watch = [] ∧ chained.snaps = []
    ∧ ObjectAt (objects 0x9000) .write 0x9000 0x49000 ∧ ObjectAt (objects 0x9000) .atomic 0x9000 0x49000 ∧ memNat (objects 0x9000).mem 0x49008 8 = 1
    ∧ ObjectAt (objects 0x9040) .atomic 0x9040 0x49040 ∧ memNat (objects 0x9040).mem 0x49048 8 ≠ 1
    ∧ ObjectAt (objects 0x9000) .read 0x9000 0x49000 ∧ 3 < memNat (objects 0x9000).mem 0x49000 8
    ∧ ObjectAt (objects 0x9040) .read 0x9040 0x49040 ∧ memNat (objects 0x9040).mem 0x49040 8 ≤ 3
    ∧ Reach1 { objects 0x9000 with mp := [0x49000 / 64] } .read 64 0x9000 leaf0 0x49000
    ∧ loadMayRun { objects 0x9000 with mp := [0x49000 / 64] } 1 10 [(0, 0x49000, 64)] = true ∧ granPoisoned [0x49000 / 64] 0x49000 64 = true := by
  unfold UserNoHandler CanTrap Fenced ObjectAt Reach1
  and_intros
  all_goals first
    | exact ⟨leaf0, by decide +kernel⟩
    | decide +kernel
end

/-! ## Ablas and the device -/

section
set_option Elab.async false

/-- mapped with a boot state and the given partitions, the team in the context, and a command in the ring. -/
def admin (boot sec : Nat) (ps : List Part) : State := { mapped with
  parts := ps, team := { mapped.team with asid := 1 }, dev := { boot := boot, sec := sec, admTail := 1 } }
def quarter0 : Part := { range := { quarter := 0, count := 1 } }
def quarter1 : Part := { range := { quarter := 1, count := 1 } }
def half1 : Part := { range := { quarter := 2, count := 2 } }
def spec0 : PartSpec := { quarter := 0, count := 1, split := 768, service := some 0, delay := 0 }
def chainSpec1 : ChainSpec := { engine := 0, segs := [0x4000], annex := 0x8000, cwAddr := 0x9000 }
def ctxSpec1 : CtxSpec := { part := 0, tenant := 1, asid := 7, root := 0x100000, table := 0, chain := chainSpec1, htBase := 0, htSize := 4, gdBase := 0, savePool := [0x10000], ktvec := 0x2000, groups := [], rate := 64 }

/-- Bytes written at home without snapshots, by no watched writer, change memory, its poison and the warps. -/
theorem homeWrite_rest (ps : List Piece) (s : State) (h : s.snaps = []) : ∃ w ws,
    (homeWrite ps {} s).1 = { s with mem := putPieces s.mem ps, mp := putPoison s.mp ps, w := w, ws := ws } := by
  have hw : ∀ (l : List Nat) (t : State), ∃ w ws, l.foldl (fun s x => wakeMonitors x s) t = { t with w := w, ws := ws } := by
    intro l
    induction l with
    | nil => exact fun t => ⟨_, _, rfl⟩
    | cons x l ih =>
      intro t
      obtain ⟨w, ws, e⟩ := ih (wakeMonitors x t)
      exact ⟨w, ws, e⟩
  have hn : ∀ (l : List Piece) (t : State), l.foldl (fun s p => noteWatch p.1 p.2.1.length {} s) t = t := by
    intro l
    induction l with
    | nil => exact fun t => rfl
    | cons x l ih => exact fun t => ih t
  have ho : saveOld (fun g => ps.any (fun p => p.1 / 4096 == g)) s = (s, false) := by
    unfold saveOld
    cases s
    cases h
    rfl
  unfold homeWrite
  dsimp only
  rw [ho, hn]
  exact hw _ _
/-- Frames are left in a tier of which fewer are out. -/
theorem freeFrame_room {s : State} {r : PartRange} (h : s.dev.used.length < tierFrames r 0) : (freeFrame s r 0).isSome = true := by
  unfold freeFrame
  rw [min_eq_left (by omega), List.find?_isSome]
  by_contra hc
  push Not at hc
  have hs : (List.range (s.dev.used.length + 1)).map (· + tierBase r 0) ⊆ s.dev.used := fun x hx => by simpa using hc x hx
  have hn : ((List.range (s.dev.used.length + 1)).map (· + tierBase r 0)).Nodup :=
    List.nodup_range.map (fun a b => by simp)
  have := (hn.subperm hs).length_le
  simp at this
/-- A frame given out is one more at most. -/
theorem setIns_room (k : Nat) (l : List Nat) : (setIns k l).length ≤ l.length + 1 := by
  induction l with
  | nil => simp [setIns]
  | cons x l ih =>
    unfold setIns
    split
    · simp
    · split <;> simp only [List.length_cons] at * <;> omega
/-- A state with at most n more frames out and the same partitions and snapshots. -/
def Room (n : Nat) (s t : State) : Prop := t.parts = s.parts ∧ t.snaps = s.snaps ∧ t.dev.used.length ≤ s.dev.used.length + n
theorem Room.trans {s t u : State} {m n : Nat} (a : Room m s t) (b : Room n t u) : Room (m + n) s u :=
  ⟨b.1.trans a.1, b.2.1.trans a.2.1, by have := a.2.2; have := b.2.2; omega⟩
theorem putHome_room (pa : Nat) (bs : List Byte) (s : State) : Room 0 s (putHome pa bs s) := by
  obtain ⟨w, ws, e⟩ := putHome_rest pa bs s
  rw [e]
  exact ⟨rfl, rfl, Nat.le_refl _⟩
theorem giveFrame_room (f : Nat) (s : State) : Room 1 s (giveFrame f s) :=
  ⟨rfl, rfl, (setIns_room f _).trans (Nat.succ_le_succ (List.length_filter_le _ _))⟩
theorem needTable_room {s : State} {r : PartRange} (e : Nat) (h : s.dev.used.length < tierFrames r 0) : ∃ x, needTable s r e = some x ∧ Room 1 s x.2 := by
  unfold needTable
  split
  · exact ⟨_, rfl, rfl, rfl, Nat.le_succ _⟩
  · obtain ⟨f, hf⟩ := Option.isSome_iff_exists.1 (freeFrame_room h)
    rw [hf]
    exact ⟨_, rfl, (giveFrame_room f s).trans (putHome_room _ _ _)⟩
/-- A page is made where three frames are left. -/
theorem ownPage_room {s : State} {c : Ctx} (u : Bool) (va : Nat) (h : s.dev.used.length + 2 < tierFrames (rangeOf s.parts c) 0) :
    ∃ t, ownPage c u s va = some t ∧ Room 3 s t := by
  unfold ownPage
  split
  · exact ⟨s, rfl, rfl, rfl, by omega⟩
  · obtain ⟨x, hx, rx⟩ := needTable_room (s := s) (r := rangeOf s.parts c) (c.root + bits va 56 44 * 8) (by omega)
    have := rx.2.2
    obtain ⟨y, hy, ry⟩ := needTable_room (s := x.2) (r := rangeOf s.parts c) (x.1 + bits va 43 31 * 8) (by omega)
    have := ry.2.2
    unfold needLeaf
    dsimp only
    rw [hx, Option.bind_some, hy, Option.map_some, Option.bind_some]
    dsimp only
    obtain ⟨f, hf⟩ := Option.isSome_iff_exists.1 (freeFrame_room (s := y.2) (r := rangeOf s.parts c) (by omega))
    rw [show rangeOf y.2.parts c = rangeOf s.parts c by rw [ry.1, rx.1], hf]
    exact ⟨_, rfl, (rx.trans ry).trans ((giveFrame_room f y.2).trans (putHome_room _ _ _))⟩
theorem ownPages_room {c : Ctx} (u : Bool) (l : List Nat) : ∀ {s : State}, s.dev.used.length + 3 * l.length < tierFrames (rangeOf s.parts c) 0 →
    ∃ t, l.foldlM (ownPage c u) s = some t ∧ Room (3 * l.length) s t := by
  induction l with
  | nil => exact fun {s} _ => ⟨s, rfl, rfl, rfl, Nat.le_refl _⟩
  | cons v l ih =>
    intro s h
    rw [List.length_cons] at h
    obtain ⟨a, ha, ra⟩ := ownPage_room (s := s) (c := c) u v (by omega)
    have := ra.2.2
    obtain ⟨t, ht, rt⟩ := ih (s := a) (by rw [ra.1]; omega)
    refine ⟨t, by rw [List.foldlM_cons, ha]; exact ht, ?_⟩
    rw [List.length_cons, show 3 * (l.length + 1) = 3 + 3 * l.length by omega]
    exact ra.trans rt
theorem quarter_frames (c : Ctx) : 2 ^ 19 ≤ tierFrames (rangeOf [quarter0] c) 0 := by
  unfold rangeOf
  rw [List.find?_cons]
  cases quarter0.range.quarter == c.part
  · show 2 ^ 19 ≤ tierFrames {} 0
    decide
  · show 2 ^ 19 ≤ tierFrames quarter0.range 0
    decide
/-- The table of ctxSpec1's context and its chain have their pages. -/
theorem ctx_made : (withTable ctxSpec1 (admin 2 0 [quarter0])).bind (bindChain ctxSpec1.asid 0 ctxSpec1.chain none) ≠ none := by
  have hu : (withCtx ctxSpec1 (admin 2 0 [quarter0])).dev.used.length ≤ 2 := by decide +kernel
  have hp : (withCtx ctxSpec1 (admin 2 0 [quarter0])).parts = [quarter0] := rfl
  obtain ⟨t, ht, rt⟩ := ownPages_room (c := newCtx ctxSpec1 (admin 2 0 [quarter0])) false (rangePages 0 4096)
    (s := withCtx ctxSpec1 (admin 2 0 [quarter0]))
    (Nat.lt_of_lt_of_le (show _ < 2 ^ 19 by simp [rangePages]; omega) (hp ▸ quarter_frames _))
  have l0 : (rangePages 0 4096).length = 1 := by decide
  have hd := rt.2.2
  rw [l0] at hd
  obtain ⟨x, h1, hxp, hxu⟩ : ∃ x, withTable ctxSpec1 (admin 2 0 [quarter0]) = some x ∧ x.parts = [quarter0] ∧ x.dev.used.length ≤ 5 := by
    obtain ⟨w, ws, e⟩ := homeWrite_rest (ownPieces t (newCtx ctxSpec1 (admin 2 0 [quarter0])) 0 freshEntries) t (rt.2.1.trans rfl)
    refine ⟨(homeWrite (ownPieces t (newCtx ctxSpec1 (admin 2 0 [quarter0])) 0 freshEntries) {} t).1, ?_, ?_, ?_⟩
    · unfold withTable tablePages
      rw [show (newCtx ctxSpec1 (admin 2 0 [quarter0])).ctBase = 0 from rfl, ht]
      rfl
    · rw [e]
      exact rt.1.trans hp
    · rw [e]
      show t.dev.used.length ≤ 5
      omega
  rw [h1, Option.bind_some]
  unfold bindChain
  dsimp only
  split
  · simp
  · rename_i c _
    have key : (chainPages c ctxSpec1.chain x).isSome = true := by
      have l1 : (rangePages c.ctBase 4096).length ≤ 4096 := by
        unfold rangePages
        simp only [Nat.reduceEqDiff, if_false, List.length_map, List.length_range]
        omega
      obtain ⟨y, hy, ry⟩ := ownPages_room (c := c) false (rangePages c.ctBase 4096) (s := x)
        (Nat.lt_of_lt_of_le (show _ < 2 ^ 19 by omega) (hxp ▸ quarter_frames c))
      have := ry.2.2
      have l2 : (ctxSpec1.chain.segs.flatMap (fun a => rangePages a 4096) ++ rangePages ctxSpec1.chain.annex (63 * 128 * ctxSpec1.chain.segs.length)
        ++ rangePages ctxSpec1.chain.cwAddr 8).length = 3 := by decide
      obtain ⟨z, hz, _⟩ := ownPages_room (c := c) true (ctxSpec1.chain.segs.flatMap (fun a => rangePages a 4096)
        ++ rangePages ctxSpec1.chain.annex (63 * 128 * ctxSpec1.chain.segs.length) ++ rangePages ctxSpec1.chain.cwAddr 8) (s := y)
        (Nat.lt_of_lt_of_le (show _ < 2 ^ 19 by rw [l2]; omega) (by rw [ry.1, hxp]; exact quarter_frames c))
      unfold chainPages tablePages
      rw [hy, Option.bind_some, hz]
      rfl
    rw [Ne, Option.map_eq_none_iff]
    intro hn
    rw [hn] at key
    exact absurd key (by decide)

theorem witness_AblasCommands : AblasReady (admin 2 0 []) ∧ ¬ AblasReady mapped ∧ (admin 2 0 []).dev.boot = 2 ∧ (admin 1 0 []).dev.boot = 1 ∧ (admin 3 0 []).dev.boot = 3
    ∧ ([1] : List Byte) ≠ [] ∧ (admin 1 1 []).dev.sec ≠ 0 ∧ (admin 1 1 []).dev.sec ≤ 2
    ∧ addParts [] [{ spec0 with count := 3 }] = none ∧ addParts [] [spec0] = some [{ quarter0 with service := 0, delay := 0 }]
    ∧ partSpecOk { spec0 with split := 1 } = false ∧ partSpecOk spec0 = true
    ∧ (∃ x ∈ (admin 2 0 [quarter0]).parts, ∃ q, (x.range.quarter ≤ q ∧ q < x.range.quarter + x.range.count) ∧ spec0.quarter ≤ q ∧ q < spec0.quarter + spec0.count)
    ∧ (admin 2 0 []).parts = [] ∧ mergeable (admin 2 0 [quarter0, quarter1]) 0 1 = true ∧ mergeable (admin 2 0 [quarter0, half1]) 0 2 = false
    ∧ (admin 2 0 [quarter0, half1]).partOf 1 = none ∧ (admin 2 0 [quarter0, half1]).partOf 2 = some half1 ∧ (∀ c ∈ (admin 2 0 [quarter0, half1]).liveCtxs, c.part ≠ 2)
    ∧ 2 ≤ half1.range.count ∧ (admin 2 0 [quarter0, half1]).partOf 0 = some quarter0 ∧ quarter0.range.count < 2
    ∧ (admin 2 0 [quarter0]).findCtx 7 = none ∧ (admin 2 0 [quarter0]).findCtx 1 = some mapped.ctx ∧ ctxSpec1.root % 2 ^ 16 = 0 ∧ ctxSpec1.root < 2 ^ 39 ∧ rootTaken (admin 2 0 [quarter0]) ctxSpec1.root = false
    ∧ ctxSpec1.table % 64 = 0 ∧ ctxSpec1.table + 4096 ≤ 2 ^ 57 ∧ (withTable ctxSpec1 (admin 2 0 [quarter0])).bind (bindChain ctxSpec1.asid 0 ctxSpec1.chain none) ≠ none
    ∧ (admin 2 0 [quarter0]).partOf ctxSpec1.part = some quarter0
    ∧ chainSpecOk quarter0 ctxSpec1.chain = true ∧ chainSpecOk quarter0 { chainSpec1 with engine := 24 } = false ∧ ctxSpec1.tenant < 2 ^ 12 ∧ ctxSpec1.htSize ≤ 2 ^ 20
    ∧ (∀ a ∈ ctxSpec1.savePool, a % 2 ^ 16 = 0)
    ∧ ((admin 2 0 []).ctx :: (admin 2 0 []).ctxs).filter (fun c => c.live && c.asid == 1) = [mapped.ctx] ∧ ((admin 2 0 []).allTeams.map (·.uid)).Nodup := by
  unfold AblasReady
  and_intros
  all_goals first
    | with_reducible exact ctx_made
    | decide +kernel
    | exact ⟨quarter0, by decide +kernel, 0, by decide +kernel⟩

/-- A MAP of a user page, with permissions from L on. -/
def mapSpec1 (perm : BitVec 4) (pool : Bool) : MapSpec := { tier := 0, size := 0, lc := 0, perm := perm, pool := pool }
/-- A partition with no frame left. -/
def emptyPart : Part := { range := { quarter := 0, count := 0 } }
/-- admin with page 0's leaf and that of page 1. -/
def leaves (l0 l1 : Nat) : State := withM [(0x30000, 8, l0), (0x30008, 8, l1)] (admin 2 0 [quarter0])

theorem witness_AblasPages : AblasReady (leaves 0x10101F 0) ∧ (leaves 0x10101F 0).dev.boot = 2 ∧ (leaves 0x10101F 0).findCtx 5 = none
    ∧ (leaves 0x10101F 0).findCtx 1 = some (leaves 0x10101F 0).ctx
    ∧ freeFrame (admin 2 0 [emptyPart]) (rangeOf [emptyPart] mapped.ctx) 0 = none ∧ (freeFrame (leaves 0x10101F 0) (rangeOf [quarter0] mapped.ctx) 0).isSome = true
    ∧ (mapSpec1 15 false).lc ≤ 2 ∧ 0x40000 < 2 ^ 57 ∧ 0x40000 % 2 ^ 18 = 0
    ∧ (match ctxWalk (leaves 0x10101F 0) mapped.ctx 0x40000 with | .fail _ _ => true | .leaf _ => false) = true
    ∧ leafAddr (leaves 0x10101F 0) mapped.ctx 0x40000 = some 0x30008
    ∧ (freeRun (leaves 0x10101F 0) (rangeOf [quarter0] mapped.ctx) 0 1).isSome = true ∧ freeRun (admin 2 0 [emptyPart]) (rangeOf [emptyPart] mapped.ctx) 0 1 = none
    ∧ ctxWalk (leaves 0x10101F 0) mapped.ctx 0 = .leaf leaf0 ∧ leafAddr (leaves 0x10101F 0) mapped.ctx 0 = some 0x30000 ∧ leafSZ leaf0 = 0 ∧ leafM leaf0 = false
    ∧ leafTier leaf0 = false ∧ leafSC leaf0 < 2
    ∧ narrows leaf0 (mapLeaf (mapSpec1 15 false) 1 1) = false ∧ narrows leaf0 (mapLeaf (mapSpec1 1 false) 1 1) = true
    ∧ (let l : W64 := 0x10201F; ctxWalk (leaves 0x10201F 0) mapped.ctx 0 = .leaf l ∧ 2 ≤ leafSC l ∧ leafWrite (mapLeaf (mapSpec1 15 false) 1 2) = true
      ∧ leafWrite (mapLeaf (mapSpec1 1 false) 1 2) = false)
    ∧ (let l : W64 := 0x10181F; ctxWalk (leaves 0x10181F 0) mapped.ctx 0 = .leaf l ∧ leafM l = true) := by
  unfold AblasReady
  and_intros <;> decide +kernel

theorem witness_AblasUpkeep : (leaves 0x10101F 0).partOf (leaves 0x10101F 0).ctx.part = some quarter0 ∧ (chainPages (leaves 0x10101F 0).ctx chainSpec1 (leaves 0x10101F 0)).isSome = true ∧ 159 < 160 ∧ (leaves 0x10101F 0).dev.hostqs = []
    ∧ ((leaves 0x10101F 0).queue 0 31).packets = [] ∧ 0x4000 % 128 = 0 ∧ (0x4008 : Nat) % 128 ≠ 0
    ∧ (∀ ch, (leaves 0x10101F 0).ctx.chain 3 = some ch → ch.recs = [])
    ∧ (((orrery 0 [walk1 {}]).getCore 0).walks.map (·.slot)).Nodup
    ∧ (admin 2 0 []).dev.held = [] ∧ (admin 2 0 []).dev.pwr ≠ 3 ∧ residentTeams (admin 2 0 []) 0 ≠ []
    ∧ (∃ m ∈ (admin 2 0 []).allTeams, m.saved = none ∧ m.core = 0 ∧ m.retired = false)
    ∧ needsToken 0 2 = false ∧ needsToken 1 2 = true ∧ (admin 2 1 []).dev.nonce ≠ some 5 ∧ (admin 2 1 []).dbgs < 1 ∧ (admin 2 0 []).dbgs ≤ 1 ∧ ({ (admin 2 0 []).dev with nonce := some 5 } : Device).nonce = some 5 ∧ 1 < ({ admin 2 0 [] with dbgs := 2 } : State).dbgs
    ∧ needsToken 2 1 = true ∧ needsToken 1 1 = false
    ∧ ¬ ((admin 2 1 []).dbgs < 0)
    ∧ (leaves 0x10101F 0).partOf 2 = none ∧ (leaves 0x10101F 0).partOf 0 = some quarter0
    ∧ dedupCandidate (leaves 0x10101F 0) 1 = false ∧ dedupCandidate (leaves 0x10101B 0x20101B) 1 = true ∧ dedupCandidate (leaves 0x10101B 0x20101B) 2 = true
    ∧ frameCells (leaves 0x10101B 0x20101B) 1 = frameCells (leaves 0x10101B 0x20101B) 2
    ∧ frameSC (leaves 0x10101B 0x20101B) 1 + frameSC (leaves 0x10101B 0x20101B) 2 ≤ 254
    ∧ frameCells (withM [(0x40000, 1, 9)] (leaves 0x10101B 0x20101B)) 1 ≠ frameCells (withM [(0x40000, 1, 9)] (leaves 0x10101B 0x20101B)) 2 := by
  and_intros <;> decide +kernel

/-- The frames of a partition are all given out. -/
theorem freeFrame_none {s : State} {r : PartRange} {tier : Nat}
    (h : ∀ i, i < tierFrames r tier → s.dev.used.contains (i + tierBase r tier) = true) : freeFrame s r tier = none := by
  unfold freeFrame
  simp only [List.find?_eq_none, List.mem_map, List.mem_range]
  rintro x ⟨i, hi, rfl⟩
  simpa using h i (by omega)

/-- quarter 0 has given out every frame of its HBM. -/
def full1 : State := let s := admin 2 0 [quarter0]; { s with ctx := { s.ctx with ctBase := 2 ^ 44 }, dev := { s.dev with used := 0 :: (List.range (2 ^ 19)).map (· + 1) } }
theorem full1_none {s : State} (h : s.dev.used = 0 :: (List.range (2 ^ 19)).map (· + 1)) : freeFrame s { quarter := 0, count := 1 } 0 = none := by
  refine freeFrame_none fun i hi => ?_
  have h1 : tierFrames { quarter := 0, count := 1 } 0 = 2 ^ 19 := by decide
  have h2 : tierBase { quarter := 0, count := 1 } 0 = 0 := by decide
  rw [h1] at hi
  rw [h2, List.contains_iff_mem, h]
  rcases i with _ | i
  · exact List.mem_cons_self
  · exact List.mem_cons_of_mem _ (List.mem_map.2 ⟨i, List.mem_range.2 (by omega), rfl⟩)
/-- A chain far from every table, and a context with its root in frame 0. -/
def farChain : ChainSpec := { chainSpec1 with segs := [2 ^ 44] }
def ctxSpec2 : CtxSpec := { ctxSpec1 with root := 0, chain := farChain }
theorem full1_ctx : (withCtx ctxSpec2 full1).dev.used = 0 :: (List.range (2 ^ 19)).map (· + 1) := rfl
/-- No frame for the page of the chain table. -/
theorem no_table (c : Ctx) (s : State) (p : Nat) (hp : rangePages c.ctBase 4096 = [p]) (hs : rangeOf s.parts c = { quarter := 0, count := 1 })
    (hf : freeFrame s { quarter := 0, count := 1 } 0 = none)
    (hw : (match ctxWalk s c p with | .fail _ _ => true | .leaf _ => false) = true) (he : bit (memNat s.mem (c.root + bits p 56 44 * 8) 8) 0 = false) :
    tablePages c s = none := by
  have h : ownPage c false s p = none := by
    have hn : needLeaf s c p = none := by
      unfold needLeaf needTable
      simp only [hs, hf, he]
      rfl
    unfold ownPage
    rw [hn]
    split at hw
    · simp_all
    · cases hw
  unfold tablePages
  rw [hp]
  simp [h]

theorem witness_NoFrames : AblasReady full1 ∧ full1.dev.boot = 2 ∧ full1.partOf 0 = some quarter0 ∧ full1.findCtx ctxSpec2.asid = none
    ∧ rootTaken full1 ctxSpec2.root = false ∧ chainSpecOk quarter0 ctxSpec2.chain = true ∧ full1.findCtx 1 = some full1.ctx
    ∧ (∀ ch, full1.ctx.chain 3 = some ch → ch.recs = [])
    ∧ (withTable ctxSpec2 full1).bind (bindChain ctxSpec2.asid 0 ctxSpec2.chain none) = none ∧ chainPages full1.ctx farChain full1 = none := by
  refine ⟨by unfold AblasReady; decide +kernel, by decide +kernel, by decide +kernel, by decide +kernel, by decide +kernel, by decide +kernel,
    by decide +kernel, by decide +kernel, ?_, ?_⟩
  · unfold withTable
    rw [no_table _ _ _ rfl (by decide +kernel) (full1_none full1_ctx) (by decide +kernel) (by decide +kernel)]
    rfl
  · unfold chainPages
    rw [no_table _ _ _ rfl (by decide +kernel) (full1_none rfl) (by decide +kernel) (by decide +kernel)]
    rfl

theorem leaves_mem : (leaves 0x10101B 0x20101B).mem = [(0x10000, 1), (0x10002, 2), (0x20000, 1), (0x20002, 3), (0x30000, 0x1B), (0x30001, 0x10), (0x30002, 0x10),
    (0x30008, 0x1B), (0x30009, 0x10), (0x3000A, 0x20)] := by decide +kernel
/-- Two frames with the same cells have the same bytes. -/
theorem witness_DedupScan : (mappedFrames (leaves 0x10101B 0x20101B) 0).filter (dedupCandidate (leaves 0x10101B 0x20101B)) = [1, 2]
    ∧ frameBytes (leaves 0x10101B 0x20101B) 1 = frameBytes (leaves 0x10101B 0x20101B) 2 := by
  constructor
  · have h : mappedFrames (leaves 0x10101B 0x20101B) 0 = List.mergeSort [1, 2] (· ≤ ·) := by
      unfold mappedFrames
      congr 1
    rw [h, List.mergeSort_of_pairwise (by decide)]
    decide +kernel
  · have far : ∀ a, 2 ^ 18 ≤ a → memRead (leaves 0x10101B 0x20101B).mem a = 0 := by
      intro a h
      rw [leaves_mem]
      unfold memRead
      repeat rw [tabGet, if_neg (by omega)]
      rfl
    unfold frameBytes
    refine List.map_congr_left fun i _ => ?_
    rw [far _ (by omega), far _ (by omega)]

/-- Two frames of different tiers. -/
theorem witness_DedupTiers : (mappedFrames (leaves 0x10101B 0x40000000103B) 0).filter (dedupCandidate (leaves 0x10101B 0x40000000103B)) = [1, 2 ^ 26]
    ∧ frameTier 1 ≠ frameTier (2 ^ 26) := by
  refine ⟨?_, by decide⟩
  have h : mappedFrames (leaves 0x10101B 0x40000000103B) 0 = List.mergeSort [1, 2 ^ 26] (· ≤ ·) := by
    unfold mappedFrames
    congr 1
  rw [h, List.mergeSort_of_pairwise (by decide)]
  decide +kernel

/-- The same warp with a WATCH event due, its split at 0x1000. -/
def watched : State := { mapped with w := { mapped.w with watchEvents := [{ code := 0x10, taddr := 0x80 }] } }
/-- admin with host queues 0 (chain 0) and 1 (launch queue 4), and a power state. -/
def hosted (pwr : Nat) : State := let s := admin 2 0 [quarter0]; { s with
  ctx := { s.ctx with chains := [(0, chain1)] }
  queues := [{ part := 0, num := 4, asid := 1, ring := 0x5000, size := 8 }]
  dev := { s.dev with pwr := pwr, hostqs := [{ num := 0, asid := 1, part := 0, launch := false, slot := 0, hcw := 0, vec := 0 }, { num := 1, asid := 1, part := 0, launch := true, slot := 4, hcw := 0, vec := 0 }] } }
/-- A merge of quarters 0 and 1 under way; contexts of quarter 0 have a live team, or none. -/
def merging1 (live : Bool) : State := let s := admin 2 0 [quarter0, quarter1]; { s with
  team := { s.team with retired := !live }, dev := { s.dev with merge := some { tag := 3, p1 := 0, p2 := 1, deadline := 100 } } }
/-- The split stopped by the debugger. -/
def stopped1 : State := let s := admin 2 0 []; { s with dbgs := 2, w := { s.w with cur := { s.w.cur with stopped := true } } }

theorem witness_DeviceSteps : ((List.range 4).findSome? (fun p => focus 0 0 p watched)).map (fun t => (t.w.watchEvents, t.w.cur.pc, t.ctx.ktvec, t.w.cur.handler, t.w.cur.priv))
      = some ([{ code := 0x10, taddr := 0x80 }], 0x1000, 0x2000, false, false)
    ∧ (hosted 4).dev.pwr = 4 ∧ (hosted 3).dev.pwr = 3 ∧ (hosted 2).dev.pwr ≤ 2 ∧ (∀ h ∈ (hosted 0).dev.hostqs, h.num ≠ 2) ∧ (hosted 0).dev.held = []
    ∧ (∃ d ∈ ({ (hosted 0).dev with held := [(0, 3, [])] } : Device).held, d.1 = 0)
    ∧ ((hosted 0).dev.hostqs.find? (fun h => h.num == 0)).map (·.launch) = some false ∧ (hosted 0).findCtx 1 = some (hosted 0).ctx
    ∧ (hosted 0).ctx.chain 0 = some chain1 ∧ chain1.tail - chain1.head + (3 + 2 ^ 32 - chain1.tail % 2 ^ 32) % 2 ^ 32 < 63 * chain1.nseg
    ∧ 63 * chain1.nseg ≤ chain1.tail - chain1.head + (63 + 2 ^ 32 - chain1.tail % 2 ^ 32) % 2 ^ 32
    ∧ ((hosted 0).dev.hostqs.find? (fun h => h.num == 1)).map (·.launch) = some true ∧ ((hosted 0).queue 0 4).size = 8
    ∧ ((hosted 0).queue 0 4).packets.length + (7 + 8 - ((hosted 0).queue 0 4).tail % 8) % 8 < 8
    ∧ (merging1 true).partOf 0 = some quarter0 ∧ drained (merging1 true) [0, 1] = false ∧ drained (merging1 false) [0, 1] = true ∧ 100 = (merging1 true).time
    ∧ 100 < ({ merging1 false with time := 101 } : State).time ∧ (∀ x ∈ (hosted 0).ctx :: (hosted 0).ctxs, x.watch = []) ∧ (hosted 0).snaps = []
    ∧ ¬ (1000 * (hosted 0).dev.cap < 0 ∨ 64 * 105 < 0) ∧ (1000 * (hosted 0).dev.cap < 0 ∨ 64 * 105 < 6721)
    ∧ (hosted 0).time / 1000 ≤ (hosted 0).ctx.ebudTime ∧ (hosted 0).ctx.ebudTime < ({ hosted 0 with time := 1000 } : State).time / 1000
    ∧ stoppedIn stopped1 1 stopped1.w = true ∧ stoppedIn (hosted 0) 1 (hosted 0).w = false ∧ stopped1.w.cur.active ≠ 0 ∧ stopped1.w.cur.num < 4
    ∧ ctxPA stopped1 stopped1.ctx 0x1000 = some 0x41000 ∧ stopped1.snaps = [] ∧ (∀ x ∈ stopped1.ctx :: stopped1.ctxs, x.watch = [])
    ∧ ({ merging1 true with time := 99 } : State).time < 100 ∧ State.reset.dev.boot = 0 ∧ mapped.dev.boot = 0 ∧ (admin 1 0 []).dev.boot ≠ 0
    ∧ 3 ≤ (hosted 3).dev.pwr ∧ (hosted 2).dev.pwr < 3 ∧ residentTeams (hosted 0) 0 ≠ []
    ∧ ({ hosted 3 with time := 10 ^ 10 } : State).time < 5 + 10 ^ 10 ∧ 5 + 10 ^ 10 ≤ ({ hosted 3 with time := 2 * 10 ^ 10 } : State).time
    ∧ (hosted 0).partOf 0 = some quarter0 ∧ ((hosted 0).liveCtxs.map (·.asid)).Nodup
    ∧ ((hosted 0).liveCtxs.filter (fun c => c.part == 0)).foldl (fun n c => n + (coresOf (hosted 0) c).length) 0 ≠ 0
    ∧ (hosted 0).findCtx 1 = some (hosted 0).ctx ∧ sessionCovers (hosted 0) (hosted 0).ctx = false ∧ sessionCovers stopped1 stopped1.ctx = true
    ∧ stopped1.findCtx 1 = some stopped1.ctx ∧ (∃ m ∈ stopped1.allTeams, m.uid = stopped1.w.team ∧ m.asid = 1) ∧ stopped1.w.cur.stopped = true := by
  and_intros <;> decide +kernel
end

/-! ## Launches, teams, switches -/

section
set_option Elab.async false

/-- Sixteen dwords of a packet at 0x5000 for the image at 0x6000: WARPS w, one team, a completion record at 0x7000. -/
def packet1 (w : Nat) : List (Nat × Nat × Nat) := [(0x45000, 8, 0x6000), (0x45008, 8, w), (0x45010, 8, 1), (0x45038, 8, 0x7000)]
/-- An image of entry 0x100 with one warp and one extended block. -/
def image1 : List (Nat × Nat × Nat) := [(0x46000, 8, 0x100 + 2 ^ 43), (0x46008, 8, 2 ^ 32)]
/-- admin with launch queue 4 holding the packet of an address. -/
def launching (w a : Nat) : State := let s := withM (packet1 w ++ image1) (admin 2 0 [quarter0]); { s with
  queues := [{ part := 0, num := 4, asid := 1, size := 8, packets := [{ asid := 1, addr := BitVec.ofNat 64 a }] }] }
def agent1 : Agent := { asid := 1 }

theorem witness_PacketsJudged : (hosted 0).queue 0 5 = { part := 0, num := 5 } ∧ (hosted 0).partOf 3 = none
    ∧ ((launching 1 0x5000).queue 0 4).packets = [{ asid := 1, addr := 0x5000 }] ∧ (launching 1 0x5000).partOf 0 = some quarter0
    ∧ (0x5001 : W64).toNat % 2 ^ 7 ≠ 0 ∧ readDws (launching 1 0x5000) agent1 0x200000 16 = none
    ∧ ((launching 1 0x5000).queue 0 4).above = [] ∧ ((launching 1 0x5000).queue 0 4).done + 1 = ((launching 1 0x5000).queue 0 4).nextSeq
    ∧ (0x5000 : W64).toNat % 2 ^ 7 = 0 := by
  and_intros <;> decide +kernel
/-- The packet as read, accepted. -/
theorem witness_PacketsAccepted : (match readDws (launching 1 0x5000) agent1 0x5000 16 with
    | some d => d.length == 16 && bits (dwAt d 1) 19 18 == 0
      && (match judgePacket (bindPacket 1 d (launching 1 0x5000)) agent1 quarter0 ((launching 1 0x5000).queue 0 4) { asid := 1, addr := 0x5000 } d with
      | .ok _ => true | .error _ => false)
    | none => false) = true := by decide +kernel
/-- The same packet for chips 0 and 5, as chip 5 replicates it here; one that names no chips of the launch is rejected. -/
def replica1 (chips : List Nat) : Replica :=
  { chip := 5, seq := 2, asid := 1, priv := false, dws := [0x6000, 1 + 2 ^ 19, 1, 0, 0, 0, 0x8000, 0x7000, 0, 0, 0, 0, 0, 0, 0, 0], chips := chips }
def judgeReplica (r : Replica) : Except Nat Launch :=
  judgePacket (launching 1 0x5000) { asid := r.asid, priv := r.priv } quarter0 { part := 0, num := 32 + r.chip, nextSeq := r.seq }
    { asid := r.asid, addr := 0, priv := r.priv } r.dws (some r.chips)
theorem witness_PacketsReplicated : (match judgeReplica (replica1 [0, 5]) with | .ok _ => true | .error _ => false) = true
    ∧ (match judgeReplica (replica1 [5]) with | .ok _ => false | .error _ => true) = true := by
  constructor <;> decide +kernel

/-- A launch of n teams of one warp on ANY core, or with a map. -/
def launch1 (n placed : Nat) (places : List (Option Nat)) : Launch :=
  { id := 2, part := 0, queue := 4, seq := 2, asid := 1, accepted := 0, kimg := 0x6000, entry := 0x100, regs := 1, dictn := 0, dict := 0, dawn := 0, scratch := 0
    warps := 1, csize := 1, prio := 1, nteams := n, deps := [], crec := 0x7000, cookie := 0, args := 9, places := places, group := 0, xmode := 0
    share := List.range n, placed := placed }
def placing (l : Launch) : State := { admin 2 0 [quarter0] with launches := [l] }

theorem witness_TeamsPlaced : (admin 2 0 [quarter0]).findLaunch 2 = none ∧ (placing (launch1 1 0 [])).findLaunch 2 = some (launch1 1 0 [])
    ∧ (placing (launch1 1 0 [])).partOf 0 = some quarter0 ∧ canPlace (placing (launch1 1 0 [])) (launch1 1 0 []) = some [1] ∧ (launch1 1 0 []).nextTeams = [0]
    ∧ canPlace (placing (launch1 1 0 [some 3])) (launch1 1 0 [some 3]) = some [3]
    ∧ canPlace (placing (launch1 1 1 [])) (launch1 1 1 []) = none
    ∧ servedNow (placing (launch1 1 0 [some 3])) (launch1 1 0 [some 3]) = true ∧ (placing (launch1 1 0 [])).dev.pwr < 2
    ∧ (∀ v ∈ (placing (launch1 1 0 [])).allWarps, v.team < (placing (launch1 1 0 [])).nextId)
    ∧ (∀ m ∈ (placing (launch1 1 0 [])).allTeams, m.uid < (placing (launch1 1 0 [])).nextId)
    ∧ 2 ≤ ({ placing (launch1 1 0 []) with dev := { pwr := 2 } } : State).dev.pwr := by
  and_intros <;> decide +kernel

/-- The user's team with its warp ended, in a launch of one or two teams. -/
def ending (n : Nat) : State := { placing (launch1 n n []) with w := { user.w with ended := true } }

theorem witness_TeamsRetired : (ending 1).findTeam 9 = none ∧ (ending 1).findTeam 1 = some (ending 1).team ∧ (ending 1).team.retired = false
    ∧ mayRetire (placing (launch1 1 1 [])) (placing (launch1 1 1 [])).team = false ∧ (ending 1).team.saved = none
    ∧ (∀ v ∈ (ending 1).allWarps, v.team = 1 → v.dawn = false → v.ended = true ∧ v.ops = [])
    ∧ (ending 1).findLaunch (ending 1).team.launch = some (launch1 1 1 []) ∧ (launch1 1 1 []).complete = false ∧ (launch1 1 1 []).share.length ≤ (launch1 1 1 []).retired + 1
    ∧ (launch1 1 1 []).wct < (ending 1).time ∧ (∀ v ∈ (ending 1).allWarps, v.team = 1 → v.wmax < (ending 1).time)
    ∧ (launch1 1 1 []).wct + 20 < (ending 1).time ∧ (launch1 1 1 []).xmode ≠ 2 ∧ (launch1 1 1 []).origin = none
    ∧ ((ending 1).queue (launch1 1 1 []).part (launch1 1 1 []).queue).host = none
    ∧ (launch1 2 2 []).retired + 1 < (launch1 2 2 []).share.length
    ∧ ((ending 1).queue 0 4).above = [] ∧ ((ending 1).queue 0 4).done + 1 = (launch1 1 1 []).seq := by
  and_intros <;> decide +kernel

/-- A job with a reserve of n records on core 3; the launch's team is parked in JCDEAL on core 0. -/
def parkedDeal (l : Launch) : State := { placing l with w := { user.w with cur := { user.w.cur with place := some 7 } } }
def job1 (n : Nat) : Job := { entry := 0x6100, recs := 0x8000, rsz := 16, min := 1, spec := false, central := (0, 0), reserves := [(3, [(0, n)])] }
theorem witness_ReservesBalanced :
    (let l := { launch1 1 1 [] with job := some (job1 8) }; hungryCores (parkedDeal l) l (job1 8) = [0] ∧ (job1 8).reserves = [(3, [(0, 8)])] ∧ 2 * (job1 8).min ≤ 8)
    ∧ (∀ r ∈ (job1 1).reserves, rangesLen' r.2 < 2 * (job1 1).min) ∧ (launch1 1 1 []).job = none
    ∧ (∀ p ∈ (parkedDeal (launch1 1 1 [])).parts, p.range.quarter = 0 → (parkedDeal (launch1 1 1 [])).time < p.balanced + 8000)
    ∧ quarter0 ∈ ({ parkedDeal (launch1 1 1 []) with time := 8000 } : State).parts ∧ quarter0.balanced + 8000 ≤ 8000 := by
  and_intros <;> decide +kernel

/-- A replicated launch over chips 0 and 5. -/
def replicated (oks : List Nat) (start : Option Nat) : Launch := { launch1 1 0 [] with xmode := 2, chips := [0, 5], oks := oks, start := start }
theorem witness_ReplicatedStarts : (placing (replicated [0] none)).findLaunch 2 = some (replicated [0] none) ∧ (replicated [0] none).xmode = 2
    ∧ (replicated [0] none).start = none ∧ (replicated [0] none).aborted = false ∧ 5 ∈ (replicated [0] none).chips ∧ 5 ∉ (replicated [0] none).oks
    ∧ (∀ x ∈ (replicated [0] none).chips, x ∈ (replicated [0] none).oks ∨ x = 5) ∧ (7 ∉ (replicated [0] none).chips)
    ∧ (placing (replicated [0] none)).time < (replicated [0] none).accepted + 10 ^ 6
    ∧ (replicated [0] none).accepted + 10 ^ 6 ≤ ({ placing (replicated [0] none) with time := 10 ^ 6 } : State).time
    ∧ (replicated [0] none).accepted + 10 ^ 6 < ({ placing (replicated [0] none) with time := 10 ^ 6 + 1 } : State).time
    ∧ (placing (replicated [0] none)).time ≤ (replicated [0] none).accepted + 10 ^ 6 ∧ (replicated [0] none).origin = none
    ∧ (let l := { replicated [0] none with origin := some 5 }; (placing l).findLaunch 2 = some l ∧ l.xmode = 2 ∧ l.start = none ∧ l.aborted = false ∧ l.origin = some 5 ∧ 5 ∈ l.chips
      ∧ 0 ∈ l.chips)
    ∧ (replicated [0, 5] (some 50)).start = some 50 ∧ 50 ≤ (placing (replicated [0, 5] (some 50))).time ∧ (placing (replicated [0, 5] (some 200))).time < 200 := by
  and_intros <;> decide +kernel

/-- Quarter 0 full: its 40 cores hold no free slot for a launch of priority 3 of 300 warps, which has waited; core 0 runs priority 1. -/
def waiting1 : Launch := { launch1 1 0 [] with id := 3, queue := 5, prio := 3, warps := 300, blocked := some 0 }
def preempting (l : List Launch) (delay : Nat) : State := { placing (launch1 1 1 []) with
  parts := [{ quarter0 with delay := delay }], launches := launch1 1 1 [] :: l }
/-- The team of core 0 saved under 40, resumable or not. -/
def saved1 (res : Bool) : State := { admin 2 0 [quarter0] with
  team := { mapped.team with asid := 1, saved := some 40 }, w := { mapped.w with saved := some 40, mon := some (0x80, 0x801, false) }
  saves := [{ id := 40, core := mapped.core, tsave := 1, res := res }] }

/-- A launch beside the saved team's. -/
def launch3 : Launch := { launch1 1 0 [] with id := 3 }

theorem witness_Preemption : (preempting [] 5).partOf 3 = none ∧ (preempting [] 5).partOf 0 = some { quarter0 with delay := 5 }
    ∧ (preempting [] 0).partOf 0 = some { quarter0 with delay := 0 }
    ∧ (let s := preempting [waiting1] 5;
      eligible s waiting1 = true ∧ canPlace s waiting1 = none ∧ 0 + 5 ≤ s.time ∧ eligible s (launch1 1 1 []) = false
      ∧ victim s (s.prio waiting1) 0 = true ∧ 0 ∈ openCores quarter0 ∧ victim s 1 0 = false) := by
  and_intros <;> decide +kernel

theorem witness_SwitchesAndResumes : residentTeams (admin 2 0 []) 5 = [] ∧ residentTeams (admin 2 0 []) 0 ≠ [] ∧ ((admin 2 0 []).orr 0).switch = 0
    ∧ (let s := { admin 2 0 [] with orrs := [{ core := 0, switch := 1 }] }; (s.orr 0).switch = 1 ∧ midInstruction s 0 = false ∧ reloadHeld s 0 = false ∧ (s.getCore 0).walks = []
      ∧ reloadHeld { s with w := { s.w with spilled := [3] }, writes := [{ id := 8, warp := 1, op := 9, line := 0, parts := [] }] } 0 = true
      ∧ midInstruction { s with shoots := [{ id := 4, asid := none, va := none, who := some (1, 0) }] } 0 = true)
    ∧ (saved1 false).saves.find? (fun x => x.id == 41) = none ∧ ((saved1 false).saves.find? (fun x => x.id == 40)).map (·.res) = some false
    ∧ (∀ v ∈ (saved1 false).allWarps, v.saved = some 40 → ∀ o ∈ v.ops, o.cls = .ld ∨ o.cls = .st → o.done = true)
    ∧ (∃ v ∈ ({ saved1 false with w := { (saved1 false).w with ops := [load1] } } : State).allWarps, v.saved = some 40 ∧ ∃ o ∈ v.ops, o.done = false ∧ (o.cls = .ld ∨ o.cls = .st))
    ∧ savedCtx (saved1 true) 40 = some mapped.ctx ∧ linkedSaves (saved1 true) 160 [40] = [40] ∧ ((saved1 true).saves.filter (fun x => x.id == 40)).length = 1
    ∧ (saved1 true).dev.pwr < 2 ∧ (mapped.core.spill = 0) ∧ ({ saved1 false with saves := [{ id := 40, core := { mapped.core with spill := 0x10000 }, tsave := 1 }] } : State).saves ≠ []
    ∧ savedCtx (saved1 false) 40 = some mapped.ctx ∧ (saved1 true).launches = [] ∧ 3 ∈ resumeCores (saved1 true) 40
    ∧ (let s := { saved1 true with launches := [launch3] };
      ∃ l ∈ s.launches, l.part = mapped.ctx.part ∧ eligible s l = true ∧ teamsPrio s (savedTeams s 40) < s.prio l)
    ∧ (let s := { saved1 true with orrs := [{ core := 0, switch := 2, incoming := some 40 }] }; (s.orr 0).switch = 2 ∧ (s.orr 0).incoming = some 40
      ∧ ({ s with orrs := [{ core := 0, switch := 2 }] } : State).orr 0 = { core := 0, switch := 2 }) := by
  and_intros <;> decide +kernel

/-! ## The machine as a whole -/

/-- mapped with VADD v3, v1, v2 at its PC, and a turn at the head of the agenda. -/
def turning (t : Turn) : State := withM [(0x41000, 4, 0x04041821)] { mapped with agenda := [t], team := { mapped.team with asid := 1 } }

theorem witness_StepRunsDecodedInstruction : (let s := turning (.issue 0 0 0); let u := { s with agenda := [] };
      takeTurn s = (.issue 0 0 0, u) ∧ (∃ g, chosen 0 0 0 u = some g ∧ coreRuns g 0 = true ∧ (let f := { g with last := (0, 0, 0) };
        watchDue f = false ∧ stepHeld f = false ∧ laneHeld f = false
        ∧ stepHeld { f with ctx := { f.ctx with dbgctl := 2 }, w := { f.w with others := [{ num := 1, supH := true }] } } = true
        ∧ laneHeld { f with dev := { f.dev with level0 := 1 }, core := { f.core with low := [0] } } = true
        ∧ fetchInstr (issuing f) f.w.cur.pc = .word 0x04041821 4 ∧ decodeWord 0x04041821 = .ok (.vadd 3 1 2))
        ∧ coreRuns { g with dev := { g.dev with pwr := 2 } } 0 = false)
      ∧ focus 0 0 1 u = none)
    ∧ (let s := turning (.event (.ebudRefill 1)); takeTurn s = (.event (.ebudRefill 1), { s with agenda := [] }) ∧ encodeWord (.ebudRefill 1) = none
      ∧ powered s (.ebudRefill 1) = true ∧ s.agenda = .event (.ebudRefill 1) :: []) := by
  and_intros
  all_goals first
    | rfl
    | decide +kernel

/-- Two warps of lane 0, the first with two splits, the second with one. -/
def lanes (a b c : Split) : State := { user with
  w := { user.w with cur := a, others := [b] }, ws := [{ user.w with uid := 2, slot := 4, cur := c }] }
/-- A split with its marks. -/
def split1 (n : Nat) (tried yielded : Bool) : Split := { num := n, pc := 0x1000, active := 1, tried := tried, yielded := yielded }

theorem witness_LaneTurns : (let s := lanes (split1 0 true false) (split1 1 false true) (split1 0 false false);
      (focus 0 0 0 s).isSome = true ∧ (((s.w :: s.ws).filter (fun w => w.resident && w.core == 0)).map (·.slot)).Nodup
      ∧ (∀ w ∈ s.w :: s.ws, (((w.cur :: w.others).filter (fun p => p.active != 0)).map (·.num)).Nodup ∧ ∀ p ∈ w.cur :: w.others, p.num < 8)
      ∧ (laneSplits s 0 0).length = 3 ∧ (∃ x ∈ laneSplits s 0 0, x.2.2.tried = false ∧ x.2.2.yielded = false)
      ∧ (chosen 0 0 0 s).map (·.w.slot) = some 4)
    ∧ (let s := { lanes (split1 0 true false) (split1 1 false true) (split1 0 true false) with core := { user.core with turns := [(0, 0)] } };
      (focus 0 0 0 s).isSome = true ∧ (∃ x ∈ laneSplits s 0 0, x.2.2.tried = false) ∧ (s.getCore 0).turns.lookup 0 = some 0
      ∧ (chosen 0 0 0 s).map (fun f => (f.w.slot, f.w.cur.num)) = some (0, 1)) := by
  and_intros <;> decide +kernel

/-- The memory of the placed instruction is canonical, and the step from it answers a next state. -/
theorem witness_MemoryStaysCanonical : Memory.wf (turning (.issue 0 0 0)).mem = true
    ∧ (match step (turning (.issue 0 0 0)) with | .next _ => true | _ => false) = true := by
  constructor <;> decide +kernel

theorem witness_DecodeEncode : encodeWord (.vadd 3 1 2) = some (32, 0x04041821) ∧ (encodeWord (.dict 37)).isSome = true
    ∧ (encode (.vadd 3 1 2)).isSome = true := by
  and_intros <;> decide +kernel
end

/-! ## Faults, watchpoints, speculative stores -/

section
set_option Elab.async false

/-- based with another address in s1, which is poisoned, or not, in thread 0's v2. -/
def astray (a : Nat) (poi : W32) : State := withS [(1, BitVec.ofNat 64 a)] { mapped with w := mapped.w.vSet 2 0xFFFFFFFF (fun _ => 0) poi }
/-- A split whose walk of page 4096 has found no leaf, and one whose page is readable only. -/
def unmapped : State := let s := astray (2 ^ 30) 0; { s with w := { s.w with cur := { s.w.cur with fresh := [(4096, .fail 1 3)] } } }
def readOnly : State := { based with w := { based.w with cur := { based.w.cur with fresh := [(0, .leaf 0x101013)] } }, core := { based.core with tlb := [] } }
/-- The code of the cause that thread 0's access of a size in v2 meets. -/
def causeOf (s : State) (acc : Acc) (size : Nat) : Option Nat := (globalCause s acc size (globalAddr s 1 2 0) (s.w.pGet 2 0)).map (·.code)
/-- based with watchpoint 3 armed on 8 bytes at 0x100, and a speculative team. -/
def guarded : State := { based with ctx := { based.ctx with watch := [{ idx := 3, va := 0x100, len := 8, units := [(0x100, 0x40100, 8)] }] } }
def holding (n : Nat) : State := { based with team := { based.team with spec := true, specLines := List.replicate n { line := 0 } } }

theorem witness_GlobalAccessesFail : (∀ acc ∈ [Acc.read, .write, .atomic],
      causeOf (astray 0x101 0) acc 4 = some 3 ∧ causeOf (astray 0x100 1) acc 4 = some 6 ∧ causeOf unmapped acc 4 = some 4)
    ∧ causeOf readOnly .write 4 = some 5 ∧ causeOf readOnly .atomic 4 = some 5
    ∧ 0 ∈ activeThreads (astray 0x101 0) ∧ RegsReady (astray 0x101 0) [2, 4] [4] ∧ RegsReady (astray 0x101 0) [2] (group 16 4)
    ∧ (∀ n ∈ activeThreads unmapped, translate unmapped .read (globalAddr unmapped 1 2 n) ≠ .walk)
    ∧ UserNoHandler (astray 0x101 0) ∧ UserNoHandler unmapped ∧ UserNoHandler readOnly ∧ (astray 0x101 0).w.count .ld < 30 ∧ (astray 0x101 0).w.count .st < 30
    ∧ (astray 0x101 0).w.dawn = false ∧ (astray 0x101 0).w.cur.active ≠ 0 ∧ (astray 0x101 0).team.spec = false ∧ fenceDone 4 (astray 0x101 0) = true
    ∧ (globalCause (astray 0x101 0) .read 8 ((astray 0x101 0).w.sGet 1 + (1#9).signExtend 64 * 8) false).isSome = true := by
  unfold UserNoHandler CanTrap RegsReady
  and_intros <;> decide +kernel

theorem witness_WatchedAndHeld : Reaches guarded .write 4 1 2 (fun _ => leaf0) (fun _ => 0x40100) ∧ Reaches guarded .atomic 4 1 2 (fun _ => leaf0) (fun _ => 0x40100)
    ∧ guarded.w.cur.skip = false ∧ watchHit guarded.ctx 0x40100 4 = some (3, 0x100) ∧ UserNoHandler guarded ∧ guarded.team.spec = false
    ∧ (∀ n ∈ activeThreads guarded, guarded.w.pGet 4 n = false) ∧ RegsReady guarded [2, 4] [4]
    ∧ Reaches (holding 0) .write 4 1 2 (fun _ => leaf0) (fun _ => 0x40100) ∧ RegsReady (holding 0) (2 :: group 4 4) [] ∧ (holding 0).team.spec = true
    ∧ (holding 0).ctx.watch = [] ∧ specUsed (holding 0) (holding 0).die + 1 ≤ 65536 ∧ UserNoHandler (holding 0) ∧ (holding 0).w.cur.active ≠ 0
    ∧ (∀ m, m < 32 → ((1 : W32).getLsbD m = true ↔ m ∈ activeThreads (astray 0x100 0)
        ∧ ({ (astray 0x100 0).w.vSet 4 0xFFFFFFFF (fun _ => 0) 1 with uid := 1 } : Warp).pGet 4 m = true)) := by
  unfold UserNoHandler CanTrap RegsReady Reaches
  and_intros <;> decide +kernel
/-- The same with the die's buffer full. -/
theorem witness_HeldFull : specUsed (holding 65536) (holding 65536).die = 65536 ∧ Reaches (holding 65536) .write 4 1 2 (fun _ => leaf0) (fun _ => 0x40100)
    ∧ ((((activeThreads (holding 65536)).map (fun _ => 0x40100 / 128)).eraseDups).filter
        (fun l => (holding 65536).team.specLines.all (fun x => x.line != l))).length = 1 := by
  refine ⟨?_, by unfold Reaches; decide +kernel, ?_⟩
  · have h : ∀ n, specUsed (holding n) (holding n).die = 0 + (List.replicate n ({ line := 0 } : SpecLine)).length := by
      intro n
      unfold specUsed
      have a : (holding n).allTeams = [(holding n).team] := rfl
      have b : ((holding n).team.core / Config.coresPerDie == (holding n).die) = true := by
        show (based.team.core / Config.coresPerDie == based.die) = true
        decide
      simp only [a, List.filter_cons, b, List.filter_nil, if_true, List.foldl_cons, List.foldl_nil]
      rfl
    rw [h, List.length_replicate]
  · have h : ((activeThreads (holding 65536)).map (fun _ => 0x40100 / 128)).eraseDups = [0x802] := by decide +kernel
    have a : ∀ l, l ≠ 0 → (holding 65536).team.specLines.all (fun x => x.line != l) = true := by
      intro l hl
      show (List.replicate 65536 ({ line := 0 } : SpecLine)).all (fun x => x.line != l) = true
      rw [List.all_eq_true]
      intro x hx
      rw [List.eq_of_mem_replicate hx]
      simpa using Ne.symm hl
    rw [h]
    simp only [a 2050 (by decide), List.filter_cons_of_pos, List.filter_nil, List.length_cons, List.length_nil]

/-- peering with another peer handle in s1, remote handle in s2, and offset of every thread in v3. -/
def handed (p r : Nat) (off : W32) (cut : List Nat) : State := let s := withS [(1, BitVec.ofNat 64 p), (2, BitVec.ofNat 64 r)] mapped;
  { s with w := s.w.vSet 3 0xFFFFFFFF (fun _ => off) 0, dev := { s.dev with cut := cut } }

theorem witness_HandlesFail : (∀ x ∈ [handed 0x105 0 0 [], handed 0x200 0 0 [], handed 0x100 0 8192 [], handed 0x100 7 0 [], handed 0x100 0 0 [0]],
      UserNoHandler x ∧ x.w.count .ld < 30 ∧ x.w.count .st < 30 ∧ x.w.acquiring = false ∧ x.team.spec = false ∧ 0 ∈ activeThreads x
      ∧ RegsReady x [4, 3, 5] [4, 3, 5] ∧ ∀ n ∈ activeThreads x, x.w.pGet 3 n = false ∧ (x.w.vGet 3 n).toNat % 8 = 0)
    ∧ (handed 0x105 0 0 []).team.csize ≤ ((handed 0x105 0 0 []).w.sGet 1).toNat % 2 ^ 8
    ∧ ((handed 0x200 0 0 []).w.sGet 1).toNat / 2 ^ 8 % 2 ^ 16 ≠ (handed 0x200 0 0 []).team.pgen
    ∧ (peerTeam (handed 0x100 0 8192 []) ((handed 0x100 0 8192 []).w.sGet 1)).map (·.ssize) = some 4096
    ∧ (handed 0x100 7 0 []).team.chips[((handed 0x100 7 0 []).w.sGet 2).toNat % 2 ^ 12]? = none
    ∧ (handed 0x100 0 0 [0]).team.chips[((handed 0x100 0 0 [0]).w.sGet 2).toNat % 2 ^ 12]? = some 0 ∧ chipReached (handed 0x100 0 0 [0]) 0 = false
    ∧ (holding 0).team.spec = true ∧ (holding 0).w.cur.active ≠ 0 := by
  unfold UserNoHandler CanTrap RegsReady
  and_intros <;> decide +kernel

/-- A write of two additions to one word, outstanding. -/
def adding : State := { mapped with
  w := { mapped.w with ops := [atomOp] }
  writes := [{ id := 6, warp := 1, op := 5, line := 0x802, parts := [.rmw 0x40104 .add 1 0 0, .rmw 0x40104 .add 2 0 1] }] }
/-- chained with Meridian group table 0 at 0x9000, of two ranks. -/
def rerouting : State := withM [(0x49000, 8, 2)] { chained with ctx := { chained.ctx with gdBase := 0x5000 }, mem := chained.mem ++ [(0x45001, 0x90)] }

theorem witness_TrafficAgain : (∀ x ∈ adding.writes, adding.writes.filter (fun y => y.id == x.id) = [x] ∧ writeMayRun x adding = true
      ∧ memExists (x.line * 128) = true ∧ ∀ p ∈ x.parts, (match p with | .rmw pa _ _ _ _ => !granPoisoned adding.mp pa 4 | .store _ _ _ => false) = true)
    ∧ adding.findWarp 1 = some adding.w ∧ adding.w.ops.filter (fun q => q.id == 5) = [atomOp]
    ∧ rerouting.findCtx 1 = some rerouting.ctx ∧ (List.range 2).all [1, 0].contains = true := by
  and_intros <;> decide +kernel

/-! ## Waits, exits, handlers -/

/-- failed with a failure of another class, whose limit counts it. -/
theorem witness_WaitReports : ∀ c ∈ [Cls.cp, .tl, .cl, .st], let s : State := { chained with
      w := { chained.w with fails := [{ id := 3, cls := c, ord := 1, cause := { code := 0x0D } }], issued := [(c.index, 1)] } };
    LimitsMet s 0 0 0 0 0 ∧ ∀ f ∈ s.w.fails, f.ord + 0 ≤ s.w.issuedOf f.cls := by
  unfold LimitsMet
  decide +kernel

/-- user whose core's extended blocks are asked for by the split itself, or by another warp. -/
def queueing (w : Nat) : State := { user with core := { user.core with xq := [{ warp := w, split := 0, n := 6 }] } }
/-- Two bound registers with a save area whose page 12 holds their records. -/
def saving2 : State := { saving with w := { (saving.w.vSet 4 0xFFFFFFFF (fun _ => 2) 0) with cur := { mapped.w.cur with priv := true } } }
/-- The only split of a warp that serves an upcall. -/
def exiting (u : Upcall) (policy : Nat) : State :=
  let w := walk1 {}
  let s := orrery 0 [{ w with rec_ := w.rec_.set 0 (BitVec.ofNat 64 (0x2000000020000020 + policy * 2 ^ 59)) }]
  { s with w := { s.w with ops := [], upcall := some u, latch := some latch1 } }

theorem witness_WaitsAgain : (∃ r rest, (queueing 1).core.xq = r :: rest ∧ r.warp = (queueing 1).w.uid ∧ r.split = (queueing 1).w.cur.num)
    ∧ blocksHeld (queueing 1) (queueing 1).core.num + (6#9).toNat ≤ 256 ∧ (∃ r rest, (queueing 7).core.xq = r :: rest ∧ r.warp ≠ (queueing 7).w.uid)
    ∧ (63#6).toNat = 63 ∧ (0#6).toNat ≤ 62
    ∧ saving2.w.bound = [3, 4] ∧ spillAt saving2 3 0x68180 0x6C00C ∧ spillAt saving2 4 0x68200 0x6C010 ∧ saving2.w.bound.Nodup := by
  unfold spillAt
  and_intros
  all_goals first
    | exact ⟨_, _, rfl, by decide, by decide⟩
    | exact ⟨_, _, rfl, by decide⟩
    | decide +kernel

theorem witness_ExitEndsUpcall : ∀ p ∈ [0, 1], ∀ k ∈ [0, 2, 3], let s := exiting (upcall1 k) p;
    s.w.dawn = false ∧ s.w.others = [] ∧ s.w.stack = [] ∧ s.w.upcall = some (upcall1 k) ∧ (upcall1 k).revoked = false ∧ s.w.core = s.core.num
    ∧ (∃ w, s.core.walks.filter (fun v => v.slot == 1) = [w] ∧ w.ended = none ∧ w.prob.policy = p ∧ (upStage w 0 k 0).retry = false ∧ 0 < w.units.length) := by
  intro p hp k hk
  refine ⟨rfl, rfl, rfl, rfl, rfl, rfl, _, rfl, rfl, ?_⟩
  revert p k
  decide +kernel

theorem witness_HandlerTraps : (∀ k ∈ [0, 2], UserNoHandler (serving (upcall1 k)) ∧ (serving (upcall1 k)).w.upcall = some (upcall1 k) ∧ (upcall1 k).revoked = false)
    ∧ UserNoHandler (stacked [] [{ num := 1, active := 1 }]) ∧ (stacked [] [{ num := 1, active := 1 }]).w.splits.length ≠ 1
    ∧ (let u := { upcall1 0 with cursor := 4096 }; Serving (serving u) u (walk1 {}) ∧ pieces record1 (record1.opType 0) (record1.stageCols 0) ≤ u.cursor)
    ∧ (let u := { upcall1 2 with cursor := 4096 }; Serving (serving u) u (walk1 {}) ∧ pieces record1 record1.dType record1.t ≤ u.cursor)
    ∧ ({ upcall1 0 with sealed := true } : Upcall).sealed = true ∧ ({ upcall1 0 with revoked := true } : Upcall).revoked = true
    ∧ ((serving (upcall1 0)).w.sGet 5).toNat ≠ (upcall1 0).addr
    ∧ (let s := serving (upcall1 0); let t : State := { s with core := { s.core with ap := [0] } };
      (firstPoison t.core (stageReads record1 0 (upcall1 0).addr)).isSome = true ∧ UserNoHandler t)
    ∧ (let r : PRec := record1.set 1 (BitVec.ofNat 64 (32 + 6 * 2 ^ 24 + 6 * 2 ^ 28));
      firstPoison (serving (upcall1 0)).core (stageReads r 0 0x1000000) = none ∧ (scaleFault r (serving (upcall1 0)).core 0 0x1000000).isSome = true)
    ∧ (serving (upcall1 0)).w.latch = some latch1 ∧ (serving (upcall1 0)).w.stack.length = latch1.depth
    ∧ (0#9).toNat % 2 = 0 := by
  unfold UserNoHandler CanTrap Serving
  and_intros <;> decide +kernel
end

section
theorem memNat_same (m m' : List Host.Cell) (a : Nat) (h : ∀ i, i < 8 → memRead m (a + i) = memRead m' (a + i)) : memNat m a 8 = memNat m' a 8 := by
  unfold memNat
  congr 1
  unfold memBytes
  exact List.map_congr_left fun i hi => h i (List.mem_range.1 hi)
/-- A walk reads three entries. -/
theorem walk_same {m m' : List Host.Cell} {r : PartRange} {root va va' : Nat} (b1 : bits va 56 44 = bits va' 56 44) (b2 : bits va 43 31 = bits va' 43 31)
    (b3 : bits va 30 18 = bits va' 30 18) (e1 : memNat m (root + bits va' 56 44 * 8) 8 = memNat m' (root + bits va' 56 44 * 8) 8)
    (e2 : let a := bits (memNat m' (root + bits va' 56 44 * 8) 8) 51 16 * 2 ^ 16 + bits va' 43 31 * 8; memNat m a 8 = memNat m' a 8)
    (e3 : let a := bits (memNat m' (bits (memNat m' (root + bits va' 56 44 * 8) 8) 51 16 * 2 ^ 16 + bits va' 43 31 * 8) 8) 51 16 * 2 ^ 16 + bits va' 30 18 * 8
      memNat m a 8 = memNat m' a 8) : pageWalk m r root va = pageWalk m' r root va' := by
  unfold pageWalk
  dsimp only at e2 e3 ⊢
  rw [b1, b2, b3, e1, e2, e3]
/-- The group table of rerouting, where it stands whatever its own bytes are. -/
theorem witness_LinkFailure : reroutedTable rerouting rerouting.ctx 0 = some 0x9000 ∧ memNat rerouting.mem 0x49000 8 % 8192 = 2 ∧ [1, 0].length ≤ 4096
    ∧ ∀ m, (∀ a, (a < 0x49000 ∨ 0x49000 + 64 + 8 * 2 ≤ a) → memRead m a = memRead rerouting.mem a) →
      ∀ x, x < 64 + 8 * 2 → ctxPA { rerouting with mem := m } rerouting.ctx (0x9000 + x) = some (0x49000 + x) := by
  refine ⟨by decide +kernel, by decide +kernel, by decide, fun m hm x hx => ?_⟩
  have e : ∀ a, a + 8 ≤ 0x49000 → memNat m a 8 = memNat rerouting.mem a 8 := fun a ha => memNat_same _ _ _ fun i hi => hm _ (by omega)
  have b1 : bits (0x9000 + x) 56 44 = bits 0x9000 56 44 := by unfold bits; omega
  have b2 : bits (0x9000 + x) 43 31 = bits 0x9000 43 31 := by unfold bits; omega
  have b3 : bits (0x9000 + x) 30 18 = bits 0x9000 30 18 := by unfold bits; omega
  have w : ctxWalk { rerouting with mem := m } rerouting.ctx (0x9000 + x) = .leaf leaf0 := by
    unfold ctxWalk
    rw [if_neg (by omega)]
    refine (walk_same (m' := rerouting.mem) (va' := 0x9000) b1 b2 b3 (e _ (by decide +kernel)) (e _ (by decide +kernel)) (e _ (by decide +kernel))).trans ?_
    show pageWalk rerouting.mem (rangeOf rerouting.parts rerouting.ctx) rerouting.ctx.root 0x9000 = .leaf leaf0
    decide +kernel
  unfold ctxPA
  rw [w]
  have l : leafPA leaf0 (0x9000 + x) = 1 * 2 ^ 18 + (0x9000 + x) % 2 ^ 18 := rfl
  show some (leafPA leaf0 (0x9000 + x)) = some (0x49000 + x)
  rw [l]
  congr 1
  omega
end

/-! ## Numbers, words, walks, routines, pages, the device, again -/

section
set_option Elab.async false

theorem witness_FloatValues : valueOf fmtF32 0x3F800000 = some 1 ∧ valueOf fmtF32 0xC0000000 = some (-2) ∧ valueOf fmtBF16 0x3F80 = some 1
    ∧ valueOf fmtF16 0x4000 = some 2 ∧ valueOf fmtF32 0x7F800000 = none ∧ elementValue 3 0x38 = some 1 ∧ elementValue 5 0x07 = some 1
    ∧ elementValue 9 0xFFFF = some (-1) ∧ isNaN (fdecode fmtF32 0x7FC00000) = true ∧ typeFloat 0 = some fmtF32 := by
  decide +kernel
/-- The exceptions of a tile's tree and of all its lanes together. -/
theorem witness_ScanExceptions (x : Nat → Exc) (y : Nat → Nat → Exc) (l : Nat → List Nat) :
    ∃ exc : Nat → Exc, ∀ n b, (exc n).getLsbD b = true ↔ (x n).getLsbD b = true ∨ ∃ u ∈ l n, (y n u).getLsbD b = true := by
  have h : ∀ (us : List Nat) (z : Exc) n b, (us.foldl (fun m u => m ||| y n u) z).getLsbD b = true
      ↔ z.getLsbD b = true ∨ ∃ u ∈ us, (y n u).getLsbD b = true := by
    intro us
    induction us with
    | nil => simp
    | cons u us ih =>
      intro z n b
      simp only [List.foldl_cons, ih, BitVec.getLsbD_or, Bool.or_eq_true, List.mem_cons, exists_eq_or_imp]
      tauto
  exact ⟨fun n => (l n).foldl (fun m u => m ||| y n u) (x n), fun n b => h _ _ _ _⟩

theorem witness_PrefixTables : permitted 0x04041821 ∧ fieldsPermitted 0 0 0 0 0 0x04041821 ∧ ¬ fieldsPermitted 0 0 5 0 0 0x04041821 ∧ ¬ permitted 0x1A33 := by
  refine ⟨⟨by decide, by decide⟩, ?_, fun h => absurd (h.2.2.1 (by decide) (by decide)) (by decide), fun h => ?_⟩
  · unfold fieldsPermitted
    and_intros <;> decide
  · obtain ⟨-, h | h⟩ := h
    · exact absurd h (by decide)
    · exact absurd h (by decide)

/-- DAWNLD of a slot that another team holds, or that runs. -/
theorem witness_DawnLoadRefused : dawning.core.dawn.st = .running ∧ (let s : State := { loaded with core := { loaded.core with dawn := { loaded.core.dawn with owner := 9 } } };
    s.core.dawn.st ≠ .free ∧ s.core.dawn.owner ≠ s.w.team) := by decide

theorem witness_OpostJudged : opostReason (posting record1 (orrery 0 [])) (record1.set 1 (BitVec.ofNat 64 (32 + 2 ^ 24))) = some 3
    ∧ opostReason (posting record1 (orrery 0 [])) (record1.set 0 0x2000000000000020) = some 4
    ∧ opostReason chained record1 = some 5 ∧ opostReason (posting record1 (orrery 0 [])) (record1.set 3 0x5001) = some 6
    ∧ record1.footprint ≤ 320 * 2 ^ 10 ∧ opostReason (posting record1 (orrery 0 [])) record1 = none
    ∧ opostReason { orrery 0 [] with orrs := [{ core := 0, fenced := [1, 2, 3, 4] }] } record1 = some 8 := by
  and_intros <;> decide +kernel

/-- An upcall delivered late in a walk that may raise it anew. -/
def lateWalk : WalkS := let w := walk2 1 (staged { st := .given, num := 1 }); { w with rec_ := w.rec_.set 0 0x2800000020000020 }
theorem witness_UpcallRaisedAnew : WalkIn (orrery 0 [lateWalk]) 0 lateWalk ∧ deliveredUp lateWalk 1 = some (0, 0, 0) ∧ 0 < lateWalk.units.length ∧ lateWalk.prob.tmo ≠ 0
    ∧ (upStage lateWalk 0 0 0).raised + lateWalk.prob.tmo * 1000 ≤ 1000 ∧ lateWalk.prob.policy ≠ 0 ∧ (upStage lateWalk 0 0 0).retry = false
    ∧ (orrery 0 [lateWalk]).findTeam lateWalk.team = some (orrery 0 [lateWalk]).team
    ∧ (((walk1 { running := true, slot := .pending }).unit 0).next + 1) % (walk1 {}).prob.steps = 0
    ∧ ((walk1 { running := true, slot := .pending }).unit 0).slot ≠ .free
    ∧ (serving { upcall1 2 with revoked := true }).w.latch = some latch1 := by
  unfold WalkIn
  and_intros <;> decide +kernel

theorem witness_BodyJudged : (0x04041821 % 2 = 1 ∧ wordMajor 0x04041821 = 0x10 ∧ decodeWord 0x04041821 = .ok (.vadd 3 1 2))
    ∧ wordMajor 0x08000027 = 0x13 ∧ (16#7).toNat > 15 ∧ (0#7).toNat ≤ 15 ∧ (0#3).toNat ≤ 5 ∧ 5 < (6#3).toNat := by
  unfold wordMajor
  decide
theorem witness_OperatorOrder : (∀ assoc : Bool, ∃ (f : RFun) (op : RVal → RVal → RVal), f.assoc = assoc ∧ ∀ a b, ∃ m, f.comb a b = .ok (op a b, m))
    ∧ opElem mapped agent1 1 (desc 0x6000 1 1 4 0 0 0 0 0) 0 0 = .ok [0] ∧ vecElem mapped agent1 1 (desc 0x6000 1 1 4 0 0 0 0 0) 0 = .ok [0]
    ∧ blockNodes (fun a _ => a) (fun _ => [0]) 2 1 = [[0]] := by
  refine ⟨fun x => ⟨{ width := 1, assoc := x, comm := false, ident := [0], comb := fun a b => .ok (a ++ b, 0) }, fun a b => a ++ b, rfl, fun _ _ => ⟨_, rfl⟩⟩, ?_⟩
  and_intros <;> decide +kernel

/-- A poisoned source of a quantising record: bytes that must not be released. -/
theorem witness_RecordMustNotRelease : (let r := flying judgeQuant quantRec none; let s := { inFlightAt 100 r quantRec with mp := [0x46000 / 64] };
      none ∈ ((quantWork.out s (recAgent 1 chain2 r) (heldEnv s s.ctx { chain2 with recs := [r] } r) r.ds).take 4).drop 0)
    ∧ (let d := desc 0x6000 4 4 16 0 0 0 0 0; typeWidth (dType d) = 8 * 4 ∧ dLayout d ≤ 2 ∧ 3 < dRows d ∧ 3 < dCols d) := by
  decide +kernel

/-! ### KV caches and the store -/

/-- A shared leaf under migration, or with the most mappings; the second page of the cache has it. -/
def movingLeaf (f : Nat) : Nat := sharedLeaf f + 2 ^ 11
def crowdedLeaf (f : Nat) : Nat := f * 2 ^ 20 + 255 * 2 ^ 12 + 2 ^ 6 + 2 ^ 4 + 3
theorem witness_KvPages : (let s := pooled [9, 10] (kv 2 128 0 0 (poolLeaf1 5) (sharedLeaf 6)); let e := readEnt s s.ctx 0;
      kvLeaf s s.ctx e 1 ≠ none ∧ kvShared s s.ctx e 1 = true ∧ kvHeld s e 1 = false ∧ (popFrame s).isSome = true ∧ Memory.wf s.mem = true
      ∧ leafSC (BitVec.ofNat 64 (sharedLeaf 6)) = 2 ∧ (s.ctx.pool ≠ []))
    ∧ (let s := pooled [9, 10] (kv 2 128 0 0 (poolLeaf1 5) (movingLeaf 6)); kvHeld s (readEnt s s.ctx 0) 1 = true ∧ kvShared s s.ctx (readEnt s s.ctx 0) 1 = true)
    ∧ (let s := pooled [9, 10] (kv 2 70 0 0 0 0); let e := readEnt s s.ctx 0;
      (needLeaves s.ctx [e.dw 1, e.dw 1 + 2 ^ 18] s).isSome = true ∧ (leafAddr s s.ctx (e.dw 1)).isSome = true)
    ∧ (let s := kv 2 10 10 100 (crowdedLeaf 5) (sharedLeaf 6); let e := readEnt s s.ctx 0;
      (kvLeaf s s.ctx e 0).map (fun p => leafSC p.2) = some 255 ∧ [0].length > s.ctx.pool.length ∧ [0].length ≤ (pooled [9] s).ctx.pool.length
      ∧ kvHeld s e 0 = false ∧ e.dw 1 % 2 ^ 18 = 0 ∧ leafPA (BitVec.ofNat 64 (crowdedLeaf 5)) (e.dw 1) / 2 ^ 18 = 5
      ∧ (needLeaves s.ctx ((List.range 1).map (fun i => (readEnt s s.ctx 1).dw 1 + i * 2 ^ 18)) s).isSome = true)
    ∧ kvHeld (kv 2 10 10 100 (movingLeaf 5) 0) (readEnt (kv 2 10 10 100 (movingLeaf 5) 0) (kv 2 10 10 100 (movingLeaf 5) 0).ctx 0) 0 = true
    ∧ Memory.wf (snapped 1).mem = true := by
  and_intros <;> decide +kernel

/-- A cache far from every table, in a partition all of whose frames are out. -/
def kvFull : State := let s := withM [(0x45008, 8, 2 ^ 44)] (pooled [9] (kv 2 5 0 0 0 0)); { s with
  parts := [quarter0], dev := { s.dev with used := 0 :: (List.range (2 ^ 19)).map (· + 1) } }
theorem witness_KvNoTable : (readEnt kvFull kvFull.ctx 0).dw 1 = 2 ^ 44 ∧ needLeaves kvFull.ctx [2 ^ 44] kvFull = none := by
  refine ⟨by decide +kernel, ?_⟩
  have hs : rangeOf kvFull.parts kvFull.ctx = { quarter := 0, count := 1 } := rfl
  have hf : freeFrame kvFull { quarter := 0, count := 1 } 0 = none := full1_none rfl
  have he : bit (memNat kvFull.mem (kvFull.ctx.root + bits (2 ^ 44) 56 44 * 8) 8) 0 = false := by decide +kernel
  have hn : needLeaf kvFull kvFull.ctx (2 ^ 44) = none := by
    unfold needLeaf needTable
    simp only [hs, hf, he]
    rfl
  unfold needLeaves
  rw [List.foldlM_cons, hn]
  rfl

/-- The store with its area where no page is, and with its page under migration. -/
theorem witness_RingFaults : (let s := withM [(0x45028, 8, 2 ^ 30)] (snapped 1); ∀ x ∈ [Acc.read, .write], (ringFault s s.ctx s.w.cur.priv (readEnt s s.ctx 0) x).isSome = true)
    ∧ ctxPA (snapped 1) (snapped 1).ctx (keyVA (readEnt (snapped 1) (snapped 1).ctx 0) 0) = some 0x4A000 := by
  and_intros <;> decide +kernel

/-! ### The device -/

/-- admin with a range of memory open to the host, with what the limiter of die 0 has measured, and with a shoot-down under way. -/
def opening : State := let s := admin 2 0 [quarter0]; { s with dev := { s.dev with opened := [(0, 0x40000, 0x1000)] } }
def limiting (x : Limit) : State := let s := admin 2 0 [quarter0]; { s with time := 10 ^ 7, dev := { s.dev with cap := 1, limits := [(0, x)] } }
theorem witness_DeviceAgain : barTwoPA 8 opening = some 0x40008 ∧ barTwoPA 0x2000 opening = none ∧ opening.snaps = [] ∧ (∀ c ∈ opening.ctx :: opening.ctxs, c.watch = [])
    ∧ (let s := limiting { above := some 0 }; 1000 * s.dev.cap < 2000 ∧ (tabGet ({} : Limit) 0 s.dev.limits).above = some 0 ∧ 0 + 100000 ≤ s.time)
    ∧ (let s := limiting { below := some 0 }; ¬ 1000 * s.dev.cap < 500 ∧ (tabGet ({} : Limit) 0 s.dev.limits).below = some 0 ∧ 0 + 1000000 ≤ s.time)
    ∧ (∃ k ∈ (shot false).shoots, k.done = false) ∧ (∀ k ∈ (admin 2 0 [quarter0]).shoots, k.done = true)
    ∧ stoppedIn stopped1 1 stopped1.w = true ∧ imageStands stopped1 stopped1.w = false
    ∧ quarter0.divided + 100000 ≤ (limiting {}).time ∧ (admin 2 0 []).time < quarter0.divided + 100000
    ∧ onTable (admin 2 0 []).ctx (2 ^ 40) 0 = false ∧ onTable (admin 2 0 []).ctx 0 0 = true
    ∧ ({ hosted 3 with dev := { (hosted 3).dev with tripTime := some 5 } } : State).dev.pwr ≠ 4 := by
  and_intros <;> decide +kernel


/-- A core whose save area's page of the user frame of slot 0 is mapped, or is not. -/
theorem witness_UserFrames : framePA user = none ∧ (framePA { saving with core := { saving.core with spill := 0x10000 } }).isSome = true := by
  and_intros <;> decide +kernel
end

end Sys2Proof.Tests
end

/-! # Scalar division and comparison (07 R155, R156) -/

section

namespace Sys2Proof.Machine

open Sys2Proof Sys2Proof.Claims

/-! ## Instructions that complete with a change of the issuing warp only -/

theorem warpOnly_finish (s : State) (w : Warp) : WarpOnly s (finish { s with w := w }) := ⟨rfl, fun _ => rfl⟩

theorem goesOn_finish (s : State) {w : Warp} (h : w.cur = s.w.cur) : GoesOn s (finish { s with w := w }) s.ix.next :=
  ⟨rfl, by simp [after, h]⟩

theorem sSet_but_s (w : Warp) (n : Nat) (x : W64) : { w.sSet n x with s := w.s } = w := by
  unfold Warp.sSet
  split <;> rfl

/-- A write of one scalar is the whole effect of putS. -/
theorem scalarResult_of_putS {i : Instr} {s : State} {d : BitVec 6} {x : W64} (h : exec i s = .next (putS d x s)) :
    ScalarResult i s d.toNat x := by
  refine ⟨putS d x s, h, warpOnly_finish s _, goesOn_finish s (Warp.sSet_cur _ _ _),
    Warp.sGet_sSet_self s.w d.toNat x, fun n hn => Warp.sGet_sSet_ne s.w x hn, ?_⟩
  exact congrArg (fun w : Warp => { w with cur := s.w.cur }) (sSet_but_s s.w d.toNat x)

/-! ## Division (07 R155) -/

theorem sdiv_result (s : State) (d a b : BitVec 6) :
    ScalarResult (.sdiv d a b) s d.toNat (divS (s.w.sGet a.toNat) (s.w.sGet b.toNat)) := scalarResult_of_putS rfl
theorem srem_result (s : State) (d a b : BitVec 6) :
    ScalarResult (.srem d a b) s d.toNat (remS (s.w.sGet a.toNat) (s.w.sGet b.toNat)) := scalarResult_of_putS rfl
theorem sdivn_result (s : State) (d a b : BitVec 6) :
    ScalarResult (.sdivn d a b) s d.toNat (divU (s.w.sGet a.toNat) (s.w.sGet b.toNat)) := scalarResult_of_putS rfl
theorem sremn_result (s : State) (d a b : BitVec 6) :
    ScalarResult (.sremn d a b) s d.toNat (remU (s.w.sGet a.toNat) (s.w.sGet b.toNat)) := scalarResult_of_putS rfl

theorem divS_zero (a : W64) : divS a 0 = -1 := rfl
theorem remS_zero (a : W64) : remS a 0 = a := rfl
theorem divU_zero (a : W64) : divU a 0 = BitVec.ofNat 64 (2 ^ 64 - 1) := rfl
theorem remU_zero (a : W64) : remU a 0 = a := rfl

/-- The one quotient that does not fit: −2^63 by −1. -/
theorem divS_overflow : divS (BitVec.ofInt 64 (-(2 ^ 63))) (-1) = BitVec.ofInt 64 (-(2 ^ 63)) := by decide
theorem remS_overflow : remS (BitVec.ofInt 64 (-(2 ^ 63))) (-1) = 0 := by decide

/-! ## Comparison (07 R148, R156) -/

theorem cmpZ_iff (a b : W64) : cmpZ a b = true ↔ a = b := by
  rw [cmpZ, beq_iff_eq, sub_eq_zero]

theorem cmpN_eq (a b : W64) : cmpN a b = (a - b).getLsbD 63 := BitVec.msb_eq_getLsbD_last _

theorem cmpC_iff (a b : W64) : cmpC a b = true ↔ b.toNat ≤ a.toNat := decide_eq_true_iff

/-- The 64-bit difference is the exact one where that fits; on either side of the range it is off by 2^64 and of the
other sign. -/
theorem toInt_sub_cases (a b : W64) :
    (-(2 ^ 63) ≤ a.toInt - b.toInt ∧ a.toInt - b.toInt < 2 ^ 63 ∧ (a - b).toInt = a.toInt - b.toInt)
    ∨ (a.toInt - b.toInt < -(2 ^ 63) ∧ (a - b).toInt = a.toInt - b.toInt + 2 ^ 64 ∧ 0 ≤ (a - b).toInt)
    ∨ (2 ^ 63 ≤ a.toInt - b.toInt ∧ (a - b).toInt = a.toInt - b.toInt - 2 ^ 64 ∧ (a - b).toInt < 0) := by
  have ha := a.toInt_lt
  have ha' := a.le_toInt
  have hb := b.toInt_lt
  have hb' := b.le_toInt
  rw [BitVec.toInt_sub, Int.bmod_def]
  omega

theorem cmpV_iff (a b : W64) :
    cmpV a b = true ↔ (a.toInt - b.toInt < -(2 ^ 63) ∨ 2 ^ 63 ≤ a.toInt - b.toInt) := by
  rw [cmpV, decide_eq_true_iff]
  rcases toInt_sub_cases a b with ⟨hlo, hhi, h⟩ | ⟨hlo, h, hs⟩ | ⟨hhi, h, hs⟩ <;> omega

theorem cmpN_iff (a b : W64) : cmpN a b = true ↔ (a - b).toInt < 0 := by
  rw [cmpN, BitVec.msb_eq_toInt, decide_eq_true_iff]

/-- LT reads N ≠ V: the sign of the exact difference is N, inverted where the subtraction overflowed. -/
theorem cmpN_ne_cmpV_iff (a b : W64) : cmpN a b ≠ cmpV a b ↔ a.toInt < b.toInt := by
  rw [Ne, Bool.eq_iff_iff, not_iff, cmpN_iff, cmpV_iff]
  rcases toInt_sub_cases a b with ⟨hlo, hhi, h⟩ | ⟨hlo, h, hs⟩ | ⟨hhi, h, hs⟩ <;> omega

/-- The four flags are the whole effect of a comparison. -/
theorem setsFlags_of_setCmp {i : Instr} {s : State} {a b : W64} (h : exec i s = .next (finish (setCmp a b s))) :
    SetsFlags i s a b :=
  ⟨finish (setCmp a b s), h, warpOnly_finish s _, goesOn_finish s rfl,
    cmpZ_iff a b, cmpN_eq a b, cmpC_iff a b, cmpV_iff a b, cmpN_ne_cmpV_iff a b, rfl⟩

end Sys2Proof.Machine

open Sys2Proof Sys2Proof.Machine Sys2Proof.Claims

/-- Settles O2: SDIV, SREM, SDIVN and SREMN write divS, remS, divU and remU of their operands, whose values in each row
of R155's table are lemmas of their own. -/
theorem scalarDivision : Obligations.ScalarDivision := by
  unfold Obligations.ScalarDivision
  intro s d a b x y
  have hdiv : ScalarResult (.sdiv d a b) s d.toNat (divS x y) := sdiv_result s d a b
  have hrem : ScalarResult (.srem d a b) s d.toNat (remS x y) := srem_result s d a b
  have hdivn : ScalarResult (.sdivn d a b) s d.toNat (divU x y) := sdivn_result s d a b
  have hremn : ScalarResult (.sremn d a b) s d.toNat (remU x y) := sremn_result s d a b
  refine ⟨fun hy => ?_, fun hy => ?_, fun ⟨hx, hy⟩ => ?_⟩
  · rw [← divS_eq x y hy, ← remS_eq x y hy, ← divU_eq x y hy, ← remU_eq x y hy]
    exact ⟨hdiv, hrem, hdivn, hremn⟩
  · rw [hy, divS_zero] at hdiv
    rw [hy, remS_zero] at hrem
    rw [hy, divU_zero] at hdivn
    rw [hy, remU_zero] at hremn
    exact ⟨hdiv, hrem, hdivn, hremn⟩
  · rw [hx, hy, divS_overflow] at hdiv
    rw [hx, hy, remS_overflow] at hrem
    exact ⟨hdiv, hrem⟩

/-- Settles O3: both instructions set the flags by setCmp and complete. -/
theorem compareSetsFlags : Obligations.CompareSetsFlags := by
  unfold Obligations.CompareSetsFlags
  exact fun s a b i => ⟨setsFlags_of_setCmp rfl, setsFlags_of_setCmp rfl⟩

end
